-- ==== Sys2Proof/Word.lean ====
section
/-!
DEFINITION. The word types of the machine (00_scope: numbers, units and byte order).
-/
namespace Sys2Proof

/-- One byte, the smallest addressable unit of every memory. -/
abbrev Byte := BitVec 8
/-- A register slot: every register occupies an 8-byte slot (R524). -/
abbrev Word := BitVec 64
/-- One 32-byte cell instruction or flash descriptor (R73, R196). -/
abbrev Inst256 := BitVec 256

end Sys2Proof
end

