-- ==== Sys2Proof/Syntax.lean ====
section
/-!
DEFINITION. The commands of the block: one constructor of `Instr` per row of spec/opcode_table.json, with the operands
that reach the block from outside. What the source leaves without a layout (vector instructions, step results, boot findings)
stands as an abstract operand (log entries 18 to 23).
-/
namespace Sys2Proof

/-- Host ports P0 to P3 (R377). -/
abbrev PortId := Fin 4
/-- Cells 0 to 55 (R14). -/
abbrev CellId := Fin 56
/-- Spans s0 to s7 (R20). -/
abbrev SpanId := Fin 8
/-- Mailboxes 0 to 31 (R418). -/
abbrev MbxId := Fin 32
/-- Queue indices k of R429: 0 command, 1 reply, 2 to 17 item queues. -/
abbrev QueueId := Fin 18
/-- Identity of R10. -/
abbrev Ident := BitVec 8
/-- An FP32 bit pattern (R35). -/
abbrev F32 := BitVec 32

/-- A command packet as it reaches the queue engine: the two header words of R391 and the body. -/
structure Packet where
  hdr0 : Word
  hdr1 : Word
  body : List Byte
  deriving DecidableEq, Repr

/-- What an error-correcting read met (R119, R180, R430). -/
inductive EccOutcome where
  | clean
  | corrected
  | uncorrectable (word : Nat) (syndrome : Nat)
  deriving DecidableEq, Repr

/-- What the check bits met in the reads of one cell instruction (R119 to R121): words corrected; uncorrectable words as operand, line of
its region, word and syndrome; and the handle whose table entry failed its parity (log entry 64). -/
structure ReadErrs where
  corrected : Nat := 0
  bad       : List (Nat × Nat × Nat × Nat) := []
  parity    : Option Nat := none
  deriving DecidableEq, Repr

/-- What the LDPC decode of one flash page met (R203). -/
inductive PageOutcome where
  /-- every codeword decoded; `n` of them were corrected -/
  | corrected (n : Nat)
  /-- some codeword needed read retry; `n` were corrected -/
  | retried (n : Nat)
  /-- codeword `c` and those of `more` stayed uncorrectable; `n` were corrected -/
  | uncorrectable (c : Fin 8) (more : List (Fin 8)) (n : Nat)
  deriving DecidableEq, Repr

/-- Why a port goes down (R415). -/
inductive DownCause where
  | dlDown | hotReset | perst | flr
  deriving DecidableEq, Repr

/-- Rounding modes of R42. -/
inductive Rounding where
  | rne | rtz | rd | ru | sr
  deriving DecidableEq, Repr

/-- Vector-unit operations of R94. The element operations take one or more source views and write one. -/
inductive VectorOp where
  | add | mul | fma | div | min | max | cmpLt | select
  | exp2 | exp | recip | rsqrt
  | sum | maximum | logSumExp
  | convert
  | temperature | repetition | topK (k : Nat) | prefixSum | draw
  /-- masked scores of a step row set to −Inf (R335): the row, the layer, and the delivered page at which the vector begins -/
  | attnMask (row layer page : Nat)
  /-- page masses of a step row (R343): row, layer, KV head, query head, and the delivered page at which the vector begins -/
  | pageMass (row layer kvHead qHead page : Nat)
  deriving DecidableEq, Repr

/-- A vector instruction with the fields its class needs; the source gives no bit layout (log entry 18).
Handles are numbers of R106; `len` counts elements; `param` is the scalar operand of the sampling helpers. -/
structure VectorInst where
  op    : VectorOp
  h0    : Nat
  h1    : Nat
  h2    : Nat
  hd    : Nat
  len   : Nat
  rnd   : Nat
  sat   : Bool
  param : F32
  list  : List Nat
  deriving DecidableEq, Repr

/-- The logits of one step row, over the whole vocabulary, as the final projection leaves them (log entry 21). -/
structure RowLogits where
  row    : Nat
  logits : List F32
  deriving DecidableEq, Repr

/-- What the cells of a span return for one step (log entry 21). `late` names the object and tile that made the step overrun (R172). -/
structure StepResult where
  dt     : Nat
  rows   : List RowLogits
  late   : Option (Nat × Nat)
  deriving DecidableEq, Repr

/-- What the environment supplies at a step boundary: the elapsed time, the greedy proposals of the draft span (R277),
the outcomes of spare self-tests (R484: 0 pass, 1 array fails, 2 memory fails), and the dies that return the new epoch (R490). -/
structure BoundaryEnv where
  dt        : Nat
  proposals : List (Nat × List Nat)
  selfTest  : List (Nat × Nat)
  deafDies  : List Nat
  pauseUs   : Nat
  deriving DecidableEq, Repr

/-- One factor element's gradient (R372, R373; log entry 22). -/
structure Grad where
  index : Nat
  g     : F32
  deriving DecidableEq, Repr

/-- What the backward pass of one query head reads (R356; log entry 22): its layer and head, the rotated queries, the keys and the values as the
cell holds them, with their formats; positions of its rows and keys; d*O* and *O* in FP32. -/
structure HeadBack where
  layer : Nat
  head  : Nat
  qFmt  : Nat
  kFmt  : Nat
  q     : List (List Nat)
  k     : List (List Nat)
  v     : List (List Nat)
  rows  : List Nat
  keys  : List Nat
  dOut  : List (List F32)
  out   : List (List F32)
  deriving DecidableEq, Repr

/-- How the work of one training step ended (R374 and the table of 12, "Control and faults during a job"). -/
inductive TrainOutcome where
  | gradients (heads : List HeadBack) (g : List Grad)
  | datasetLost
  | ckptLost
  deriving DecidableEq, Repr

/-- A firmware image as it was shipped: whether it verifies, its version and svn, and its interface levels by die kind 1 to 4 (lowest,
highest). The source gives no bytes for it (log entry 23). -/
structure Shipped where
  good    : Bool
  version : Nat
  svn     : Nat
  levels  : List (Nat × Nat)
  deriving DecidableEq, Repr

/-- What the hardware finds during a boot (R478; log entry 23). -/
structure BootEnv where
  ms          : Nat
  linksBad    : List Nat
  spareLanes  : List Nat
  dieLevels   : List Nat
  dieKinds    : List Nat
  dieRevs     : List Nat
  deafDies    : List Nat
  badChannels : List Nat
  arrayFails  : List Nat
  memFails    : List Nat
  meshBad     : Bool
  badCopies   : List (Nat × Nat × Nat)
  intactRows  : List (Nat × Nat)
  badUnits    : List Nat
  boots       : Bool
  refCount    : Nat
  badRecords  : List Nat
  shipped     : List Shipped
  deriving DecidableEq, Repr

/-- Causes of a module reset (R475, `KEY_BOOT.reset_cause`). -/
inductive ResetCause where
  | cold | watchdog | thermalTrip | sag | lockstep | dieMismatch | meshLink | stewardFault | stillExit | seat
  deriving DecidableEq, Repr

/-- The data of a register write; `meets` marks the W1C bits that a hardware event of the same cycle has set (R8, log entry 82). -/
structure RegData where
  value : Word
  meets : Word := 0
  deriving DecidableEq, Repr

/-- A latch instruction's word, and whether another operation reaches the same latch in the same cycle (R146, log entry 59). -/
structure LatchCmd where
  word : Inst256
  more : Bool := false
  deriving DecidableEq, Repr

/-- A MOVE instruction's word with what its reads met, or a descriptor that steward firmware or a step sequencer pushes (log entries 64, 67). -/
structure MoveCmd where
  word   : Inst256
  errs   : ReadErrs := {}
  pushed : Option (Ident × BitVec 512) := none
  deriving DecidableEq, Repr

/-- The word of a matrix or side-path instruction, with what its reads met (log entry 64). -/
structure ArrayCmd where
  word : Inst256
  errs : ReadErrs := {}
  deriving DecidableEq, Repr

/-- A vector instruction, with what its reads met (log entry 64). -/
structure VectorCmd where
  inst : VectorInst
  errs : ReadErrs := {}
  deriving DecidableEq, Repr

/-- The end of a tile move or of an object's move: its number, and what the reads of its tiles or lines met (log entry 64). -/
structure ReadsEnd where
  id   : Nat
  errs : List (Nat × EccOutcome) := []
  deriving DecidableEq, Repr

/-- A wait on a remote latch: its engine, 56 for the tier engine, and its place in that engine's list (R148, log entry 66). -/
structure WaitRef where
  engine : Fin 57
  index  : Nat
  deriving DecidableEq, Repr

/-- A plane, and the pulses of a program or segments of an erase that it has had since (R200, R210). -/
structure PlaneStep where
  plane : Fin 64
  count : Nat
  deriving DecidableEq, Repr

/-- A relay packet's tile; whether the next hop holds a credit for it, and the cycles for which it has waited (R237 to R239). -/
structure RelayTile where
  tile   : Nat
  credit : Bool
  waited : Nat
  deriving DecidableEq, Repr

/-- The commands: one constructor per row of the opcode table. -/
inductive Instr where
  -- host commands: steward firmware serves the packet of port `p` (R402)
  | echo (p : PortId) (pkt : Packet)
  | getInfo (p : PortId) (pkt : Packet)
  | modelLoad (p : PortId) (pkt : Packet)
  | modelUnload (p : PortId) (pkt : Packet)
  | modelSwap (p : PortId) (pkt : Packet)
  | adapterLoad (p : PortId) (pkt : Packet)
  | adapterReplace (p : PortId) (pkt : Packet)
  | adapterDrop (p : PortId) (pkt : Packet)
  | reqCreate (p : PortId) (pkt : Packet)
  | reqAppend (p : PortId) (pkt : Packet)
  | reqCancel (p : PortId) (pkt : Packet)
  | reqQuery (p : PortId) (pkt : Packet)
  | spanConfigure (p : PortId) (pkt : Packet)
  | configStage (p : PortId) (pkt : Packet)
  | configCommit (p : PortId) (pkt : Packet)
  | objRegister (p : PortId) (pkt : Packet)
  | objPlace (p : PortId) (pkt : Packet)
  | objRevoke (p : PortId) (pkt : Packet)
  | flashWriteImage (p : PortId) (pkt : Packet)
  | flashErase (p : PortId) (pkt : Packet)
  | flashRead (p : PortId) (pkt : Packet)
  | trainStart (p : PortId) (pkt : Packet)
  | opSuspend (p : PortId) (pkt : Packet)
  | opResume (p : PortId) (pkt : Packet)
  | opAbort (p : PortId) (pkt : Packet)
  | opStatus (p : PortId) (pkt : Packet)
  | cadenceSet (p : PortId) (pkt : Packet)
  | powerSet (p : PortId) (pkt : Packet)
  | fwUpdate (p : PortId) (pkt : Packet)
  -- port accesses and events
  | commandPost (p : PortId) (tail : BitVec 32)
  | commandWindowWrite (p : PortId) (off : Nat) (data : List Byte)
  | commandDispatch (ecc : EccOutcome)
  | badAccess (p : PortId) (write : Bool)
  | registerWrite (writer : Ident) (off : Nat) (size : Nat) (data : RegData)
  | readClear (reader : Ident) (off : Nat) (size : Nat)
  | flcDoneRead (reader : Ident)
  | cadNowRead (reader : Ident)
  | keyRegisterWrite (writer : Ident) (off : Nat) (value : Word)
  | pcieConfigRequest (p : PortId)
  | poisonedWrite (p : PortId)
  | portDown (p : PortId) (cause : DownCause)
  | portUp (p : PortId) (speed width : Nat)
  | portPowerState (p : PortId) (d3hot : Bool)
  -- mailboxes and management messages
  | mbxSend (writer : Ident) (m : MbxId)
  | mbxTake (writer : Ident) (m : MbxId)
  | mbxLockRead (reader : Ident) (m : MbxId)
  | mbxLockRelease (writer : Ident) (m : MbxId) (value : BitVec 8)
  | mbxLockBreak (m : MbxId) (cause : Nat)
  | mbxHoldExpiry (m : MbxId)
  | mbxDbMaskWrite (p : PortId) (mask : BitVec 32)
  | ping (p : PortId)
  | state (p : PortId)
  | unknownMessageType (p : PortId)
  | mgmtAnswerTimeout (p : PortId)
  -- queues
  | queConsume (p : PortId) (k : QueueId) (seq : BitVec 32)
  | queFlush (p : PortId) (value : BitVec 32)
  | flushApply (p : PortId) (k : QueueId)
  | headFill (p : PortId) (k : QueueId) (ecc : EccOutcome)
  | coalesceWindowExpiry (p : PortId) (k : QueueId)
  | pacedRelease (slot : Fin 4096)
  -- cell instructions and cell registers
  | nop (n : CellId)
  | stop (n : CellId)
  | branch (n : CellId) (handle off : Nat)
  | countedLoop (n : CellId) (start count : Nat)
  | signal (n : CellId) (c : LatchCmd)
  | wait (n : CellId) (c : LatchCmd)
  | reset (n : CellId) (c : LatchCmd)
  | rearm (n : CellId) (c : LatchCmd)
  | move (n : CellId) (c : MoveCmd)
  | matrixInstruction (n : CellId) (c : ArrayCmd)
  | matrixComplete (n : CellId)
  | sidePathInstruction (n : CellId) (c : ArrayCmd)
  | vectorInstruction (n : CellId) (c : VectorCmd)
  | arrayParityError (n : CellId)
  | celStart (writer : Ident) (n : CellId) (value : BitVec 32)
  | stopReq (writer : Ident) (n : CellId)
  | celRngSeedWrite (writer : Ident) (n : CellId) (seed : BitVec 32)
  | hndHiWrite (writer : Ident) (n : CellId) (h : Fin 64) (value : Word)
  | hndLoWrite (writer : Ident) (n : CellId) (h : Fin 64) (value : Word)
  | poolScrubRead (n : CellId) (ecc : EccOutcome)
  -- moves, mesh and latches
  | moveComplete (n : Fin 57) (m : ReadsEnd)
  | fetchLegComplete (leg : Nat) (ns : Nat) (poisoned : Bool)
  | flitCrcFail (n : CellId) (dir : Fin 5)
  | waitNotification (r : WaitRef)
  | waiterRegistrationRetry (r : WaitRef)
  -- tiers
  | objectMoveEnd (o : ReadsEnd)
  | eviction (obj : Nat) (tier : Nat)
  | dramPatrolRead (ch : Fin 34) (ecc : EccOutcome)
  | channelCopyDone
  | t3CompletionTimeout (leg : Nat)
  -- weight flash
  | read (writer : Ident) (w : Inst256)
  | readRaw (writer : Ident) (w : Inst256)
  | markCheck (writer : Ident) (w : Inst256)
  | program (writer : Ident) (w : Inst256)
  | erase (writer : Ident) (w : Inst256)
  | paramRead (writer : Ident) (w : Inst256)
  | paramProgram (writer : Ident) (w : Inst256)
  | paramErase (writer : Ident) (w : Inst256)
  | relocate (writer : Ident) (w : Inst256)
  | dieReset (writer : Ident) (w : Inst256)
  | flcClkWrite (writer : Ident) (value : BitVec 32)
  | flcWaitWrite (writer : Ident) (value : BitVec 32)
  | flcClockSwitch
  | arrayReadDone (d : Fin 2) (k : Fin 64) (o : PageOutcome)
  | planeSuspend (d : Fin 2) (p : PlaneStep)
  | planeResume (d : Fin 2) (k : Fin 64)
  | programVerifyPass (d : Fin 2) (p : PlaneStep)
  | eraseVerifyPass (d : Fin 2) (p : PlaneStep)
  | pulseLimitReached (d : Fin 2) (k : Fin 64)
  | operationCut (d : Fin 2) (k : Fin 64)
  | readCountSave
  -- serving
  | relayPacket (sp : SpanId) (role obj : Nat) (t : RelayTile)
  | tokenizeDone (p : PortId) (tag : BitVec 16) (tokens : List Nat) (replaced : Bool)
  | stepBoundary (sp : SpanId) (env : BoundaryEnv)
  | stepEnd (sp : SpanId) (r : StepResult)
  | appendAck (sp : SpanId) (row layer : Nat)
  | labMissFill (sp : SpanId) (slot : Fin 4096) (layer line : Nat) (parityBad : Bool)
  | admWaitExpiry (p : PortId) (tag : BitVec 16)
  | parkLimitExpiry (slot : Fin 4096)
  | epochReadbackTimeout (die : Fin 6) (again : Bool)
  | trainStep (op : Fin 64) (o : TrainOutcome)
  -- cadence
  | cadenceEdge (src : Fin 3) (dt : Nat) (deckDiff : Nat)
  | periodTimeout (deckDiff : Nat)
  | holdoverEntry
  | acquireTimeout
  | holdoverExpiry
  | ptmSourceFail
  -- power and thermal
  | powerMeasurement (mainMv auxMv nowDw tenMsDw avgDw : Nat) (clock10 : Nat)
  | sensorReading (temps : List Int)
  | throttleStep
  | gustEntry
  | gustCreditSpent
  | sagWarn (mv : Nat)
  | sagClear (mv : Nat)
  | sagReset
  | seatOpen (mv : Nat)
  | powerUpStart (lanes smbA : BitVec 2) (bankCharged : Bool)
  | lullEntry
  | lullWake
  | watchdogFeed (writer : Ident) (progress : BitVec 32)
  | watchdogExpiry
  | lockstepMismatch
  | stewardFault (core : Fin 8)
  -- resets and boot
  | coldReset (lanes smbA : BitVec 2)
  | moduleReset (cause : ResetCause)
  | boot (env : BootEnv)
  | trestleRetrain (link : Fin 7)
  | trestleRetrainDone (link : Fin 7) (repaired : Bool) (sparesLeft : Nat)
  -- management over SMBus
  | setEndpointId (op : Nat) (eid : Byte)
  | getEndpointId
  | getMctpVersionSupport (msgType : Byte)
  | getMessageTypeSupport
  | getVendorDefinedMessageSupport (selector : Byte)
  | getInventory
  | getThermal
  | getPower
  | getLog
  | keystoneRecord (fragment : List Byte) (last : Bool)
  -- JTAG
  | bypass (tdi : Bool)
  | idcode
  | samplePreload (pins : List Bool) (load : List Bool)
  | extest (shift : List Bool) (pins : List Bool)
  -- rows the table adds at its end
  | flywheelBoundary (deckDiff : Nat)
  | holdupBankCharged
  deriving DecidableEq, Repr

end Sys2Proof
end

