-- ==== Sys2Proof/Decode.lean ====
section
/-!
DEFINITION. The words of the opcode table. No row of the table gives bits (every "fields" list is empty): the commands reach the block as
packets, register accesses and events, so no word spells one.
-/
namespace Sys2Proof

/-- The command that a word spells by the table's bits: none, since no row gives bits (log entry 1). -/
def decodeTableWord (_nbits _w : Nat) : Option Instr := none

end Sys2Proof
end

