-- ==== Sys2Proof/Machine/SMap.lean ====
section
/-!
DEFINITION. Sparse tables: a list of (key, value) pairs in one canonical form (keys strictly rising, no entry equal to what an
unlisted key reads as). Every memory and every register file of the machine is one of these, so equal contents are equal data.
-/
namespace Sys2Proof

/-- A sparse table keyed by `Nat`. -/
abbrev SMap (α : Type) := List (Nat × α)

namespace SMap
variable {α : Type}

/-- What key `k` reads as: its entry, else the default `d`. -/
def get (d : α) : SMap α → Nat → α
  | [], _ => d
  | (j, x) :: r, k => if j = k then x else get d r k

/-- The table without any entry for `k`. -/
def del : SMap α → Nat → SMap α
  | [], _ => []
  | (j, x) :: r, k => if j = k then del r k else (j, x) :: del r k

/-- The entry (k, v) put before the first greater key. -/
def ins : SMap α → Nat → α → SMap α
  | [], k, v => [(k, v)]
  | (j, x) :: r, k, v => if k < j then (k, v) :: (j, x) :: r else (j, x) :: ins r k v

/-- `m` with `k` reading as `v`; writing the default `d` removes the entry. -/
def put [DecidableEq α] (d : α) (m : SMap α) (k : Nat) (v : α) : SMap α :=
  if v = d then del m k else ins (del m k) k v

/-- The keys that hold an entry. -/
def keys (m : SMap α) : List Nat := m.map (·.1)

/-- Keys strictly rising from a lower bound. -/
def risingFrom : Nat → SMap α → Bool
  | _, [] => true
  | lo, (j, _) :: r => decide (lo ≤ j) && risingFrom (j + 1) r

/-- The canonical form, where key `k` reads as `d k` when unlisted. -/
def wf [DecidableEq α] (d : Nat → α) (m : SMap α) : Bool :=
  risingFrom 0 m && m.all fun e => decide (e.2 ≠ d e.1)

end SMap
end Sys2Proof
end

