-- ==== Sys2Proof/Machine/Bits.lean ====
section
/-!
DEFINITION. Bit fields and byte order (00_scope, "Numbers, units and byte order"; R3).
-/
namespace Sys2Proof.Machine

/-- Bits [hi:lo] of a number. -/
def nbits (v hi lo : Nat) : Nat := (v >>> lo) % 2 ^ (hi + 1 - lo)

/-- Bits [hi:lo] of a bit vector. -/
def bits {n : Nat} (w : BitVec n) (hi lo : Nat) : Nat := nbits w.toNat hi lo

/-- Bit `i` of a bit vector. -/
def bit {n : Nat} (w : BitVec n) (i : Nat) : Bool := bits w i i == 1

/-- `w` with bits [hi:lo] replaced by the low bits of `v`. -/
def setBits (w : Word) (hi lo v : Nat) : Word :=
  BitVec.ofNat 64 (w.toNat - (nbits w.toNat hi lo) <<< lo + (v % 2 ^ (hi + 1 - lo)) <<< lo)

/-- 1 for true. -/
def b2n (b : Bool) : Nat := if b then 1 else 0

/-- `n` bytes of `v`, least significant first (R3). -/
def leBytes : Nat → Nat → List Byte
  | 0, _ => []
  | n + 1, v => BitVec.ofNat 8 v :: leBytes n (v / 256)

/-- The number that little-endian bytes spell (R3). -/
def ofLe : List Byte → Nat
  | [] => 0
  | b :: r => b.toNat + 256 * ofLe r

/-- Big-endian bytes, as FIPS 186-5 lays numbers out (R227). -/
def ofBe (l : List Byte) : Nat := ofLe l.reverse

/-- Bytes `off` to `off + n - 1` of a byte string; bytes past its end read zero. -/
def slice (l : List Byte) (off n : Nat) : List Byte :=
  let r := (l.drop off).take n
  r ++ List.replicate (n - r.length) 0

/-- The little-endian number of `n` bytes at `off`. -/
def leAt (l : List Byte) (off n : Nat) : Nat := ofLe ((l.drop off).take n)

/-- One byte at `off`. -/
def byteAt (l : List Byte) (off : Nat) : Nat := leAt l off 1

/-- ASCII text as bytes. -/
def ascii (s : List Char) : List Byte := s.map fun c => BitVec.ofNat 8 c.toNat

/-- Ceiling division. -/
def cdiv (a b : Nat) : Nat := (a + b - 1) / b

/-- A count field that holds at its greatest value. -/
def holdAt (top v : Nat) : Nat := min top v

/-- The number of set bits among bits 0 to n - 1. -/
def popCount (v : Nat) : Nat → Nat
  | 0 => 0
  | n + 1 => b2n (v.testBit n) + popCount v n

/-- The numbers below `n` whose bit is set, ascending. -/
def bitList (v n : Nat) : List Nat := (List.range n).filter fun i => v.testBit i

/-- The mask with the listed bits set. -/
def maskOf (l : List Nat) : Nat := l.foldl (fun a i => a ||| 2 ^ i) 0

/-- The first element with the least key; ties go to the earlier. -/
def argMin {α : Type} (key : α → Nat) : List α → Option α
  | [] => none
  | x :: r => match argMin key r with
    | none => some x
    | some y => if key y < key x then some y else some x

/-- Replace element `i` of a list by `f` of it. -/
def modAt {α : Type} (f : α → α) : Nat → List α → List α
  | _, [] => []
  | 0, x :: r => f x :: r
  | i + 1, x :: r => x :: modAt f i r

/-- The list without its element `i`. -/
def dropAt {α : Type} : Nat → List α → List α
  | _, [] => []
  | 0, _ :: r => r
  | i + 1, x :: r => x :: dropAt i r

/-- An element put into a list that rises by `key`, behind those of the same key. -/
def insertBy {α : Type} (key : α → Nat) (x : α) : List α → List α
  | [] => [x]
  | y :: r => if key x < key y then x :: y :: r else y :: insertBy key x r

/-- A list in rising order of `key`; elements of one key keep their order. -/
def sortBy {α : Type} (key : α → Nat) (l : List α) : List α := l.foldl (fun acc x => insertBy key x acc) []

end Sys2Proof.Machine
end

