-- ==== Sys2Proof/Machine/Crypto.lean ====
section
/-!
DEFINITION. SHA-384 (FIPS 180-4) and ECDSA over P-384 (FIPS 186-5), which R227, R229, R469 and R480 name (log entry 27).
-/
namespace Sys2Proof.Machine

/-! ### SHA-384 -/

/-- The largest r with r^k ≤ n, from bit `b - 1` down. -/
def rootBits (k n : Nat) : Nat → Nat → Nat
  | 0, r => r
  | b + 1, r => rootBits k n b (if (r + 2 ^ b) ^ k ≤ n then r + 2 ^ b else r)

/-- The first 64 bits of the fraction of the k-th root of a prime, as FIPS 180-4 defines its constants. -/
def rootFraction (k p : Nat) : Word := BitVec.ofNat 64 (rootBits k (p * 2 ^ (64 * k)) 69 0)

/-- The primes below 410: eighty of them. -/
def primesTo409 : List Nat := (List.range 410).filter fun p => 2 ≤ p && (List.range p).all fun d => d < 2 || p % d != 0

/-- The chaining value of SHA-384 and the working variables of a round. -/
structure Sha where
  ab : Word × Word
  cd : Word × Word
  ef : Word × Word
  gh : Word × Word
  deriving DecidableEq, Repr

/-- Eight words as a chaining value. -/
def Sha.ofWord (f : Nat → Word) : Sha := { ab := (f 0, f 1), cd := (f 2, f 3), ef := (f 4, f 5), gh := (f 6, f 7) }

/-- The initial value: square roots of the ninth to the sixteenth prime. -/
def Sha.initial : Sha := Sha.ofWord fun i => rootFraction 2 (primesTo409.getD (8 + i) 0)

/-- The exclusive or of a word turned right by each of the amounts. -/
def turns (x : Word) (l : List Nat) : Word := l.foldl (fun acc k => acc ^^^ x.rotateRight k) 0

/-- One round with constant `k` and message word `m` (6.4.2, step 3). -/
def Sha.round (v : Sha) (k m : Word) : Sha :=
  let choose := (v.ef.1 &&& v.ef.2) ||| (~~~v.ef.1 &&& v.gh.1)
  let most := (v.ab.1 &&& (v.ab.2 ||| v.cd.1)) ||| (v.ab.2 &&& v.cd.1)
  let add := v.gh.2 + k + m + choose + turns v.ef.1 [14, 18, 41]
  { ab := (add + most + turns v.ab.1 [28, 34, 39], v.ab.1), cd := (v.ab.2, v.cd.1), ef := (v.cd.2 + add, v.ef.1), gh := (v.ef.2, v.gh.1) }

/-- The word that follows a window of sixteen words of the message schedule (6.4.2, step 1). -/
def nextWord (win : List Word) : Word :=
  let old := win.getD 1 0
  let new := win.getD 14 0
  win.getD 0 0 + win.getD 9 0 + (turns old [1, 8] ^^^ old >>> 7) + (turns new [19, 61] ^^^ new >>> 6)

/-- The rounds over the primes that are left, one for each; the window slides along the message schedule. -/
def Sha.rounds (v : Sha) (win : List Word) : List Nat → Sha
  | [] => v
  | p :: ps => (v.round (rootFraction 3 p) (win.getD 0 0)).rounds (win.drop 1 ++ [nextWord win]) ps

/-- Two values added word by word. -/
def Sha.plus (u v : Sha) : Sha :=
  let two := fun (x y : Word × Word) => (x.1 + y.1, x.2 + y.2)
  { ab := two u.ab v.ab, cd := two u.cd v.cd, ef := two u.ef v.ef, gh := two u.gh v.gh }

/-- A message taken in, 128 bytes a block, `n` blocks. -/
def Sha.absorb (v : Sha) (m : List Byte) : Nat → Sha
  | 0 => v
  | n + 1 => (v.plus (v.rounds ((List.range 16).map fun i => BitVec.ofNat 64 (ofBe (slice m (8 * i) 8))) primesTo409)).absorb (m.drop 128) n

/-- The bytes of a number, most significant first. -/
def beBytes (n v : Nat) : List Byte := (leBytes n v).reverse

/-- What follows a message of `n` bytes: one bit, zeros, and 8n in 16 bytes, to a whole number of blocks (5.1.2). -/
def shaTail (n : Nat) : List Byte := 0x80 :: (List.replicate ((239 - n % 128) % 128) 0 ++ beBytes 16 (8 * n))

/-- SHA-384 of a byte string: the first six words of the value, most significant byte first. -/
def sha384 (m : List Byte) : List Byte :=
  let v := Sha.initial.absorb (m ++ shaTail m.length) (m.length / 128 + if m.length % 128 < 112 then 1 else 2)
  [v.ab.1, v.ab.2, v.cd.1, v.cd.2, v.ef.1, v.ef.2].flatMap fun w => beBytes 8 w.toNat

/-! ### ECDSA over P-384 -/

/-- The field prime of P-384. -/
def p384 : Nat := 2 ^ 384 - 2 ^ 128 - 2 ^ 96 + 2 ^ 32 - 1
/-- The order of the base point. -/
def n384 : Nat := 0xffffffffffffffffffffffffffffffffffffffffffffffffc7634d81f4372ddf581a0db248b0a77aecec196accc52973
/-- The coefficient b; a is −3. -/
def b384 : Nat := 0xb3312fa7e23ee7e4988e056be3f82d19181d9c6efe8141120314088f5013875ac656398d8a2ed19d2a85c8edd3ec2aef
/-- The base point. -/
def g384 : Nat × Nat :=
  (0xaa87ca22be8b05378eb1c71ef320ad746e1d3b628ba79b9859f741e082542a385502f25dbf55296c3a545e3872760ab7,
   0x3617de4a96262c6f5d9e98bf9292dc29f8f41dbd289a147ce9da3113b5f0b8c00a60b1ce1d7e819d7a431d7c90ea0e5f)

/-- x^e modulo m, over `k` bits of e. -/
def powMod (m : Nat) : Nat → Nat → Nat → Nat
  | 0, _, _ => 1 % m
  | k + 1, x, e => (if e % 2 = 1 then x * powMod m k (x * x % m) (e / 2) else powMod m k (x * x % m) (e / 2)) % m

/-- The inverse modulo a prime. -/
def invMod (m x : Nat) : Nat := powMod m 384 (x % m) (m - 2)

/-- A point of P-384 in Jacobian coordinates; z = 0 is the point at infinity. -/
structure JPoint where
  x : Nat
  y : Nat
  z : Nat
  deriving DecidableEq, Repr

/-- Subtraction in the field. -/
def subP (a b : Nat) : Nat := (a + p384 - b % p384) % p384

/-- The double of a point. -/
def JPoint.double (p : JPoint) : JPoint :=
  let zz := p.z * p.z % p384
  let yy := p.y * p.y % p384
  let s := 4 * p.x * yy % p384
  let m := 3 * (subP p.x zz) * (p.x + zz) % p384
  let x := subP (m * m) (2 * s)
  { x, y := subP (m * subP s x) (8 * yy * yy), z := 2 * p.y * p.z % p384 }

/-- The sum of two points. -/
def JPoint.add (p q : JPoint) : JPoint :=
  if p.z = 0 then q
  else if q.z = 0 then p
  else
    let z1 := p.z * p.z % p384
    let z2 := q.z * q.z % p384
    let u1 := p.x * z2 % p384
    let u2 := q.x * z1 % p384
    let s1 := p.y * z2 % p384 * q.z % p384
    let s2 := q.y * z1 % p384 * p.z % p384
    if u1 = u2 then (if s1 = s2 then p.double else ⟨1, 1, 0⟩)
    else
      let h := subP u2 u1
      let r := subP s2 s1
      let hh := h * h % p384
      let hhh := h * hh % p384
      let v := u1 * hh % p384
      let x := subP (subP (r * r) hhh) (2 * v)
      { x, y := subP (r * subP v x) (s1 * hhh), z := h * p.z % p384 * q.z % p384 }

/-- A multiple of a point, over `k` bits. -/
def JPoint.mul : Nat → Nat → JPoint → JPoint
  | 0, _, _ => ⟨1, 1, 0⟩
  | k + 1, e, p => if e % 2 = 1 then p.add (JPoint.mul k (e / 2) p.double) else JPoint.mul k (e / 2) p.double

/-- Whether (r, s) is a signature of a 48-byte digest under the public key (x, y) (FIPS 186-5). -/
def ecdsaOk (digest : List Byte) (x y r s : Nat) : Bool :=
  let onCurve := decide (x < p384 ∧ y < p384 ∧ y * y % p384 = (x * x % p384 * x + (p384 - 3) * x + b384) % p384)
  onCurve && decide (0 < r ∧ r < n384 ∧ 0 < s ∧ s < n384) &&
    (let w := invMod n384 s
     let u1 := ofBe digest * w % n384
     let u2 := r * w % n384
     let q := (JPoint.mul 384 u1 ⟨g384.1, g384.2, 1⟩).add (JPoint.mul 384 u2 ⟨x, y, 1⟩)
     let zi := invMod p384 q.z
     q.z != 0 && q.x * (zi * zi % p384) % p384 % n384 == r)

/-- The signature check of a signed header (R227, R229): uncompressed point 0x04, X, Y, and big-endian r and s. -/
def signatureOk (digest key sig : List Byte) : Bool :=
  byteAt key 0 == 4 && ecdsaOk digest (ofBe (slice key 1 48)) (ofBe (slice key 49 48)) (ofBe (slice sig 0 48)) (ofBe (slice sig 48 48))

/-- The affine coordinates of a point other than infinity. -/
def JPoint.affine (p : JPoint) : Nat × Nat :=
  let zi := invMod p384 p.z
  let z2 := zi * zi % p384
  (p.x * z2 % p384, p.y * z2 % p384 * zi % p384)

/-- The public keys under which (r, s) can be a signature of a digest (SEC 1, 4.1.6): the record of R469 carries no key. -/
def recoverKeys (digest : List Byte) (r s : Nat) : List (Nat × Nat) :=
  if r = 0 ∨ n384 ≤ r ∨ s = 0 ∨ n384 ≤ s then []
  else
    let ri := invMod n384 r
    let u1 := (n384 - ofBe digest % n384 * ri % n384) % n384
    let u2 := s * ri % n384
    [r, r + n384].flatMap fun x =>
      let c := (x * x % p384 * x + (p384 - 3) * x + b384) % p384
      let y := powMod p384 384 c ((p384 + 1) / 4)
      if p384 ≤ x ∨ y * y % p384 ≠ c then []
      else [y, p384 - y].filterMap fun y =>
        let q := (JPoint.mul 384 u1 ⟨g384.1, g384.2, 1⟩).add (JPoint.mul 384 u2 ⟨x, y, 1⟩)
        if q.z = 0 then none else some q.affine

end Sys2Proof.Machine
end

