-- ==== Sys2Proof/Config.lean ====
section
/-!
DEFINITION. What an implementation fixes, and the free values (log entries 10, 13, 15, 16, 20). An opaque constant has no body:
nothing can be proved about its value, so a theorem that mentions it holds whatever it is.
-/
namespace Sys2Proof

/-- The tokenizer tables as the text unit installs them (R257, R441): the text of each vocabulary entry, the EOS token and the
special tokens. The source lays out no bytes for the section (log entry 20). -/
structure Tokenizer where
  texts    : List (List Byte)
  eos      : Nat
  specials : List Nat
  deriving DecidableEq, Repr, Inhabited

/-- A factor-table entry of an adapter pack (R357): the two dimensions and the byte offsets of A, B and the column scales. -/
structure Factor where
  dIn  : Nat
  dOut : Nat
  aOff : Nat
  bOff : Nat
  sOff : Nat
  deriving DecidableEq, Repr, Inhabited

/-- The state that a checkpoint object holds (R374): factors, both moments, updates made, epoch and record cursor. -/
structure Checkpoint where
  w      : List (Nat × F32)
  m      : List (Nat × F32)
  v      : List (Nat × F32)
  t      : Nat
  epoch  : Nat
  cursor : Nat
  deriving DecidableEq, Repr, Inhabited

/-- Where a step programme wants data: a role, a handle of its cell, a line offset into that region and a latch relative to the cell's first
(R169, R342, R495; the source gives the programme no layout, log entry 20). -/
structure ProgDest where
  role   : Nat
  handle : Nat
  line   : Nat
  latch  : Nat
  deriving DecidableEq, Repr, Inhabited

/-- A layer tile that a step consumes: the place of its object in the image's directory, the tile and its consumer (R169; log entry 20). -/
structure LayerTile where
  obj  : Nat
  tile : Nat
  dest : ProgDest
  deriving DecidableEq, Repr, Inhabited

/-- A projection of a role's cell, as the step programme runs it on one group of rows (R361, R362; log entry 20): its layer and target, its last
base matrix instruction, the blocks of K of the whole projection, and the cell's handles for A, B, the intermediate t, the column scales of A,
the partial sums of t, and the scaled sums of a base that does not accumulate in FP32 alone. -/
structure Projection where
  layer   : Nat
  target  : Nat
  base    : BitVec 256
  kBlocks : Nat
  hA      : Nat
  hB      : Nat
  hT      : Nat
  hScale  : Nat
  hSum    : Nat
  hCopy   : Nat
  deriving DecidableEq, Repr, Inhabited

/-- Attention gradients of one query head (R356): layer and head, and dQ, dK and dV by row. -/
structure HeadGrad where
  layer : Nat
  head  : Nat
  dq    : List (List (BitVec 32))
  dk    : List (List (BitVec 32))
  dv    : List (List (BitVec 32))
  deriving DecidableEq, Repr, Inhabited

namespace Config

/-- A fresh free value: `State.free` is the argument, and each use advances it (log entry 15). -/
opaque freeValue : Nat → BitVec 64
/-- Whether a racing element read gives the old value (R75, log entry 17). -/
opaque raceOld : Nat → Bool
/-- Where within 2 units in the last place an assist's result lies, by assist (0 2^x, 1 e^x, 2 reciprocal) and operand (R46, log entry 16). -/
opaque ulpChoice : Nat → F32 → Nat
/-- The result of an assist outside the normal range, for which R46 states no bound (log entry 16). -/
opaque beyondAssist : Nat → F32 → F32
/-- The multiplier with which a fused multiply-add forms the reciprocal square root from the reciprocal (R94 states no steps, log entry 16). -/
opaque rsqrtScale : F32 → F32
/-- The addend of that multiply-add (log entry 16). -/
opaque rsqrtAdd : F32 → F32
/-- Log-sum-exp of two values other than −Inf (R94; the source states neither its steps nor its accuracy, log entry 16). -/
opaque lseAssist : F32 → F32 → F32
/-- The exponent field that a Gust decoder gives an element whose code exceeds E (variant, E, code; log entry 34). -/
opaque gustBelow : Nat → Nat → Nat → Nat
/-- beta^t of the AdamW update (R373; the source does not state how the power is formed, log entry 16). -/
opaque powAssist : F32 → Nat → F32
/-- The tokenizer that a tokenizer section's bytes spell (R227, R257; log entry 20). -/
opaque tokenizerOf : List Byte → Tokenizer
/-- Whether the tables of an image that the source gives no layout for (role table, layer map, step programme) are well formed
(R232; log entry 20). -/
opaque tablesOk : List Byte → Bool
/-- Pair rate of an image's projections under R58, in quarters: 1, 4 or 8 (R304; the header does not name it, log entry 20). -/
opaque pairRate4 : List Byte → Nat
/-- Whether the image's step programme section holds a training plan (12, "Training jobs"; log entry 20). -/
opaque hasTrainingPlan : List Byte → Bool
/-- The activation format that an image's projections use (R358; log entry 20). -/
opaque baseActivation : List Byte → Nat
/-- The append latch that the step programme of a model (id, generation) names for a layer: a role and the latch's number relative to the
first latch of its cell (R341, R495; log entry 20). -/
opaque appendLatch : Nat → Nat → Nat → Nat × Nat
/-- Where the step programme of a model (id, generation) wants a page piece: for a layer, a piece, a segment and the place of the page among those
that the segment sees (R342; log entry 20). -/
opaque pieceDest : Nat → Nat → Nat → Nat → Nat → Nat → ProgDest
/-- The layer tiles that a step of a model (id, generation) consumes, in layer order (R169; log entry 20). -/
opaque layerTiles : Nat → Nat → List LayerTile
/-- The projections that the step programme of a role of a model (id, generation, role) runs on a group of rows (R361; log entry 20). -/
opaque projections : Nat → Nat → Nat → Nat → List Projection
/-- The factor by which the step programme scales scores of heads of a given size (R335, R356; the source names no way to form it, log entry 87). -/
opaque scoreScale : Nat → F32
/-- The natural logarithm with which the step programme forms the log-sum-exp of a row (R355; the source states no steps, log entry 87). -/
opaque logSum : F32 → F32
/-- What the backward pass feeds the array for a value of the probabilities, the score gradients or d*O* (0, 1, 2): a format and a pattern. The
source does not state these formats (R356, log entry 22). -/
opaque gradOperand : Nat → F32 → Nat × Nat
/-- The gradient of a factor element that a step's attention gradients and its other products give, the latter as the operand of the step has it
(element, operand; R372, log entry 22). -/
opaque factorGrad : List HeadGrad → Nat → F32 → F32
/-- The role whose cell samples for a model (id, generation), as its step programme names it (R268; log entry 20). -/
opaque samplingRole : Nat → Nat → Nat
/-- The bytes of the step programme of a role of a model (id, generation), before it is installed (R495; log entry 20). -/
opaque programme : Nat → Nat → Nat → List Byte
/-- The relocation list of that programme: the byte place of each latch number and the role whose cell it counts from (R495; log entry 20). -/
opaque relocations : Nat → Nat → Nat → List (Nat × Nat)
/-- The set of the look-aside buffer that a line falls in (slot, generation, layer, line; R328 does not say; log entry 45). -/
opaque labSet : Nat → Nat → Nat → Nat → Nat
/-- Array cycles that one adapter version adds to a step, with the moves of R362 (model id, generation, rank, targets): the layer map that
decides them has no layout (R363; log entry 20). -/
opaque adapterCycles : Nat → Nat → Nat → Nat → Nat
/-- The entry that 32 bytes of a factor table spell (R357 names its parts, not their places; log entry 49). -/
opaque factorEntry : List Byte → Factor
/-- The cells that compute part of a projection (model id, generation, layer, target): role, first column tile and column tiles (R359; the
layer map has no layout, log entry 20). -/
opaque factorParts : Nat → Nat → Nat → Nat → List (Nat × Nat × Nat)
/-- The objects of a trained adapter (model id, generation, rank, targets): role, format, tiles (R359, R374; log entry 49). -/
opaque installPlan : Nat → Nat → Nat → Nat → List (Nat × Nat × Nat)
/-- The bytes of object `k` of a trained adapter with the given factors (R358, R374; log entry 49). -/
opaque installBytes : List (Nat × F32) → Nat → List Byte
/-- The first value of a fresh factor element (seed, rank, targets, element; R370 does not state the order of the draws, log entry 49). -/
opaque freshFactor : Nat → Nat → Nat → Nat → F32
/-- The factor element that the objects of an adapter version hold (log entry 49). -/
opaque heldFactor : List Byte → Nat → F32
/-- Vocabulary, record count and first record's offset of a dataset header (R371 does not state their places; log entry 49). -/
opaque datasetHeader : List Byte → Nat × Nat × Nat
/-- The position that a draw of a shuffle picks among so many (R372; log entry 22). -/
opaque shufflePick : Nat → Nat → Nat
/-- A proposal of the draft span for a request with these tokens (R277; log entry 21): used where the boundary brings none. -/
opaque draftToken : List Nat → Nat → Nat
/-- The bytes of a checkpoint (R374; log entry 49). -/
opaque ckptEncode : Checkpoint → List Byte
/-- The checkpoint that bytes spell (log entry 49). -/
opaque ckptDecode : List Byte → Checkpoint
/-- The square root of the gradients' sum of squares (R373; log entry 16). -/
opaque normAssist : F32 → F32
/-- The 8-byte code of a parameter unit with the given data bytes (R190; log entry 42). -/
opaque unitCode : List Byte → List Byte
/-- Byte `i` of the copy with a generation of a die's table, which has no layout (R190, R192; log entry 42). -/
opaque tableByte : Nat → Nat → Nat → Byte
/-- Byte `i` of a directory copy of a generation that R230 does not lay down: its 64-byte header, and what its entries leave unlisted
(log entry 42). -/
opaque dirByte : Nat → Nat → Byte
/-- Whether the host of a port has enabled PTM, which it does through its configuration space (R293, R315; log entry 44). -/
opaque ptmEnabled : Nat → Bool
/-- The module serial number (R473 GET_INVENTORY). -/
opaque serialNumber : List Byte

/-- The variant of R1: false A64, true A32 (log entry 10). -/
def isA32 : Bool := false
/-- The fuse spare map (R30, R31): cells 48 to 55 (log entry 10). -/
def spareMap : Nat := 0xFF000000000000
/-- The fuse map of active cells: cells 0 to 47 (log entry 10). -/
def activeMap : Nat := 0x0000FFFFFFFFFFFF
/-- `KEY_DEBUG.fused_off` (log entry 10). -/
def debugFusedOff : Bool := false
/-- Version words of the six dies (R488): kind, revision 0, interface level 1 (log entry 13). -/
def dieVersion : Nat → Nat
  | 0 => 0x01000001
  | 1 => 0x02000001
  | 2 => 0x03000001
  | 3 => 0x03000001
  | 4 => 0x04000001
  | 5 => 0x04000001
  | _ => 0
/-- Column-slice bytes S of R155. -/
def sliceBytes : Nat := if isA32 then 4 * 2 ^ 30 else 8 * 2 ^ 30
/-- Spill area in each column slice, 24 MiB (R432). -/
def spillPerSlice : Nat := 24 * 2 ^ 20
/-- Usable DRAM of an undamaged module: eight slices less the spill area (R432, R407). -/
def dramUsable : Nat := 8 * (sliceBytes - spillPerSlice)
/-- Library units (R188). -/
def flashUnits : Nat := if isA32 then 224 else 448
/-- Physical blocks per plane (R186). -/
def physBlocks : Nat := if isA32 then 230 else 460
/-- Factory test blocks of a plane: only bank-0 planes have them (R186). -/
def testBlocks (plane : Nat) : Nat := if plane % 4 = 0 then (if isA32 then 1 else 2) else 0
/-- Reserve blocks of a plane before any replacement (R186). -/
def reservePerPlane (plane : Nat) : Nat := physBlocks - testBlocks plane - flashUnits

end Config
end Sys2Proof
end

