-- ==== Sys2Proof/Machine/RegMap.lean ====
section
/-!
DEFINITION. The register map: every register of 18_register_map with its place (R523, R524), its fields, their access codes (R6)
and their reset values, from the field tables of the chapters. A field reserved in its table has no entry: it reads as zero and
writes to it are ignored (R4).
-/
namespace Sys2Proof.Machine

/-- Access codes of R6. -/
inductive Access where
  | ro | rw | w1c | w1s | wo | rwl | wo1 | rc
  deriving DecidableEq, Repr

/-- The registers of 18_register_map. -/
inductive Reg where
  | celId -- CEL_ID
  | celCtrl -- CEL_CTRL
  | celStart -- CEL_START
  | celStatus -- CEL_STATUS
  | celPc -- CEL_PC
  | celFlags -- CEL_FLAGS
  | celFaultPc -- CEL_FAULT_PC
  | celFaultCause -- CEL_FAULT_CAUSE
  | celRngSeed -- CEL_RNG_SEED
  | arrBusy -- ARR_BUSY
  | arrWait -- ARR_WAIT
  | arrPrep -- ARR_PREP
  | arrInstr -- ARR_INSTR
  | poolCfg -- POOL_CFG
  | poolStatus -- POOL_STATUS
  | poolEccCe -- POOL_ECC_CE
  | poolEccUe -- POOL_ECC_UE
  | poolEccAddr -- POOL_ECC_ADDR
  | poolConflict -- POOL_CONFLICT
  | poolScrubPos -- POOL_SCRUB_POS
  | hndLo -- HND_LO[h]
  | hndHi -- HND_HI[h]
  | mshStatus -- MSH_STATUS
  | mshLinkRetry -- MSH_LINK_RETRY
  | mshDescErr -- MSH_DESC_ERR
  | mshDescErrCnt -- MSH_DESC_ERR_CNT
  | mshInflight -- MSH_INFLIGHT[n]
  | mshInflightTie -- MSH_INFLIGHT_TIE
  | latErrLog -- LAT_ERR_LOG
  | latErrCnt -- LAT_ERR_CNT
  | tieStatus -- TIE_STATUS
  | tieDirFree -- TIE_DIR_FREE
  | tieT2Wclat -- TIE_T2_WCLAT
  | tieT3Wclat -- TIE_T3_WCLAT
  | tieLateCnt -- TIE_LATE_CNT
  | tieDeferCnt -- TIE_DEFER_CNT
  | tieLateLog -- TIE_LATE_LOG
  | tieFetchT2 -- TIE_FETCH_T2
  | tieFetchT3 -- TIE_FETCH_T3
  | tieSlotMap -- TIE_SLOT_MAP
  | tieCeThresh -- TIE_CE_THRESH
  | tieScrub -- TIE_SCRUB
  | tieDramCe -- TIE_DRAM_CE[ch]
  | tieDramUe -- TIE_DRAM_UE[ch]
  | tieDramAddr -- TIE_DRAM_ADDR
  | flcStatus -- FLC_STATUS
  | flcClk -- FLC_CLK
  | flcWait -- FLC_WAIT
  | flcLimits -- FLC_LIMITS
  | flcWclat -- FLC_WCLAT
  | flcOp -- FLC_OP[i]
  | flcOpGo -- FLC_OP_GO
  | flcDone -- FLC_DONE
  | flcQueue -- FLC_QUEUE
  | flcEccCe -- FLC_ECC_CE[d]
  | flcEccUe -- FLC_ECC_UE[d]
  | flcErrLog -- FLC_ERR_LOG
  | flcReserve -- FLC_RESERVE[d]
  | flcRdLimit -- FLC_RD_LIMIT
  | flcSuspCnt -- FLC_SUSP_CNT
  | flcJournal -- FLC_JOURNAL[d]
  | imgStatus -- IMG_STATUS
  | imgLibFree -- IMG_LIB_FREE
  | imgRelayStall -- IMG_RELAY_STALL
  | imgSpan -- IMG_SPAN[s]
  | imgProg -- IMG_PROG[s]
  | imgLib -- IMG_LIB[i]
  | srvStatus -- SRV_STATUS
  | srvSlotsFree -- SRV_SLOTS_FREE
  | srvCfgEpoch -- SRV_CFG_EPOCH
  | srvDropCnt -- SRV_DROP_CNT
  | srvRefuseCnt -- SRV_REFUSE_CNT
  | srvNanCnt -- SRV_NAN_CNT
  | srvPortReq -- SRV_PORT_REQ[p]
  | srvSpanStep -- SRV_SPAN_STEP[s]
  | srvSpanBatch -- SRV_SPAN_BATCH[s]
  | srvSpanCfg -- SRV_SPAN_CFG[s]
  | srvSpanQueue -- SRV_SPAN_QUEUE[s]
  | cadStatus -- CAD_STATUS
  | cadCtrl -- CAD_CTRL
  | cadPeriod -- CAD_PERIOD
  | cadNow -- CAD_NOW
  | cadPtm -- CAD_PTM
  | cadPtmEpoch -- CAD_PTM_EPOCH
  | cadGlitchCnt -- CAD_GLITCH_CNT
  | cadMissCnt -- CAD_MISS_CNT
  | cadShedCnt -- CAD_SHED_CNT
  | cadDrift -- CAD_DRIFT
  | cadSpanWc -- CAD_SPAN_WC[s]
  | cadSpanUse -- CAD_SPAN_USE[s]
  | kvwStatus -- KVW_STATUS
  | kvwErrLog -- KVW_ERR_LOG
  | kvwErrCnt -- KVW_ERR_CNT
  | kvwCfg -- KVW_CFG[s]
  | kvwPool -- KVW_POOL[s]
  | kvwFrame -- KVW_FRAME[s]
  | kvwRope -- KVW_ROPE[s]
  | kvwLabHit -- KVW_LAB_HIT[s]
  | kvwLabMiss -- KVW_LAB_MISS[s]
  | kvwEvictCnt -- KVW_EVICT_CNT[s]
  | kvwAppend -- KVW_APPEND[n]
  | hptId -- HPT_ID
  | hptCtrl -- HPT_CTRL
  | hptStatus -- HPT_STATUS
  | hptPerm -- HPT_PERM
  | hptCmdPost -- HPT_CMD_POST
  | hptCmdHead -- HPT_CMD_HEAD
  | hptCmdOut -- HPT_CMD_OUT
  | hptCmdDrop -- HPT_CMD_DROP
  | hptDenyCnt -- HPT_DENY_CNT
  | hptRcptMax -- HPT_RCPT_MAX
  | mbxDb -- MBX_DB
  | mbxTaken -- MBX_TAKEN
  | mbxDbMask -- MBX_DB_MASK
  | mbxPerr -- MBX_PERR
  | mbxLock -- MBX_LOCK[m]
  | mbxSend -- MBX_SEND[m]
  | mbxTake -- MBX_TAKE[m]
  | mbxState -- MBX_STATE[m]
  | mbxCfg -- MBX_CFG[m]
  | mbxLockBreak -- MBX_LOCK_BREAK
  | mbxBreakLog -- MBX_BREAK_LOG
  | mbxBreakCnt -- MBX_BREAK_CNT
  | queCfg -- QUE_CFG[k]
  | queLevel -- QUE_LEVEL[k]
  | queNext -- QUE_NEXT[k]
  | queConsume -- QUE_CONSUME[k]
  | queWm -- QUE_WM[k]
  | queStatus -- QUE_STATUS[k]
  | queXcnt -- QUE_XCNT[k]
  | queEcc -- QUE_ECC[k]
  | queFlush -- QUE_FLUSH
  | queRoute -- QUE_ROUTE[i]
  | queNoticeDrop -- QUE_NOTICE_DROP
  | keyStatus -- KEY_STATUS
  | keyLock -- KEY_LOCK
  | keyViolLog -- KEY_VIOL_LOG
  | keyViolLast -- KEY_VIOL_LAST
  | keyViolCnt -- KEY_VIOL_CNT
  | keyPerm -- KEY_PERM[p]
  | keyPwrLim -- KEY_PWR_LIM
  | keyTherm -- KEY_THERM
  | keySag -- KEY_SAG
  | keyWdog -- KEY_WDOG
  | keyFlashLim -- KEY_FLASH_LIM
  | keyDebug -- KEY_DEBUG
  | keySpare -- KEY_SPARE
  | keySpareFree -- KEY_SPARE_FREE
  | keyFenced -- KEY_FENCED
  | keySlot -- KEY_SLOT[i][w]
  | keySlotRev -- KEY_SLOT_REV[i]
  | pwrStatus -- PWR_STATUS
  | pwrProfile -- PWR_PROFILE
  | pwrInput -- PWR_INPUT
  | pwrEnergy -- PWR_ENERGY
  | pwrGust -- PWR_GUST
  | pwrTherm -- PWR_THERM
  | pwrThermBad -- PWR_THERM_BAD
  | pwrTemp -- PWR_TEMP[i]
  | pwrDom -- PWR_DOM[j]
  | pwrLullDelay -- PWR_LULL_DELAY
  | pwrWdogFeed -- PWR_WDOG_FEED
  | pwrThrottleCnt -- PWR_THROTTLE_CNT
  | pwrOverCnt -- PWR_OVER_CNT
  | pwrSagCnt -- PWR_SAG_CNT
  | keyBoot -- KEY_BOOT
  | keyFw -- KEY_FW
  | keyDie -- KEY_DIE[i]
  | keyDieHeld -- KEY_DIE_HELD
  | keyFaultLog -- KEY_FAULT_LOG
  | keyFaultCnt -- KEY_FAULT_CNT
  | keyForceCnt -- KEY_FORCE_CNT
  | keyForceLog -- KEY_FORCE_LOG
  | keyPause -- KEY_PAUSE
  | latState -- LAT_STATE (cells)
  | latStateAbut -- LAT_STATE (Abutment)
  deriving DecidableEq, Repr

/-- Where a block lies: once for all ports, once per port, or once per cell. -/
inductive Scope where
  | shared | port | cell
  deriving DecidableEq, Repr

/-- One field of a register. -/
structure Field where
  hi    : Nat
  lo    : Nat
  acc   : Access
  reset : Nat
  deriving DecidableEq, Repr

/-- A named field: a register and its bits. -/
structure FieldRef where
  reg : Reg
  hi  : Nat
  lo  : Nat
  deriving DecidableEq, Repr

/-- Place of a register: scope, base offset, stride and count (R523). -/
structure Place where
  scope  : Scope
  base   : Nat
  stride : Nat
  count  : Nat
  deriving DecidableEq, Repr

/-- Where each register lies in BAR0 (cell registers: within the cell block). -/
def Reg.place : Reg → Place
  | .celId => ⟨.cell, 0x0, 0x8, 1⟩
  | .celCtrl => ⟨.cell, 0x8, 0x8, 1⟩
  | .celStart => ⟨.cell, 0x10, 0x8, 1⟩
  | .celStatus => ⟨.cell, 0x18, 0x8, 1⟩
  | .celPc => ⟨.cell, 0x20, 0x8, 1⟩
  | .celFlags => ⟨.cell, 0x28, 0x8, 1⟩
  | .celFaultPc => ⟨.cell, 0x30, 0x8, 1⟩
  | .celFaultCause => ⟨.cell, 0x38, 0x8, 1⟩
  | .celRngSeed => ⟨.cell, 0x40, 0x8, 1⟩
  | .arrBusy => ⟨.cell, 0x100, 0x8, 1⟩
  | .arrWait => ⟨.cell, 0x108, 0x8, 1⟩
  | .arrPrep => ⟨.cell, 0x110, 0x8, 1⟩
  | .arrInstr => ⟨.cell, 0x118, 0x8, 1⟩
  | .poolCfg => ⟨.cell, 0x200, 0x8, 1⟩
  | .poolStatus => ⟨.cell, 0x208, 0x8, 1⟩
  | .poolEccCe => ⟨.cell, 0x210, 0x8, 1⟩
  | .poolEccUe => ⟨.cell, 0x218, 0x8, 1⟩
  | .poolEccAddr => ⟨.cell, 0x220, 0x8, 1⟩
  | .poolConflict => ⟨.cell, 0x228, 0x8, 1⟩
  | .poolScrubPos => ⟨.cell, 0x230, 0x8, 1⟩
  | .hndLo => ⟨.cell, 0x400, 0x10, 64⟩
  | .hndHi => ⟨.cell, 0x408, 0x10, 64⟩
  | .mshStatus => ⟨.shared, 0xB0000, 0x8, 1⟩
  | .mshLinkRetry => ⟨.shared, 0xB0008, 0x8, 1⟩
  | .mshDescErr => ⟨.shared, 0xB0010, 0x8, 1⟩
  | .mshDescErrCnt => ⟨.shared, 0xB0018, 0x8, 1⟩
  | .mshInflight => ⟨.shared, 0xB0100, 0x8, 56⟩
  | .mshInflightTie => ⟨.shared, 0xB0300, 0x8, 1⟩
  | .latErrLog => ⟨.shared, 0xB1000, 0x8, 1⟩
  | .latErrCnt => ⟨.shared, 0xB1008, 0x8, 1⟩
  | .tieStatus => ⟨.shared, 0x70000, 0x8, 1⟩
  | .tieDirFree => ⟨.shared, 0x70008, 0x8, 1⟩
  | .tieT2Wclat => ⟨.shared, 0x70010, 0x8, 1⟩
  | .tieT3Wclat => ⟨.shared, 0x70018, 0x8, 1⟩
  | .tieLateCnt => ⟨.shared, 0x70020, 0x8, 1⟩
  | .tieDeferCnt => ⟨.shared, 0x70030, 0x8, 1⟩
  | .tieLateLog => ⟨.shared, 0x70028, 0x8, 1⟩
  | .tieFetchT2 => ⟨.shared, 0x70038, 0x8, 1⟩
  | .tieFetchT3 => ⟨.shared, 0x70040, 0x8, 1⟩
  | .tieSlotMap => ⟨.shared, 0x70048, 0x8, 1⟩
  | .tieCeThresh => ⟨.shared, 0x70058, 0x8, 1⟩
  | .tieScrub => ⟨.shared, 0x70060, 0x8, 1⟩
  | .tieDramCe => ⟨.shared, 0x70100, 0x8, 34⟩
  | .tieDramUe => ⟨.shared, 0x70300, 0x8, 34⟩
  | .tieDramAddr => ⟨.shared, 0x70400, 0x8, 1⟩
  | .flcStatus => ⟨.shared, 0x80000, 0x8, 1⟩
  | .flcClk => ⟨.shared, 0x80008, 0x8, 1⟩
  | .flcWait => ⟨.shared, 0x80010, 0x8, 1⟩
  | .flcLimits => ⟨.shared, 0x80018, 0x8, 1⟩
  | .flcWclat => ⟨.shared, 0x80020, 0x8, 1⟩
  | .flcOp => ⟨.shared, 0x80040, 0x8, 4⟩
  | .flcOpGo => ⟨.shared, 0x80060, 0x8, 1⟩
  | .flcDone => ⟨.shared, 0x80068, 0x8, 1⟩
  | .flcQueue => ⟨.shared, 0x80070, 0x8, 1⟩
  | .flcEccCe => ⟨.shared, 0x80080, 0x8, 2⟩
  | .flcEccUe => ⟨.shared, 0x80090, 0x8, 2⟩
  | .flcErrLog => ⟨.shared, 0x800A0, 0x8, 1⟩
  | .flcReserve => ⟨.shared, 0x800B0, 0x8, 2⟩
  | .flcRdLimit => ⟨.shared, 0x800C0, 0x8, 1⟩
  | .flcSuspCnt => ⟨.shared, 0x800C8, 0x8, 1⟩
  | .flcJournal => ⟨.shared, 0x800D0, 0x8, 2⟩
  | .imgStatus => ⟨.shared, 0x90000, 0x8, 1⟩
  | .imgLibFree => ⟨.shared, 0x90008, 0x8, 1⟩
  | .imgRelayStall => ⟨.shared, 0x90010, 0x8, 1⟩
  | .imgSpan => ⟨.shared, 0x90100, 0x10, 8⟩
  | .imgProg => ⟨.shared, 0x90108, 0x10, 8⟩
  | .imgLib => ⟨.shared, 0x90200, 0x8, 64⟩
  | .srvStatus => ⟨.shared, 0x50000, 0x8, 1⟩
  | .srvSlotsFree => ⟨.shared, 0x50008, 0x8, 1⟩
  | .srvCfgEpoch => ⟨.shared, 0x50010, 0x8, 1⟩
  | .srvDropCnt => ⟨.shared, 0x50018, 0x8, 1⟩
  | .srvRefuseCnt => ⟨.shared, 0x50020, 0x8, 1⟩
  | .srvNanCnt => ⟨.shared, 0x50028, 0x8, 1⟩
  | .srvPortReq => ⟨.shared, 0x50040, 0x8, 4⟩
  | .srvSpanStep => ⟨.shared, 0x50100, 0x20, 8⟩
  | .srvSpanBatch => ⟨.shared, 0x50108, 0x20, 8⟩
  | .srvSpanCfg => ⟨.shared, 0x50110, 0x20, 8⟩
  | .srvSpanQueue => ⟨.shared, 0x50118, 0x20, 8⟩
  | .cadStatus => ⟨.shared, 0x60000, 0x8, 1⟩
  | .cadCtrl => ⟨.shared, 0x60008, 0x8, 1⟩
  | .cadPeriod => ⟨.shared, 0x60010, 0x8, 1⟩
  | .cadNow => ⟨.shared, 0x60018, 0x8, 1⟩
  | .cadPtm => ⟨.shared, 0x60020, 0x8, 1⟩
  | .cadPtmEpoch => ⟨.shared, 0x60028, 0x8, 1⟩
  | .cadGlitchCnt => ⟨.shared, 0x60030, 0x8, 1⟩
  | .cadMissCnt => ⟨.shared, 0x60038, 0x8, 1⟩
  | .cadShedCnt => ⟨.shared, 0x60040, 0x8, 1⟩
  | .cadDrift => ⟨.shared, 0x60048, 0x8, 1⟩
  | .cadSpanWc => ⟨.shared, 0x60100, 0x10, 8⟩
  | .cadSpanUse => ⟨.shared, 0x60108, 0x10, 8⟩
  | .kvwStatus => ⟨.shared, 0xA0000, 0x8, 1⟩
  | .kvwErrLog => ⟨.shared, 0xA0010, 0x8, 1⟩
  | .kvwErrCnt => ⟨.shared, 0xA0018, 0x8, 1⟩
  | .kvwCfg => ⟨.shared, 0xA0100, 0x40, 8⟩
  | .kvwPool => ⟨.shared, 0xA0108, 0x40, 8⟩
  | .kvwFrame => ⟨.shared, 0xA0110, 0x40, 8⟩
  | .kvwRope => ⟨.shared, 0xA0118, 0x40, 8⟩
  | .kvwLabHit => ⟨.shared, 0xA0120, 0x40, 8⟩
  | .kvwLabMiss => ⟨.shared, 0xA0128, 0x40, 8⟩
  | .kvwEvictCnt => ⟨.shared, 0xA0130, 0x40, 8⟩
  | .kvwAppend => ⟨.shared, 0xA0400, 0x8, 56⟩
  | .hptId => ⟨.port, 0x20000, 0x8, 1⟩
  | .hptCtrl => ⟨.port, 0x20008, 0x8, 1⟩
  | .hptStatus => ⟨.port, 0x20010, 0x8, 1⟩
  | .hptPerm => ⟨.port, 0x20018, 0x8, 1⟩
  | .hptCmdPost => ⟨.port, 0x20020, 0x8, 1⟩
  | .hptCmdHead => ⟨.port, 0x20028, 0x8, 1⟩
  | .hptCmdOut => ⟨.port, 0x20030, 0x8, 1⟩
  | .hptCmdDrop => ⟨.port, 0x20038, 0x8, 1⟩
  | .hptDenyCnt => ⟨.port, 0x20040, 0x8, 1⟩
  | .hptRcptMax => ⟨.port, 0x20048, 0x8, 1⟩
  | .mbxDb => ⟨.port, 0x30000, 0x8, 1⟩
  | .mbxTaken => ⟨.port, 0x30008, 0x8, 1⟩
  | .mbxDbMask => ⟨.port, 0x30010, 0x8, 1⟩
  | .mbxPerr => ⟨.port, 0x30018, 0x8, 1⟩
  | .mbxLock => ⟨.shared, 0x30100, 0x8, 32⟩
  | .mbxSend => ⟨.shared, 0x30200, 0x8, 32⟩
  | .mbxTake => ⟨.shared, 0x30300, 0x8, 32⟩
  | .mbxState => ⟨.shared, 0x30400, 0x8, 32⟩
  | .mbxCfg => ⟨.shared, 0x30500, 0x8, 32⟩
  | .mbxLockBreak => ⟨.shared, 0x30600, 0x8, 1⟩
  | .mbxBreakLog => ⟨.shared, 0x30608, 0x8, 1⟩
  | .mbxBreakCnt => ⟨.shared, 0x30610, 0x8, 1⟩
  | .queCfg => ⟨.port, 0x40000, 0x40, 18⟩
  | .queLevel => ⟨.port, 0x40008, 0x40, 18⟩
  | .queNext => ⟨.port, 0x40010, 0x40, 18⟩
  | .queConsume => ⟨.port, 0x40018, 0x40, 18⟩
  | .queWm => ⟨.port, 0x40020, 0x40, 18⟩
  | .queStatus => ⟨.port, 0x40028, 0x40, 18⟩
  | .queXcnt => ⟨.port, 0x40030, 0x40, 18⟩
  | .queEcc => ⟨.port, 0x40038, 0x40, 18⟩
  | .queFlush => ⟨.port, 0x40800, 0x8, 1⟩
  | .queRoute => ⟨.port, 0x40810, 0x8, 2⟩
  | .queNoticeDrop => ⟨.port, 0x40820, 0x8, 1⟩
  | .keyStatus => ⟨.shared, 0x0, 0x8, 1⟩
  | .keyLock => ⟨.shared, 0x8, 0x8, 1⟩
  | .keyViolLog => ⟨.shared, 0x10, 0x8, 1⟩
  | .keyViolLast => ⟨.shared, 0x18, 0x8, 1⟩
  | .keyViolCnt => ⟨.shared, 0x20, 0x8, 1⟩
  | .keyPerm => ⟨.shared, 0x100, 0x8, 4⟩
  | .keyPwrLim => ⟨.shared, 0x200, 0x8, 1⟩
  | .keyTherm => ⟨.shared, 0x208, 0x8, 1⟩
  | .keySag => ⟨.shared, 0x210, 0x8, 1⟩
  | .keyWdog => ⟨.shared, 0x218, 0x8, 1⟩
  | .keyFlashLim => ⟨.shared, 0x220, 0x8, 1⟩
  | .keyDebug => ⟨.shared, 0x228, 0x8, 1⟩
  | .keySpare => ⟨.shared, 0x300, 0x8, 1⟩
  | .keySpareFree => ⟨.shared, 0x308, 0x8, 1⟩
  | .keyFenced => ⟨.shared, 0x310, 0x8, 1⟩
  | .keySlot => ⟨.shared, 0x1000, 0x8, 128⟩
  | .keySlotRev => ⟨.shared, 0x1030, 0x40, 16⟩
  | .pwrStatus => ⟨.shared, 0x10000, 0x8, 1⟩
  | .pwrProfile => ⟨.shared, 0x10008, 0x8, 1⟩
  | .pwrInput => ⟨.shared, 0x10010, 0x8, 1⟩
  | .pwrEnergy => ⟨.shared, 0x10018, 0x8, 1⟩
  | .pwrGust => ⟨.shared, 0x10020, 0x8, 1⟩
  | .pwrTherm => ⟨.shared, 0x10028, 0x8, 1⟩
  | .pwrThermBad => ⟨.shared, 0x10030, 0x8, 1⟩
  | .pwrTemp => ⟨.shared, 0x10100, 0x8, 64⟩
  | .pwrDom => ⟨.shared, 0x10300, 0x8, 3⟩
  | .pwrLullDelay => ⟨.shared, 0x10400, 0x8, 1⟩
  | .pwrWdogFeed => ⟨.shared, 0x10408, 0x8, 1⟩
  | .pwrThrottleCnt => ⟨.shared, 0x10410, 0x8, 1⟩
  | .pwrOverCnt => ⟨.shared, 0x10418, 0x8, 1⟩
  | .pwrSagCnt => ⟨.shared, 0x10420, 0x8, 1⟩
  | .keyBoot => ⟨.shared, 0x2000, 0x8, 1⟩
  | .keyFw => ⟨.shared, 0x2008, 0x8, 1⟩
  | .keyDie => ⟨.shared, 0x2100, 0x8, 6⟩
  | .keyDieHeld => ⟨.shared, 0x2140, 0x8, 1⟩
  | .keyFaultLog => ⟨.shared, 0x2200, 0x8, 1⟩
  | .keyFaultCnt => ⟨.shared, 0x2208, 0x8, 1⟩
  | .keyForceCnt => ⟨.shared, 0x2218, 0x8, 1⟩
  | .keyForceLog => ⟨.shared, 0x2210, 0x8, 1⟩
  | .keyPause => ⟨.shared, 0x2220, 0x8, 1⟩
  | .latState => ⟨.cell, 0x8000, 0x8, 1024⟩
  | .latStateAbut => ⟨.shared, 0xC0000, 0x8, 8192⟩

/-- The fields of each register, highest first, with access code and the reset value of the chapter's table. -/
def Reg.fields : Reg → List Field
  | .celId => [⟨21, 21, .ro, 0⟩, ⟨19, 16, .ro, 15⟩, ⟨15, 8, .ro, 0⟩, ⟨7, 0, .ro, 0⟩]
  | .celCtrl => [⟨7, 7, .wo, 0⟩, ⟨4, 4, .rw, 0⟩, ⟨3, 2, .rw, 1⟩, ⟨0, 0, .rw, 0⟩]
  | .celStart => [⟨31, 8, .wo, 0⟩, ⟨5, 0, .wo, 0⟩]
  | .celStatus => [⟨31, 16, .ro, 0⟩, ⟨5, 5, .ro, 0⟩, ⟨4, 4, .ro, 0⟩, ⟨3, 3, .ro, 0⟩, ⟨2, 2, .ro, 0⟩, ⟨1, 1, .ro, 0⟩, ⟨0, 0, .ro, 0⟩]
  | .celPc => [⟨31, 8, .ro, 0⟩, ⟨5, 0, .ro, 0⟩]
  | .celFlags => [⟨5, 5, .w1c, 0⟩, ⟨4, 4, .w1c, 0⟩, ⟨3, 3, .w1c, 0⟩, ⟨2, 2, .w1c, 0⟩, ⟨1, 1, .w1c, 0⟩, ⟨0, 0, .w1c, 0⟩]
  | .celFaultPc => [⟨31, 8, .ro, 0⟩, ⟨5, 0, .ro, 0⟩]
  | .celFaultCause => [⟨7, 0, .ro, 0⟩]
  | .celRngSeed => [⟨31, 0, .wo, 0⟩]
  | .arrBusy => [⟨63, 0, .ro, 0⟩]
  | .arrWait => [⟨63, 0, .ro, 0⟩]
  | .arrPrep => [⟨63, 0, .ro, 0⟩]
  | .arrInstr => [⟨63, 0, .ro, 0⟩]
  | .poolCfg => [⟨12, 8, .rw, 16⟩, ⟨0, 0, .rw, 1⟩]
  | .poolStatus => [⟨29, 24, .ro, 0⟩, ⟨3, 3, .ro, 1⟩, ⟨2, 2, .w1c, 0⟩, ⟨1, 1, .w1c, 0⟩, ⟨0, 0, .w1c, 0⟩]
  | .poolEccCe => [⟨31, 0, .rc, 0⟩]
  | .poolEccUe => [⟨31, 0, .rc, 0⟩]
  | .poolEccAddr => [⟨34, 32, .ro, 0⟩, ⟨31, 24, .ro, 0⟩, ⟨18, 16, .ro, 0⟩, ⟨15, 0, .ro, 0⟩]
  | .poolConflict => [⟨63, 0, .ro, 0⟩]
  | .poolScrubPos => [⟨18, 16, .ro, 0⟩, ⟨15, 0, .ro, 0⟩]
  | .hndLo => [⟨47, 32, .rw, 0⟩, ⟨31, 16, .rw, 0⟩, ⟨15, 15, .rw, 0⟩, ⟨14, 12, .rw, 0⟩, ⟨11, 9, .rw, 0⟩, ⟨8, 8, .rw, 0⟩, ⟨7, 4, .rw, 0⟩, ⟨3, 1, .rw, 0⟩, ⟨0, 0, .rw, 0⟩]
  | .hndHi => [⟨47, 32, .rw, 0⟩, ⟨31, 16, .rw, 0⟩, ⟨15, 0, .rw, 0⟩]
  | .mshStatus => [⟨2, 2, .w1c, 0⟩, ⟨1, 1, .w1c, 0⟩, ⟨0, 0, .ro, 0⟩]
  | .mshLinkRetry => [⟨31, 0, .rc, 0⟩]
  | .mshDescErr => [⟨63, 48, .ro, 0⟩, ⟨47, 40, .ro, 0⟩, ⟨39, 32, .ro, 0⟩, ⟨31, 16, .ro, 0⟩, ⟨15, 0, .ro, 0⟩]
  | .mshDescErrCnt => [⟨31, 0, .rc, 0⟩]
  | .mshInflight => [⟨8, 0, .ro, 0⟩]
  | .mshInflightTie => [⟨25, 16, .ro, 0⟩, ⟨10, 0, .ro, 0⟩]
  | .latErrLog => [⟨63, 48, .ro, 0⟩, ⟨47, 40, .ro, 0⟩, ⟨39, 32, .ro, 0⟩, ⟨31, 16, .ro, 0⟩, ⟨15, 0, .ro, 0⟩]
  | .latErrCnt => [⟨31, 0, .rc, 0⟩]
  | .tieStatus => [⟨7, 7, .w1c, 0⟩, ⟨6, 6, .ro, 0⟩, ⟨5, 5, .ro, 0⟩, ⟨4, 4, .ro, 0⟩, ⟨3, 3, .w1c, 0⟩, ⟨2, 2, .ro, 0⟩, ⟨1, 1, .w1c, 0⟩, ⟨0, 0, .ro, 0⟩]
  | .tieDirFree => [⟨17, 0, .ro, 131072⟩]
  | .tieT2Wclat => [⟨31, 0, .rw, 0⟩]
  | .tieT3Wclat => [⟨31, 0, .rw, 0⟩]
  | .tieLateCnt => [⟨31, 0, .rc, 0⟩]
  | .tieDeferCnt => [⟨31, 0, .rc, 0⟩]
  | .tieLateLog => [⟨63, 47, .ro, 0⟩, ⟨46, 44, .ro, 0⟩, ⟨43, 32, .ro, 0⟩, ⟨31, 0, .ro, 0⟩]
  | .tieFetchT2 => [⟨63, 0, .ro, 0⟩]
  | .tieFetchT3 => [⟨63, 0, .ro, 0⟩]
  | .tieSlotMap => [⟨12, 12, .ro, 0⟩, ⟨11, 8, .ro, 0⟩, ⟨4, 4, .ro, 0⟩, ⟨3, 0, .ro, 0⟩]
  | .tieCeThresh => [⟨31, 16, .rw, 1000⟩, ⟨15, 0, .rw, 1024⟩]
  | .tieScrub => [⟨12, 8, .rw, 12⟩, ⟨0, 0, .rw, 1⟩]
  | .tieDramCe => [⟨31, 0, .rc, 0⟩]
  | .tieDramUe => [⟨31, 0, .rc, 0⟩]
  | .tieDramAddr => [⟨63, 58, .ro, 0⟩, ⟨51, 32, .ro, 0⟩, ⟨31, 0, .ro, 0⟩]
  | .flcStatus => [⟨16, 16, .w1c, 0⟩, ⟨15, 15, .w1c, 0⟩, ⟨14, 14, .w1c, 0⟩, ⟨13, 13, .w1c, 0⟩, ⟨12, 12, .w1c, 0⟩, ⟨11, 11, .w1c, 0⟩, ⟨10, 10, .w1c, 0⟩, ⟨9, 9, .w1c, 0⟩, ⟨8, 8, .ro, 1⟩, ⟨5, 4, .ro, 0⟩, ⟨3, 2, .ro, 0⟩, ⟨1, 1, .ro, 0⟩, ⟨0, 0, .ro, 0⟩]
  | .flcClk => [⟨8, 8, .ro, 0⟩, ⟨4, 4, .rw, 1⟩, ⟨2, 0, .rw, 0⟩]
  | .flcWait => [⟨5, 0, .rw, 12⟩]
  | .flcLimits => [⟨7, 4, .ro, 8⟩, ⟨3, 0, .ro, 12⟩]
  | .flcWclat => [⟨15, 0, .ro, 995⟩]
  | .flcOp => [⟨63, 0, .rw, 0⟩]
  | .flcOpGo => [⟨0, 0, .wo, 0⟩]
  | .flcDone => [⟨63, 63, .rc, 0⟩, ⟨55, 48, .rc, 0⟩, ⟨47, 42, .rc, 0⟩, ⟨41, 41, .rc, 0⟩, ⟨15, 0, .rc, 0⟩]
  | .flcQueue => [⟨22, 16, .ro, 0⟩, ⟨6, 0, .ro, 0⟩]
  | .flcEccCe => [⟨31, 0, .rc, 0⟩]
  | .flcEccUe => [⟨31, 0, .rc, 0⟩]
  | .flcErrLog => [⟨63, 60, .ro, 0⟩, ⟨59, 59, .ro, 0⟩, ⟨58, 53, .ro, 0⟩, ⟨52, 44, .ro, 0⟩, ⟨43, 35, .ro, 0⟩, ⟨31, 16, .ro, 0⟩, ⟨15, 0, .ro, 0⟩]
  | .flcReserve => [⟨31, 24, .ro, 0⟩, ⟨23, 12, .ro, 0⟩, ⟨11, 0, .ro, 0⟩]
  | .flcRdLimit => [⟨31, 0, .rw, 4096⟩]
  | .flcSuspCnt => [⟨31, 0, .rc, 0⟩]
  | .flcJournal => [⟨31, 16, .ro, 0⟩, ⟨13, 12, .ro, 0⟩, ⟨9, 0, .ro, 0⟩]
  | .imgStatus => [⟨15, 8, .ro, 0⟩, ⟨2, 2, .w1c, 0⟩, ⟨1, 1, .w1c, 0⟩, ⟨0, 0, .ro, 0⟩]
  | .imgLibFree => [⟨22, 16, .ro, 0⟩, ⟨8, 0, .ro, 0⟩]
  | .imgRelayStall => [⟨31, 0, .rc, 0⟩]
  | .imgSpan => [⟨63, 32, .ro, 0⟩, ⟨29, 24, .ro, 0⟩, ⟨19, 16, .ro, 0⟩, ⟨15, 0, .ro, 0⟩]
  | .imgProg => [⟨39, 0, .ro, 0⟩]
  | .imgLib => [⟨63, 61, .ro, 0⟩, ⟨55, 48, .ro, 0⟩, ⟨40, 32, .ro, 0⟩, ⟨24, 16, .ro, 0⟩, ⟨15, 0, .ro, 0⟩]
  | .srvStatus => [⟨23, 16, .ro, 0⟩, ⟨15, 8, .ro, 0⟩, ⟨0, 0, .ro, 0⟩]
  | .srvSlotsFree => [⟨12, 0, .ro, 4096⟩]
  | .srvCfgEpoch => [⟨31, 0, .ro, 0⟩]
  | .srvDropCnt => [⟨31, 0, .rc, 0⟩]
  | .srvRefuseCnt => [⟨31, 0, .rc, 0⟩]
  | .srvNanCnt => [⟨31, 0, .rc, 0⟩]
  | .srvPortReq => [⟨28, 16, .ro, 0⟩, ⟨12, 0, .ro, 0⟩]
  | .srvSpanStep => [⟨63, 0, .ro, 0⟩]
  | .srvSpanBatch => [⟨31, 31, .ro, 0⟩, ⟨30, 30, .ro, 0⟩, ⟨29, 20, .ro, 0⟩, ⟨19, 10, .ro, 0⟩, ⟨8, 0, .ro, 0⟩]
  | .srvSpanCfg => [⟨16, 16, .ro, 0⟩, ⟨15, 15, .ro, 0⟩, ⟨14, 12, .ro, 0⟩, ⟨9, 0, .ro, 256⟩]
  | .srvSpanQueue => [⟨60, 48, .ro, 0⟩, ⟨44, 32, .ro, 0⟩, ⟨28, 16, .ro, 0⟩, ⟨12, 0, .ro, 0⟩]
  | .cadStatus => [⟨7, 7, .w1c, 0⟩, ⟨6, 6, .w1c, 0⟩, ⟨5, 5, .ro, 0⟩, ⟨4, 3, .ro, 2⟩, ⟨2, 0, .ro, 0⟩]
  | .cadCtrl => [⟨25, 16, .rw, 64⟩, ⟨9, 8, .rw, 0⟩, ⟨7, 7, .rw, 0⟩, ⟨5, 0, .rw, 36⟩]
  | .cadPeriod => [⟨57, 32, .ro, 1000000⟩, ⟨25, 0, .ro, 1000000⟩]
  | .cadNow => [⟨63, 16, .ro, 0⟩, ⟨15, 0, .ro, 0⟩]
  | .cadPtm => [⟨25, 0, .rw, 0⟩]
  | .cadPtmEpoch => [⟨63, 0, .rw, 0⟩]
  | .cadGlitchCnt => [⟨31, 0, .rc, 0⟩]
  | .cadMissCnt => [⟨31, 0, .rc, 0⟩]
  | .cadShedCnt => [⟨31, 0, .rc, 0⟩]
  | .cadDrift => [⟨31, 16, .rc, 0⟩, ⟨15, 0, .ro, 0⟩]
  | .cadSpanWc => [⟨39, 32, .ro, 0⟩, ⟨31, 0, .ro, 0⟩]
  | .cadSpanUse => [⟨31, 24, .ro, 0⟩, ⟨23, 16, .ro, 0⟩, ⟨15, 8, .ro, 0⟩, ⟨7, 0, .ro, 0⟩]
  | .kvwStatus => [⟨15, 8, .ro, 0⟩, ⟨2, 2, .w1c, 0⟩, ⟨1, 1, .w1c, 0⟩, ⟨0, 0, .w1c, 0⟩]
  | .kvwErrLog => [⟨63, 60, .ro, 0⟩, ⟨59, 57, .ro, 0⟩, ⟨56, 45, .ro, 0⟩, ⟨44, 35, .ro, 0⟩, ⟨31, 16, .ro, 0⟩, ⟨15, 0, .ro, 0⟩]
  | .kvwErrCnt => [⟨31, 0, .rc, 0⟩]
  | .kvwCfg => [⟨21, 16, .rw, 63⟩, ⟨9, 9, .rw, 0⟩, ⟨8, 8, .rw, 1⟩, ⟨4, 4, .rw, 0⟩, ⟨1, 1, .rw, 0⟩, ⟨0, 0, .rw, 1⟩]
  | .kvwPool => [⟨63, 32, .ro, 0⟩, ⟨31, 0, .ro, 0⟩]
  | .kvwFrame => [⟨23, 16, .ro, 0⟩, ⟨15, 0, .ro, 0⟩]
  | .kvwRope => [⟨31, 31, .rw, 0⟩, ⟨16, 0, .rw, 0⟩]
  | .kvwLabHit => [⟨63, 0, .ro, 0⟩]
  | .kvwLabMiss => [⟨63, 0, .ro, 0⟩]
  | .kvwEvictCnt => [⟨31, 0, .rc, 0⟩]
  | .kvwAppend => [⟨31, 31, .rw, 0⟩, ⟨25, 16, .rw, 0⟩, ⟨9, 0, .rw, 0⟩]
  | .hptId => [⟨19, 16, .ro, 0⟩, ⟨15, 12, .ro, 0⟩, ⟨11, 10, .ro, 0⟩, ⟨9, 8, .ro, 0⟩, ⟨7, 0, .ro, 0⟩]
  | .hptCtrl => [⟨1, 1, .rw, 0⟩, ⟨0, 0, .rw, 0⟩]
  | .hptStatus => [⟨8, 8, .w1c, 0⟩, ⟨7, 7, .w1c, 0⟩, ⟨6, 6, .w1c, 0⟩, ⟨5, 5, .w1c, 0⟩, ⟨4, 4, .w1c, 0⟩, ⟨3, 3, .w1c, 0⟩, ⟨2, 2, .ro, 0⟩, ⟨1, 1, .ro, 0⟩, ⟨0, 0, .ro, 0⟩]
  | .hptPerm => [⟨3, 3, .ro, 0⟩, ⟨2, 2, .ro, 0⟩, ⟨1, 1, .ro, 0⟩, ⟨0, 0, .ro, 0⟩]
  | .hptCmdPost => [⟨20, 0, .wo, 0⟩]
  | .hptCmdHead => [⟨20, 0, .ro, 0⟩]
  | .hptCmdOut => [⟨10, 0, .ro, 0⟩]
  | .hptCmdDrop => [⟨31, 0, .rc, 0⟩]
  | .hptDenyCnt => [⟨31, 0, .rc, 0⟩]
  | .hptRcptMax => [⟨31, 0, .rc, 0⟩]
  | .mbxDb => [⟨31, 0, .w1c, 0⟩]
  | .mbxTaken => [⟨31, 0, .w1c, 0⟩]
  | .mbxDbMask => [⟨31, 0, .rw, 0⟩]
  | .mbxPerr => [⟨4, 4, .w1c, 0⟩, ⟨3, 3, .w1c, 0⟩, ⟨2, 2, .w1c, 0⟩, ⟨1, 1, .w1c, 0⟩, ⟨0, 0, .w1c, 0⟩]
  | .mbxLock => [⟨7, 0, .rw, 0⟩]
  | .mbxSend => [⟨0, 0, .wo, 0⟩]
  | .mbxTake => [⟨0, 0, .wo, 0⟩]
  | .mbxState => [⟨31, 31, .ro, 0⟩, ⟨30, 29, .ro, 0⟩, ⟨23, 16, .ro, 0⟩, ⟨15, 8, .ro, 0⟩, ⟨7, 0, .ro, 0⟩]
  | .mbxCfg => [⟨23, 16, .rw, 0⟩, ⟨11, 8, .rw, 0⟩, ⟨7, 0, .rw, 0⟩]
  | .mbxLockBreak => [⟨4, 0, .wo, 0⟩]
  | .mbxBreakLog => [⟨52, 48, .ro, 0⟩, ⟨47, 40, .ro, 0⟩, ⟨39, 32, .ro, 0⟩, ⟨31, 16, .ro, 0⟩, ⟨15, 0, .ro, 0⟩]
  | .mbxBreakCnt => [⟨31, 0, .rc, 0⟩]
  | .queCfg => [⟨25, 16, .rw, 20⟩, ⟨8, 8, .rw, 0⟩, ⟨1, 0, .rw, 1⟩]
  | .queLevel => [⟨55, 32, .ro, 0⟩, ⟨19, 0, .ro, 0⟩]
  | .queNext => [⟨63, 63, .ro, 0⟩, ⟨62, 60, .ro, 0⟩, ⟨35, 32, .ro, 0⟩, ⟨31, 0, .ro, 0⟩]
  | .queConsume => [⟨31, 0, .wo, 0⟩]
  | .queWm => [⟨31, 16, .rw, 0⟩, ⟨15, 0, .rw, 65535⟩]
  | .queStatus => [⟨5, 5, .w1c, 0⟩, ⟨4, 4, .w1c, 0⟩, ⟨3, 3, .w1c, 0⟩, ⟨2, 2, .ro, 0⟩, ⟨1, 1, .w1c, 0⟩, ⟨0, 0, .w1c, 0⟩]
  | .queXcnt => [⟨31, 16, .rc, 0⟩, ⟨15, 0, .rc, 0⟩]
  | .queEcc => [⟨63, 32, .rc, 0⟩, ⟨31, 0, .rc, 0⟩]
  | .queFlush => [⟨4, 0, .wo, 0⟩]
  | .queRoute => [⟨63, 0, .rw, 0⟩]
  | .queNoticeDrop => [⟨31, 0, .rc, 0⟩]
  | .keyStatus => [⟨6, 6, .ro, 0⟩, ⟨5, 5, .ro, 0⟩, ⟨4, 4, .ro, 0⟩, ⟨3, 3, .ro, 0⟩, ⟨2, 2, .ro, 0⟩, ⟨1, 1, .ro, 0⟩]
  | .keyLock => [⟨0, 0, .w1s, 0⟩]
  | .keyViolLog => [⟨63, 40, .ro, 0⟩, ⟨39, 32, .ro, 0⟩, ⟨31, 16, .ro, 0⟩, ⟨15, 0, .ro, 0⟩]
  | .keyViolLast => [⟨63, 40, .ro, 0⟩, ⟨39, 32, .ro, 0⟩, ⟨31, 16, .ro, 0⟩, ⟨15, 0, .ro, 0⟩]
  | .keyViolCnt => [⟨31, 0, .rc, 0⟩]
  | .keyPerm => [⟨3, 3, .rwl, 1⟩, ⟨2, 2, .rwl, 0⟩, ⟨1, 1, .rwl, 0⟩, ⟨0, 0, .rwl, 1⟩]
  | .keyPwrLim => [⟨35, 32, .rwl, 10⟩, ⟨24, 24, .rwl, 1⟩, ⟨23, 16, .rwl, 45⟩, ⟨15, 8, .rwl, 75⟩, ⟨7, 0, .rwl, 25⟩]
  | .keyTherm => [⟨31, 16, .rwl, 105⟩, ⟨15, 0, .rwl, 95⟩]
  | .keySag => [⟨31, 16, .rwl, 86⟩, ⟨15, 0, .rwl, 102⟩]
  | .keyWdog => [⟨31, 16, .rwl, 1000⟩, ⟨15, 0, .ro, 1000⟩]
  | .keyFlashLim => [⟨7, 4, .rwl, 8⟩, ⟨3, 0, .rwl, 12⟩]
  | .keyDebug => [⟨1, 1, .ro, 0⟩, ⟨0, 0, .rwl, 0⟩]
  | .keySpare => [⟨55, 0, .rw, 0⟩]
  | .keySpareFree => [⟨55, 0, .rw, 0⟩]
  | .keyFenced => [⟨55, 0, .rw, 0⟩]
  | .keySlot => [⟨63, 0, .wo1, 0⟩]
  | .keySlotRev => [⟨0, 0, .wo1, 0⟩]
  | .pwrStatus => [⟨7, 7, .w1c, 0⟩, ⟨6, 6, .ro, 0⟩, ⟨5, 5, .ro, 0⟩, ⟨4, 4, .ro, 0⟩, ⟨2, 0, .ro, 0⟩]
  | .pwrProfile => [⟨31, 24, .ro, 40⟩, ⟨23, 16, .ro, 72⟩, ⟨8, 8, .ro, 0⟩, ⟨7, 0, .ro, 45⟩]
  | .pwrInput => [⟨63, 48, .ro, 0⟩, ⟨47, 32, .ro, 0⟩, ⟨31, 16, .ro, 0⟩, ⟨15, 0, .ro, 0⟩]
  | .pwrEnergy => [⟨63, 0, .ro, 0⟩]
  | .pwrGust => [⟨31, 16, .ro, 0⟩, ⟨15, 0, .ro, 10000⟩]
  | .pwrTherm => [⟨31, 24, .ro, 0⟩, ⟨15, 0, .ro, 0⟩]
  | .pwrThermBad => [⟨63, 0, .ro, 0⟩]
  | .pwrTemp => [⟨15, 0, .ro, 0⟩]
  | .pwrDom => [⟨63, 0, .ro, 0⟩]
  | .pwrLullDelay => [⟨15, 0, .rw, 100⟩]
  | .pwrWdogFeed => [⟨31, 0, .wo, 0⟩]
  | .pwrThrottleCnt => [⟨31, 0, .rc, 0⟩]
  | .pwrOverCnt => [⟨31, 0, .rc, 0⟩]
  | .pwrSagCnt => [⟨31, 0, .rc, 0⟩]
  | .keyBoot => [⟨63, 48, .ro, 0⟩, ⟨47, 40, .ro, 0⟩, ⟨39, 32, .ro, 0⟩, ⟨30, 24, .ro, 0⟩, ⟨15, 15, .ro, 0⟩, ⟨14, 14, .ro, 0⟩, ⟨13, 12, .ro, 0⟩, ⟨3, 0, .ro, 0⟩]
  | .keyFw => [⟨63, 48, .ro, 0⟩, ⟨47, 32, .ro, 0⟩, ⟨31, 16, .ro, 0⟩, ⟨9, 8, .ro, 0⟩, ⟨0, 0, .ro, 0⟩]
  | .keyDie => [⟨63, 32, .ro, 0⟩, ⟨31, 0, .ro, 0⟩]
  | .keyDieHeld => [⟨5, 0, .ro, 0⟩]
  | .keyFaultLog => [⟨63, 56, .ro, 0⟩, ⟨55, 48, .ro, 0⟩, ⟨47, 32, .ro, 0⟩, ⟨31, 16, .ro, 0⟩, ⟨15, 0, .ro, 0⟩]
  | .keyFaultCnt => [⟨31, 0, .rc, 0⟩]
  | .keyForceCnt => [⟨31, 0, .rc, 0⟩]
  | .keyForceLog => [⟨63, 56, .ro, 0⟩, ⟨55, 48, .ro, 0⟩, ⟨47, 32, .ro, 0⟩, ⟨31, 16, .ro, 0⟩, ⟨15, 0, .ro, 0⟩]
  | .keyPause => [⟨63, 32, .ro, 0⟩, ⟨31, 0, .rc, 0⟩]
  | .latState => [⟨63, 32, .ro, 0⟩, ⟨31, 0, .ro, 0⟩]
  | .latStateAbut => [⟨63, 32, .ro, 0⟩, ⟨31, 0, .ro, 0⟩]

/-- All registers, in the order of `Reg`. -/
def Reg.all : List Reg :=
  List.flatten [
    [.celId, .celCtrl, .celStart, .celStatus, .celPc, .celFlags, .celFaultPc, .celFaultCause, .celRngSeed, .arrBusy, .arrWait, .arrPrep],
    [.arrInstr, .poolCfg, .poolStatus, .poolEccCe, .poolEccUe, .poolEccAddr, .poolConflict, .poolScrubPos, .hndLo, .hndHi, .mshStatus, .mshLinkRetry],
    [.mshDescErr, .mshDescErrCnt, .mshInflight, .mshInflightTie, .latErrLog, .latErrCnt, .tieStatus, .tieDirFree, .tieT2Wclat, .tieT3Wclat, .tieLateCnt, .tieDeferCnt],
    [.tieLateLog, .tieFetchT2, .tieFetchT3, .tieSlotMap, .tieCeThresh, .tieScrub, .tieDramCe, .tieDramUe, .tieDramAddr, .flcStatus, .flcClk, .flcWait],
    [.flcLimits, .flcWclat, .flcOp, .flcOpGo, .flcDone, .flcQueue, .flcEccCe, .flcEccUe, .flcErrLog, .flcReserve, .flcRdLimit, .flcSuspCnt],
    [.flcJournal, .imgStatus, .imgLibFree, .imgRelayStall, .imgSpan, .imgProg, .imgLib, .srvStatus, .srvSlotsFree, .srvCfgEpoch, .srvDropCnt, .srvRefuseCnt],
    [.srvNanCnt, .srvPortReq, .srvSpanStep, .srvSpanBatch, .srvSpanCfg, .srvSpanQueue, .cadStatus, .cadCtrl, .cadPeriod, .cadNow, .cadPtm, .cadPtmEpoch],
    [.cadGlitchCnt, .cadMissCnt, .cadShedCnt, .cadDrift, .cadSpanWc, .cadSpanUse, .kvwStatus, .kvwErrLog, .kvwErrCnt, .kvwCfg, .kvwPool, .kvwFrame],
    [.kvwRope, .kvwLabHit, .kvwLabMiss, .kvwEvictCnt, .kvwAppend, .hptId, .hptCtrl, .hptStatus, .hptPerm, .hptCmdPost, .hptCmdHead, .hptCmdOut],
    [.hptCmdDrop, .hptDenyCnt, .hptRcptMax, .mbxDb, .mbxTaken, .mbxDbMask, .mbxPerr, .mbxLock, .mbxSend, .mbxTake, .mbxState, .mbxCfg],
    [.mbxLockBreak, .mbxBreakLog, .mbxBreakCnt, .queCfg, .queLevel, .queNext, .queConsume, .queWm, .queStatus, .queXcnt, .queEcc, .queFlush],
    [.queRoute, .queNoticeDrop, .keyStatus, .keyLock, .keyViolLog, .keyViolLast, .keyViolCnt, .keyPerm, .keyPwrLim, .keyTherm, .keySag, .keyWdog],
    [.keyFlashLim, .keyDebug, .keySpare, .keySpareFree, .keyFenced, .keySlot, .keySlotRev, .pwrStatus, .pwrProfile, .pwrInput, .pwrEnergy, .pwrGust],
    [.pwrTherm, .pwrThermBad, .pwrTemp, .pwrDom, .pwrLullDelay, .pwrWdogFeed, .pwrThrottleCnt, .pwrOverCnt, .pwrSagCnt, .keyBoot, .keyFw, .keyDie],
    [.keyDieHeld, .keyFaultLog, .keyFaultCnt, .keyForceCnt, .keyForceLog, .keyPause, .latState, .latStateAbut]]

/-- The word in which every field of a list holds its reset value. -/
def resetOf : List Field → Nat
  | [] => 0
  | f :: r => f.reset * 2 ^ f.lo + resetOf r

/-- Which fields of a register accept writes: those of the list with one of the given codes, as a mask. -/
def fieldMask (l : List Field) (sel : Access → Bool) : Nat :=
  l.foldl (fun a f => if sel f.acc then a + (2 ^ (f.hi + 1 - f.lo) - 1) * 2 ^ f.lo else a) 0

/-- Bits that a register's field map covers; every other bit is reserved and reads zero (R4). -/
def Reg.mask (r : Reg) : Nat := fieldMask r.fields fun _ => true

/-- Whether the field map of a register ends at bit 31 (R524). -/
def Reg.narrow (r : Reg) : Bool := r.mask < 2 ^ 32

/-- `MBX_CFG[m]` at reset, by the table of R423: hold limit, senders allowed (bit 0 ports, 1 steward cores, 2 keystone, 3 cells)
and receiver. -/
def mbxCfgReset (m : Nat) : Nat :=
  if m < 4 then 16 * 2 ^ 16 + 0b0111 * 2 ^ 8 + (0x01 + m)
  else if m < 8 then 16 * 2 ^ 16 + 0b0001 * 2 ^ 8 + 0x10
  else if m < 16 then 0b1110 * 2 ^ 8 + (0x10 + (m - 8))
  else 0

/-- The reset value of register `r` in block instance `n` (port or cell number) at index `i`. Where the chapter's table gives an
expression instead of a number, it stands here; fuse, keystone and strap values are those of log entries 10 and 11. -/
def Reg.resetWord (r : Reg) (n i : Nat) : Word :=
  match r with
  | .celId => BitVec.ofNat 64 (b2n (Config.spareMap.testBit n) * 2 ^ 21 + 0xF * 2 ^ 16 + (0x40 + n) * 2 ^ 8 + n)
  | .hptId => BitVec.ofNat 64 (n * 2 ^ 8 + (0x01 + n))
  | .keyPerm => if i = 0 then 0xF else 0x9
  | .queRoute => if i = 0 then 0x7766554433221100 else 0xFFEEDDCCBBAA9988
  | .mbxCfg => BitVec.ofNat 64 (mbxCfgReset i)
  | .keySpare => BitVec.ofNat 64 Config.activeMap
  | .keySpareFree => BitVec.ofNat 64 Config.spareMap
  | .keyFenced => 0
  | r => BitVec.ofNat 64 (resetOf r.fields)

/-- The base of a register block instance in the key space of `State.regs`: shared blocks at their BAR0 offsets, the cell blocks
likewise, and the blocks of port `n` in a 16 MiB window of their own. -/
def Reg.key (r : Reg) (n i : Nat) : Nat :=
  let p := r.place
  match p.scope with
  | .shared => p.base + p.stride * i
  | .port => p.base + p.stride * i + (n + 1) * 2 ^ 24
  | .cell => 0x100000 + n * 0x10000 + p.base + p.stride * i

/-- A register instance as an access finds it: register, block instance, index. -/
structure Hit where
  reg : Reg
  n   : Nat
  i   : Nat
  deriving DecidableEq, Repr

/-- The index at which slot offset `off` falls in a register's array, if it does. -/
def Place.index (p : Place) (off : Nat) : Option Nat :=
  if p.base ≤ off && (off - p.base) % p.stride == 0 && (off - p.base) / p.stride < p.count then
    some ((off - p.base) / p.stride)
  else none

/-- `KEY_SLOT[i][w]` has w from 0 to 5; slots 6 and 7 of each 0x40 group belong to other registers. -/
def Reg.hasIndex (r : Reg) (i : Nat) : Bool := !(r == .keySlot) || i % 8 < 6

/-- The first register of a list, of the scope sought, that holds the slot at `off`. -/
def findReg (sc : Scope → Bool) (n off : Nat) : List Reg → Option Hit
  | [] => none
  | r :: l =>
    if sc r.place.scope then
      match r.place.index off with
      | some i => if r.hasIndex i then some ⟨r, n, i⟩ else findReg sc n off l
      | none => findReg sc n off l
    else findReg sc n off l

/-- The register at the 8-byte slot that holds BAR0 offset `off`, as port `p` sees it (R523, R526, R387): `none` where the map is
reserved. -/
def regAt (p off : Nat) : Option Hit :=
  let o := off / 8 * 8
  if 0x100000 ≤ o && o < 0x480000 then findReg (· == .cell) ((o - 0x100000) / 0x10000) (o % 0x10000) Reg.all
  else if 0x21000 ≤ o && o < 0x25000 then
    findReg (· == .port) (o / 0x1000 - 0x21) (0x20000 + o % 0x1000) Reg.all
  else findReg (fun sc => !(sc == .cell)) p o Reg.all


/-! The named fields of the registers. -/

/-- `CEL_ID.spare` [21:21] (03). -/
def Fld.celId_spare : FieldRef := ⟨.celId, 21, 21⟩
/-- `CEL_ID.span` [19:16] (03). -/
def Fld.celId_span : FieldRef := ⟨.celId, 19, 16⟩
/-- `CEL_ID.ident` [15:8] (03). -/
def Fld.celId_ident : FieldRef := ⟨.celId, 15, 8⟩
/-- `CEL_ID.cell` [7:0] (03). -/
def Fld.celId_cell : FieldRef := ⟨.celId, 7, 0⟩
/-- `CEL_CTRL.stop_req` [7:7] (03). -/
def Fld.celCtrl_stopReq : FieldRef := ⟨.celCtrl, 7, 7⟩
/-- `CEL_CTRL.sp_en` [4:4] (03). -/
def Fld.celCtrl_spEn : FieldRef := ⟨.celCtrl, 4, 4⟩
/-- `CEL_CTRL.mode` [3:2] (03). -/
def Fld.celCtrl_mode : FieldRef := ⟨.celCtrl, 3, 2⟩
/-- `CEL_CTRL.run` [0:0] (03). -/
def Fld.celCtrl_run : FieldRef := ⟨.celCtrl, 0, 0⟩
/-- `CEL_START.offset` [31:8] (03). -/
def Fld.celStart_offset : FieldRef := ⟨.celStart, 31, 8⟩
/-- `CEL_START.handle` [5:0] (03). -/
def Fld.celStart_handle : FieldRef := ⟨.celStart, 5, 0⟩
/-- `CEL_STATUS.wait_latch` [31:16] (03). -/
def Fld.celStatus_waitLatch : FieldRef := ⟨.celStatus, 31, 16⟩
/-- `CEL_STATUS.array_fenced` [5:5] (03). -/
def Fld.celStatus_arrayFenced : FieldRef := ⟨.celStatus, 5, 5⟩
/-- `CEL_STATUS.cell_fenced` [4:4] (03). -/
def Fld.celStatus_cellFenced : FieldRef := ⟨.celStatus, 4, 4⟩
/-- `CEL_STATUS.array_busy` [3:3] (03). -/
def Fld.celStatus_arrayBusy : FieldRef := ⟨.celStatus, 3, 3⟩
/-- `CEL_STATUS.waiting` [2:2] (03). -/
def Fld.celStatus_waiting : FieldRef := ⟨.celStatus, 2, 2⟩
/-- `CEL_STATUS.halted` [1:1] (03). -/
def Fld.celStatus_halted : FieldRef := ⟨.celStatus, 1, 1⟩
/-- `CEL_STATUS.running` [0:0] (03). -/
def Fld.celStatus_running : FieldRef := ⟨.celStatus, 0, 0⟩
/-- `CEL_PC.offset` [31:8] (03). -/
def Fld.celPc_offset : FieldRef := ⟨.celPc, 31, 8⟩
/-- `CEL_PC.handle` [5:0] (03). -/
def Fld.celPc_handle : FieldRef := ⟨.celPc, 5, 0⟩
/-- `CEL_FLAGS.start_busy` [5:5] (03). -/
def Fld.celFlags_startBusy : FieldRef := ⟨.celFlags, 5, 5⟩
/-- `CEL_FLAGS.array_par` [4:4] (03). -/
def Fld.celFlags_arrayPar : FieldRef := ⟨.celFlags, 4, 4⟩
/-- `CEL_FLAGS.latch_range` [3:3] (03). -/
def Fld.celFlags_latchRange : FieldRef := ⟨.celFlags, 3, 3⟩
/-- `CEL_FLAGS.sat` [2:2] (03). -/
def Fld.celFlags_sat : FieldRef := ⟨.celFlags, 2, 2⟩
/-- `CEL_FLAGS.fmt_err` [1:1] (03). -/
def Fld.celFlags_fmtErr : FieldRef := ⟨.celFlags, 1, 1⟩
/-- `CEL_FLAGS.illegal` [0:0] (03). -/
def Fld.celFlags_illegal : FieldRef := ⟨.celFlags, 0, 0⟩
/-- `CEL_FAULT_PC.offset` [31:8] (03). -/
def Fld.celFaultPc_offset : FieldRef := ⟨.celFaultPc, 31, 8⟩
/-- `CEL_FAULT_PC.handle` [5:0] (03). -/
def Fld.celFaultPc_handle : FieldRef := ⟨.celFaultPc, 5, 0⟩
/-- `CEL_FAULT_CAUSE.cause` [7:0] (03). -/
def Fld.celFaultCause_cause : FieldRef := ⟨.celFaultCause, 7, 0⟩
/-- `CEL_RNG_SEED.seed` [31:0] (03). -/
def Fld.celRngSeed_seed : FieldRef := ⟨.celRngSeed, 31, 0⟩
/-- `ARR_BUSY.count` [63:0] (03). -/
def Fld.arrBusy_count : FieldRef := ⟨.arrBusy, 63, 0⟩
/-- `ARR_WAIT.count` [63:0] (03). -/
def Fld.arrWait_count : FieldRef := ⟨.arrWait, 63, 0⟩
/-- `ARR_PREP.count` [63:0] (03). -/
def Fld.arrPrep_count : FieldRef := ⟨.arrPrep, 63, 0⟩
/-- `ARR_INSTR.count` [63:0] (03). -/
def Fld.arrInstr_count : FieldRef := ⟨.arrInstr, 63, 0⟩
/-- `POOL_CFG.scrub_int` [12:8] (04). -/
def Fld.poolCfg_scrubInt : FieldRef := ⟨.poolCfg, 12, 8⟩
/-- `POOL_CFG.scrub_en` [0:0] (04). -/
def Fld.poolCfg_scrubEn : FieldRef := ⟨.poolCfg, 0, 0⟩
/-- `POOL_STATUS.hnd_idx` [29:24] (04). -/
def Fld.poolStatus_hndIdx : FieldRef := ⟨.poolStatus, 29, 24⟩
/-- `POOL_STATUS.init_busy` [3:3] (04). -/
def Fld.poolStatus_initBusy : FieldRef := ⟨.poolStatus, 3, 3⟩
/-- `POOL_STATUS.hnd_par` [2:2] (04). -/
def Fld.poolStatus_hndPar : FieldRef := ⟨.poolStatus, 2, 2⟩
/-- `POOL_STATUS.hnd_bad` [1:1] (04). -/
def Fld.poolStatus_hndBad : FieldRef := ⟨.poolStatus, 1, 1⟩
/-- `POOL_STATUS.ue` [0:0] (04). -/
def Fld.poolStatus_ue : FieldRef := ⟨.poolStatus, 0, 0⟩
/-- `POOL_ECC_CE.count` [31:0] (04). -/
def Fld.poolEccCe_count : FieldRef := ⟨.poolEccCe, 31, 0⟩
/-- `POOL_ECC_UE.count` [31:0] (04). -/
def Fld.poolEccUe_count : FieldRef := ⟨.poolEccUe, 31, 0⟩
/-- `POOL_ECC_ADDR.mem` [34:32] (04). -/
def Fld.poolEccAddr_mem : FieldRef := ⟨.poolEccAddr, 34, 32⟩
/-- `POOL_ECC_ADDR.syndrome` [31:24] (04). -/
def Fld.poolEccAddr_syndrome : FieldRef := ⟨.poolEccAddr, 31, 24⟩
/-- `POOL_ECC_ADDR.word` [18:16] (04). -/
def Fld.poolEccAddr_word : FieldRef := ⟨.poolEccAddr, 18, 16⟩
/-- `POOL_ECC_ADDR.line` [15:0] (04). -/
def Fld.poolEccAddr_line : FieldRef := ⟨.poolEccAddr, 15, 0⟩
/-- `POOL_CONFLICT.count` [63:0] (04). -/
def Fld.poolConflict_count : FieldRef := ⟨.poolConflict, 63, 0⟩
/-- `POOL_SCRUB_POS.mem` [18:16] (04). -/
def Fld.poolScrubPos_mem : FieldRef := ⟨.poolScrubPos, 18, 16⟩
/-- `POOL_SCRUB_POS.line` [15:0] (04). -/
def Fld.poolScrubPos_line : FieldRef := ⟨.poolScrubPos, 15, 0⟩
/-- `HND_LO[h].size` [47:32] (04). -/
def Fld.hndLo_size : FieldRef := ⟨.hndLo, 47, 32⟩
/-- `HND_LO[h].base` [31:16] (04). -/
def Fld.hndLo_base : FieldRef := ⟨.hndLo, 31, 16⟩
/-- `HND_LO[h].wp` [15:15] (04). -/
def Fld.hndLo_wp : FieldRef := ⟨.hndLo, 15, 15⟩
/-- `HND_LO[h].rmode` [14:12] (04). -/
def Fld.hndLo_rmode : FieldRef := ⟨.hndLo, 14, 12⟩
/-- `HND_LO[h].gust` [11:9] (04). -/
def Fld.hndLo_gust : FieldRef := ⟨.hndLo, 11, 9⟩
/-- `HND_LO[h].mx` [8:8] (04). -/
def Fld.hndLo_mx : FieldRef := ⟨.hndLo, 8, 8⟩
/-- `HND_LO[h].fmt` [7:4] (04). -/
def Fld.hndLo_fmt : FieldRef := ⟨.hndLo, 7, 4⟩
/-- `HND_LO[h].mem` [3:1] (04). -/
def Fld.hndLo_mem : FieldRef := ⟨.hndLo, 3, 1⟩
/-- `HND_LO[h].valid` [0:0] (04). -/
def Fld.hndLo_valid : FieldRef := ⟨.hndLo, 0, 0⟩
/-- `HND_HI[h].stride1` [47:32] (04). -/
def Fld.hndHi_stride1 : FieldRef := ⟨.hndHi, 47, 32⟩
/-- `HND_HI[h].stride0` [31:16] (04). -/
def Fld.hndHi_stride0 : FieldRef := ⟨.hndHi, 31, 16⟩
/-- `HND_HI[h].cnt0` [15:0] (04). -/
def Fld.hndHi_cnt0 : FieldRef := ⟨.hndHi, 15, 0⟩
/-- `MSH_STATUS.desc_err` [2:2] (05). -/
def Fld.mshStatus_descErr : FieldRef := ⟨.mshStatus, 2, 2⟩
/-- `MSH_STATUS.link_retry` [1:1] (05). -/
def Fld.mshStatus_linkRetry : FieldRef := ⟨.mshStatus, 1, 1⟩
/-- `MSH_STATUS.link_down` [0:0] (05). -/
def Fld.mshStatus_linkDown : FieldRef := ⟨.mshStatus, 0, 0⟩
/-- `MSH_LINK_RETRY.count` [31:0] (05). -/
def Fld.mshLinkRetry_count : FieldRef := ⟨.mshLinkRetry, 31, 0⟩
/-- `MSH_DESC_ERR.tag` [63:48] (05). -/
def Fld.mshDescErr_tag : FieldRef := ⟨.mshDescErr, 63, 48⟩
/-- `MSH_DESC_ERR.status` [47:40] (05). -/
def Fld.mshDescErr_status : FieldRef := ⟨.mshDescErr, 47, 40⟩
/-- `MSH_DESC_ERR.ident` [39:32] (05). -/
def Fld.mshDescErr_ident : FieldRef := ⟨.mshDescErr, 39, 32⟩
/-- `MSH_DESC_ERR.period` [31:16] (05). -/
def Fld.mshDescErr_period : FieldRef := ⟨.mshDescErr, 31, 16⟩
/-- `MSH_DESC_ERR.phase` [15:0] (05). -/
def Fld.mshDescErr_phase : FieldRef := ⟨.mshDescErr, 15, 0⟩
/-- `MSH_DESC_ERR_CNT.count` [31:0] (05). -/
def Fld.mshDescErrCnt_count : FieldRef := ⟨.mshDescErrCnt, 31, 0⟩
/-- `MSH_INFLIGHT[n].count` [8:0] (05). -/
def Fld.mshInflight_count : FieldRef := ⟨.mshInflight, 8, 0⟩
/-- `MSH_INFLIGHT_TIE.issued` [25:16] (05). -/
def Fld.mshInflightTie_issued : FieldRef := ⟨.mshInflightTie, 25, 16⟩
/-- `MSH_INFLIGHT_TIE.legs` [10:0] (05). -/
def Fld.mshInflightTie_legs : FieldRef := ⟨.mshInflightTie, 10, 0⟩
/-- `LAT_ERR_LOG.latch` [63:48] (05). -/
def Fld.latErrLog_latch : FieldRef := ⟨.latErrLog, 63, 48⟩
/-- `LAT_ERR_LOG.cause` [47:40] (05). -/
def Fld.latErrLog_cause : FieldRef := ⟨.latErrLog, 47, 40⟩
/-- `LAT_ERR_LOG.ident` [39:32] (05). -/
def Fld.latErrLog_ident : FieldRef := ⟨.latErrLog, 39, 32⟩
/-- `LAT_ERR_LOG.period` [31:16] (05). -/
def Fld.latErrLog_period : FieldRef := ⟨.latErrLog, 31, 16⟩
/-- `LAT_ERR_LOG.phase` [15:0] (05). -/
def Fld.latErrLog_phase : FieldRef := ⟨.latErrLog, 15, 0⟩
/-- `LAT_ERR_CNT.count` [31:0] (05). -/
def Fld.latErrCnt_count : FieldRef := ⟨.latErrCnt, 31, 0⟩
/-- `TIE_STATUS.lost` [7:7] (06). -/
def Fld.tieStatus_lost : FieldRef := ⟨.tieStatus, 7, 7⟩
/-- `TIE_STATUS.no_spare1` [6:6] (06). -/
def Fld.tieStatus_noSpare1 : FieldRef := ⟨.tieStatus, 6, 6⟩
/-- `TIE_STATUS.no_spare0` [5:5] (06). -/
def Fld.tieStatus_noSpare0 : FieldRef := ⟨.tieStatus, 5, 5⟩
/-- `TIE_STATUS.migrating` [4:4] (06). -/
def Fld.tieStatus_migrating : FieldRef := ⟨.tieStatus, 4, 4⟩
/-- `TIE_STATUS.dram_ue` [3:3] (06). -/
def Fld.tieStatus_dramUe : FieldRef := ⟨.tieStatus, 3, 3⟩
/-- `TIE_STATUS.revoke_pend` [2:2] (06). -/
def Fld.tieStatus_revokePend : FieldRef := ⟨.tieStatus, 2, 2⟩
/-- `TIE_STATUS.late` [1:1] (06). -/
def Fld.tieStatus_late : FieldRef := ⟨.tieStatus, 1, 1⟩
/-- `TIE_STATUS.dir_full` [0:0] (06). -/
def Fld.tieStatus_dirFull : FieldRef := ⟨.tieStatus, 0, 0⟩
/-- `TIE_DIR_FREE.count` [17:0] (06). -/
def Fld.tieDirFree_count : FieldRef := ⟨.tieDirFree, 17, 0⟩
/-- `TIE_T2_WCLAT.ns` [31:0] (06). -/
def Fld.tieT2Wclat_ns : FieldRef := ⟨.tieT2Wclat, 31, 0⟩
/-- `TIE_T3_WCLAT.ns` [31:0] (06). -/
def Fld.tieT3Wclat_ns : FieldRef := ⟨.tieT3Wclat, 31, 0⟩
/-- `TIE_LATE_CNT.count` [31:0] (06). -/
def Fld.tieLateCnt_count : FieldRef := ⟨.tieLateCnt, 31, 0⟩
/-- `TIE_DEFER_CNT.count` [31:0] (06). -/
def Fld.tieDeferCnt_count : FieldRef := ⟨.tieDeferCnt, 31, 0⟩
/-- `TIE_LATE_LOG.object` [63:47] (06). -/
def Fld.tieLateLog_object : FieldRef := ⟨.tieLateLog, 63, 47⟩
/-- `TIE_LATE_LOG.span` [46:44] (06). -/
def Fld.tieLateLog_span : FieldRef := ⟨.tieLateLog, 46, 44⟩
/-- `TIE_LATE_LOG.excess` [43:32] (06). -/
def Fld.tieLateLog_excess : FieldRef := ⟨.tieLateLog, 43, 32⟩
/-- `TIE_LATE_LOG.tile` [31:0] (06). -/
def Fld.tieLateLog_tile : FieldRef := ⟨.tieLateLog, 31, 0⟩
/-- `TIE_FETCH_T2.count` [63:0] (06). -/
def Fld.tieFetchT2_count : FieldRef := ⟨.tieFetchT2, 63, 0⟩
/-- `TIE_FETCH_T3.count` [63:0] (06). -/
def Fld.tieFetchT3_count : FieldRef := ⟨.tieFetchT3, 63, 0⟩
/-- `TIE_SLOT_MAP.s1_used` [12:12] (06). -/
def Fld.tieSlotMap_s1Used : FieldRef := ⟨.tieSlotMap, 12, 12⟩
/-- `TIE_SLOT_MAP.s1_slot` [11:8] (06). -/
def Fld.tieSlotMap_s1Slot : FieldRef := ⟨.tieSlotMap, 11, 8⟩
/-- `TIE_SLOT_MAP.s0_used` [4:4] (06). -/
def Fld.tieSlotMap_s0Used : FieldRef := ⟨.tieSlotMap, 4, 4⟩
/-- `TIE_SLOT_MAP.s0_slot` [3:0] (06). -/
def Fld.tieSlotMap_s0Slot : FieldRef := ⟨.tieSlotMap, 3, 0⟩
/-- `TIE_CE_THRESH.periods` [31:16] (06). -/
def Fld.tieCeThresh_periods : FieldRef := ⟨.tieCeThresh, 31, 16⟩
/-- `TIE_CE_THRESH.count` [15:0] (06). -/
def Fld.tieCeThresh_count : FieldRef := ⟨.tieCeThresh, 15, 0⟩
/-- `TIE_SCRUB.int` [12:8] (06). -/
def Fld.tieScrub_int : FieldRef := ⟨.tieScrub, 12, 8⟩
/-- `TIE_SCRUB.en` [0:0] (06). -/
def Fld.tieScrub_en : FieldRef := ⟨.tieScrub, 0, 0⟩
/-- `TIE_DRAM_CE[ch].count` [31:0] (06). -/
def Fld.tieDramCe_count : FieldRef := ⟨.tieDramCe, 31, 0⟩
/-- `TIE_DRAM_UE[ch].count` [31:0] (06). -/
def Fld.tieDramUe_count : FieldRef := ⟨.tieDramUe, 31, 0⟩
/-- `TIE_DRAM_ADDR.ch` [63:58] (06). -/
def Fld.tieDramAddr_ch : FieldRef := ⟨.tieDramAddr, 63, 58⟩
/-- `TIE_DRAM_ADDR.period` [51:32] (06). -/
def Fld.tieDramAddr_period : FieldRef := ⟨.tieDramAddr, 51, 32⟩
/-- `TIE_DRAM_ADDR.line` [31:0] (06). -/
def Fld.tieDramAddr_line : FieldRef := ⟨.tieDramAddr, 31, 0⟩
/-- `FLC_STATUS.op_full` [16:16] (07). -/
def Fld.flcStatus_opFull : FieldRef := ⟨.flcStatus, 16, 16⟩
/-- `FLC_STATUS.wait_bad` [15:15] (07). -/
def Fld.flcStatus_waitBad : FieldRef := ⟨.flcStatus, 15, 15⟩
/-- `FLC_STATUS.refresh_due` [14:14] (07). -/
def Fld.flcStatus_refreshDue : FieldRef := ⟨.flcStatus, 14, 14⟩
/-- `FLC_STATUS.no_reserve` [13:13] (07). -/
def Fld.flcStatus_noReserve : FieldRef := ⟨.flcStatus, 13, 13⟩
/-- `FLC_STATUS.unit_retired` [12:12] (07). -/
def Fld.flcStatus_unitRetired : FieldRef := ⟨.flcStatus, 12, 12⟩
/-- `FLC_STATUS.ue` [11:11] (07). -/
def Fld.flcStatus_ue : FieldRef := ⟨.flcStatus, 11, 11⟩
/-- `FLC_STATUS.fail` [10:10] (07). -/
def Fld.flcStatus_fail : FieldRef := ⟨.flcStatus, 10, 10⟩
/-- `FLC_STATUS.cut` [9:9] (07). -/
def Fld.flcStatus_cut : FieldRef := ⟨.flcStatus, 9, 9⟩
/-- `FLC_STATUS.restart_busy` [8:8] (07). -/
def Fld.flcStatus_restartBusy : FieldRef := ⟨.flcStatus, 8, 8⟩
/-- `FLC_STATUS.table_lost` [5:4] (07). -/
def Fld.flcStatus_tableLost : FieldRef := ⟨.flcStatus, 5, 4⟩
/-- `FLC_STATUS.held` [3:2] (07). -/
def Fld.flcStatus_held : FieldRef := ⟨.flcStatus, 3, 2⟩
/-- `FLC_STATUS.sag_hold` [1:1] (07). -/
def Fld.flcStatus_sagHold : FieldRef := ⟨.flcStatus, 1, 1⟩
/-- `FLC_STATUS.busy` [0:0] (07). -/
def Fld.flcStatus_busy : FieldRef := ⟨.flcStatus, 0, 0⟩
/-- `FLC_CLK.changing` [8:8] (07). -/
def Fld.flcClk_changing : FieldRef := ⟨.flcClk, 8, 8⟩
/-- `FLC_CLK.vccq` [4:4] (07). -/
def Fld.flcClk_vccq : FieldRef := ⟨.flcClk, 4, 4⟩
/-- `FLC_CLK.freq` [2:0] (07). -/
def Fld.flcClk_freq : FieldRef := ⟨.flcClk, 2, 0⟩
/-- `FLC_WAIT.rd_cycles` [5:0] (07). -/
def Fld.flcWait_rdCycles : FieldRef := ⟨.flcWait, 5, 0⟩
/-- `FLC_LIMITS.erase_pulses` [7:4] (07). -/
def Fld.flcLimits_erasePulses : FieldRef := ⟨.flcLimits, 7, 4⟩
/-- `FLC_LIMITS.prog_pulses` [3:0] (07). -/
def Fld.flcLimits_progPulses : FieldRef := ⟨.flcLimits, 3, 0⟩
/-- `FLC_WCLAT.us` [15:0] (07). -/
def Fld.flcWclat_us : FieldRef := ⟨.flcWclat, 15, 0⟩
/-- `FLC_OP[i].word` [63:0] (07). -/
def Fld.flcOp_word : FieldRef := ⟨.flcOp, 63, 0⟩
/-- `FLC_OP_GO.go` [0:0] (07). -/
def Fld.flcOpGo_go : FieldRef := ⟨.flcOpGo, 0, 0⟩
/-- `FLC_DONE.valid` [63:63] (07). -/
def Fld.flcDone_valid : FieldRef := ⟨.flcDone, 63, 63⟩
/-- `FLC_DONE.status` [55:48] (07). -/
def Fld.flcDone_status : FieldRef := ⟨.flcDone, 55, 48⟩
/-- `FLC_DONE.plane` [47:42] (07). -/
def Fld.flcDone_plane : FieldRef := ⟨.flcDone, 47, 42⟩
/-- `FLC_DONE.die` [41:41] (07). -/
def Fld.flcDone_die : FieldRef := ⟨.flcDone, 41, 41⟩
/-- `FLC_DONE.tag` [15:0] (07). -/
def Fld.flcDone_tag : FieldRef := ⟨.flcDone, 15, 0⟩
/-- `FLC_QUEUE.done` [22:16] (07). -/
def Fld.flcQueue_done : FieldRef := ⟨.flcQueue, 22, 16⟩
/-- `FLC_QUEUE.ops` [6:0] (07). -/
def Fld.flcQueue_ops : FieldRef := ⟨.flcQueue, 6, 0⟩
/-- `FLC_ECC_CE[d].count` [31:0] (07). -/
def Fld.flcEccCe_count : FieldRef := ⟨.flcEccCe, 31, 0⟩
/-- `FLC_ECC_UE[d].count` [31:0] (07). -/
def Fld.flcEccUe_count : FieldRef := ⟨.flcEccUe, 31, 0⟩
/-- `FLC_ERR_LOG.kind` [63:60] (07). -/
def Fld.flcErrLog_kind : FieldRef := ⟨.flcErrLog, 63, 60⟩
/-- `FLC_ERR_LOG.die` [59:59] (07). -/
def Fld.flcErrLog_die : FieldRef := ⟨.flcErrLog, 59, 59⟩
/-- `FLC_ERR_LOG.plane` [58:53] (07). -/
def Fld.flcErrLog_plane : FieldRef := ⟨.flcErrLog, 58, 53⟩
/-- `FLC_ERR_LOG.row` [52:44] (07). -/
def Fld.flcErrLog_row : FieldRef := ⟨.flcErrLog, 52, 44⟩
/-- `FLC_ERR_LOG.page` [43:35] (07). -/
def Fld.flcErrLog_page : FieldRef := ⟨.flcErrLog, 43, 35⟩
/-- `FLC_ERR_LOG.period` [31:16] (07). -/
def Fld.flcErrLog_period : FieldRef := ⟨.flcErrLog, 31, 16⟩
/-- `FLC_ERR_LOG.phase` [15:0] (07). -/
def Fld.flcErrLog_phase : FieldRef := ⟨.flcErrLog, 15, 0⟩
/-- `FLC_RESERVE[d].retired` [31:24] (07). -/
def Fld.flcReserve_retired : FieldRef := ⟨.flcReserve, 31, 24⟩
/-- `FLC_RESERVE[d].grown` [23:12] (07). -/
def Fld.flcReserve_grown : FieldRef := ⟨.flcReserve, 23, 12⟩
/-- `FLC_RESERVE[d].left` [11:0] (07). -/
def Fld.flcReserve_left : FieldRef := ⟨.flcReserve, 11, 0⟩
/-- `FLC_RD_LIMIT.limit` [31:0] (07). -/
def Fld.flcRdLimit_limit : FieldRef := ⟨.flcRdLimit, 31, 0⟩
/-- `FLC_SUSP_CNT.count` [31:0] (07). -/
def Fld.flcSuspCnt_count : FieldRef := ⟨.flcSuspCnt, 31, 0⟩
/-- `FLC_JOURNAL[d].seq` [31:16] (07). -/
def Fld.flcJournal_seq : FieldRef := ⟨.flcJournal, 31, 16⟩
/-- `FLC_JOURNAL[d].sector` [13:12] (07). -/
def Fld.flcJournal_sector : FieldRef := ⟨.flcJournal, 13, 12⟩
/-- `FLC_JOURNAL[d].unit` [9:0] (07). -/
def Fld.flcJournal_unit : FieldRef := ⟨.flcJournal, 9, 0⟩
/-- `IMG_STATUS.active` [15:8] (08). -/
def Fld.imgStatus_active : FieldRef := ⟨.imgStatus, 15, 8⟩
/-- `IMG_STATUS.damaged` [2:2] (08). -/
def Fld.imgStatus_damaged : FieldRef := ⟨.imgStatus, 2, 2⟩
/-- `IMG_STATUS.sig_fail` [1:1] (08). -/
def Fld.imgStatus_sigFail : FieldRef := ⟨.imgStatus, 1, 1⟩
/-- `IMG_STATUS.lib_read` [0:0] (08). -/
def Fld.imgStatus_libRead : FieldRef := ⟨.imgStatus, 0, 0⟩
/-- `IMG_LIB_FREE.images` [22:16] (08). -/
def Fld.imgLibFree_images : FieldRef := ⟨.imgLibFree, 22, 16⟩
/-- `IMG_LIB_FREE.units` [8:0] (08). -/
def Fld.imgLibFree_units : FieldRef := ⟨.imgLibFree, 8, 0⟩
/-- `IMG_RELAY_STALL.count` [31:0] (08). -/
def Fld.imgRelayStall_count : FieldRef := ⟨.imgRelayStall, 31, 0⟩
/-- `IMG_SPAN[s].generation` [63:32] (08). -/
def Fld.imgSpan_generation : FieldRef := ⟨.imgSpan, 63, 32⟩
/-- `IMG_SPAN[s].image` [29:24] (08). -/
def Fld.imgSpan_image : FieldRef := ⟨.imgSpan, 29, 24⟩
/-- `IMG_SPAN[s].state` [19:16] (08). -/
def Fld.imgSpan_state : FieldRef := ⟨.imgSpan, 19, 16⟩
/-- `IMG_SPAN[s].old_reqs` [15:0] (08). -/
def Fld.imgSpan_oldReqs : FieldRef := ⟨.imgSpan, 15, 0⟩
/-- `IMG_PROG[s].bytes` [39:0] (08). -/
def Fld.imgProg_bytes : FieldRef := ⟨.imgProg, 39, 0⟩
/-- `IMG_LIB[i].state` [63:61] (08). -/
def Fld.imgLib_state : FieldRef := ⟨.imgLib, 63, 61⟩
/-- `IMG_LIB[i].readers` [55:48] (08). -/
def Fld.imgLib_readers : FieldRef := ⟨.imgLib, 55, 48⟩
/-- `IMG_LIB[i].first_unit` [40:32] (08). -/
def Fld.imgLib_firstUnit : FieldRef := ⟨.imgLib, 40, 32⟩
/-- `IMG_LIB[i].units` [24:16] (08). -/
def Fld.imgLib_units : FieldRef := ⟨.imgLib, 24, 16⟩
/-- `IMG_LIB[i].gen_low` [15:0] (08). -/
def Fld.imgLib_genLow : FieldRef := ⟨.imgLib, 15, 0⟩
/-- `SRV_STATUS.draining` [23:16] (09). -/
def Fld.srvStatus_draining : FieldRef := ⟨.srvStatus, 23, 16⟩
/-- `SRV_STATUS.shadow_owner` [15:8] (09). -/
def Fld.srvStatus_shadowOwner : FieldRef := ⟨.srvStatus, 15, 8⟩
/-- `SRV_STATUS.shadow_held` [0:0] (09). -/
def Fld.srvStatus_shadowHeld : FieldRef := ⟨.srvStatus, 0, 0⟩
/-- `SRV_SLOTS_FREE.count` [12:0] (09). -/
def Fld.srvSlotsFree_count : FieldRef := ⟨.srvSlotsFree, 12, 0⟩
/-- `SRV_CFG_EPOCH.epoch` [31:0] (09). -/
def Fld.srvCfgEpoch_epoch : FieldRef := ⟨.srvCfgEpoch, 31, 0⟩
/-- `SRV_DROP_CNT.count` [31:0] (09). -/
def Fld.srvDropCnt_count : FieldRef := ⟨.srvDropCnt, 31, 0⟩
/-- `SRV_REFUSE_CNT.count` [31:0] (09). -/
def Fld.srvRefuseCnt_count : FieldRef := ⟨.srvRefuseCnt, 31, 0⟩
/-- `SRV_NAN_CNT.count` [31:0] (09). -/
def Fld.srvNanCnt_count : FieldRef := ⟨.srvNanCnt, 31, 0⟩
/-- `SRV_PORT_REQ[p].pending` [28:16] (09). -/
def Fld.srvPortReq_pending : FieldRef := ⟨.srvPortReq, 28, 16⟩
/-- `SRV_PORT_REQ[p].slots` [12:0] (09). -/
def Fld.srvPortReq_slots : FieldRef := ⟨.srvPortReq, 12, 0⟩
/-- `SRV_SPAN_STEP[s].steps` [63:0] (09). -/
def Fld.srvSpanStep_steps : FieldRef := ⟨.srvSpanStep, 63, 0⟩
/-- `SRV_SPAN_BATCH[s].admit_stop` [31:31] (09). -/
def Fld.srvSpanBatch_admitStop : FieldRef := ⟨.srvSpanBatch, 31, 31⟩
/-- `SRV_SPAN_BATCH[s].paused` [30:30] (09). -/
def Fld.srvSpanBatch_paused : FieldRef := ⟨.srvSpanBatch, 30, 30⟩
/-- `SRV_SPAN_BATCH[s].chunk` [29:20] (09). -/
def Fld.srvSpanBatch_chunk : FieldRef := ⟨.srvSpanBatch, 29, 20⟩
/-- `SRV_SPAN_BATCH[s].rows` [19:10] (09). -/
def Fld.srvSpanBatch_rows : FieldRef := ⟨.srvSpanBatch, 19, 10⟩
/-- `SRV_SPAN_BATCH[s].seqs` [8:0] (09). -/
def Fld.srvSpanBatch_seqs : FieldRef := ⟨.srvSpanBatch, 8, 0⟩
/-- `SRV_SPAN_CFG[s].is_draft` [16:16] (09). -/
def Fld.srvSpanCfg_isDraft : FieldRef := ⟨.srvSpanCfg, 16, 16⟩
/-- `SRV_SPAN_CFG[s].draft_en` [15:15] (09). -/
def Fld.srvSpanCfg_draftEn : FieldRef := ⟨.srvSpanCfg, 15, 15⟩
/-- `SRV_SPAN_CFG[s].draft_span` [14:12] (09). -/
def Fld.srvSpanCfg_draftSpan : FieldRef := ⟨.srvSpanCfg, 14, 12⟩
/-- `SRV_SPAN_CFG[s].chunk_max` [9:0] (09). -/
def Fld.srvSpanCfg_chunkMax : FieldRef := ⟨.srvSpanCfg, 9, 0⟩
/-- `SRV_SPAN_QUEUE[s].idle` [60:48] (09). -/
def Fld.srvSpanQueue_idle : FieldRef := ⟨.srvSpanQueue, 60, 48⟩
/-- `SRV_SPAN_QUEUE[s].bulk` [44:32] (09). -/
def Fld.srvSpanQueue_bulk : FieldRef := ⟨.srvSpanQueue, 44, 32⟩
/-- `SRV_SPAN_QUEUE[s].paced` [28:16] (09). -/
def Fld.srvSpanQueue_paced : FieldRef := ⟨.srvSpanQueue, 28, 16⟩
/-- `SRV_SPAN_QUEUE[s].interactive` [12:0] (09). -/
def Fld.srvSpanQueue_interactive : FieldRef := ⟨.srvSpanQueue, 12, 0⟩
/-- `CAD_STATUS.period_chg` [7:7] (10). -/
def Fld.cadStatus_periodChg : FieldRef := ⟨.cadStatus, 7, 7⟩
/-- `CAD_STATUS.drift` [6:6] (10). -/
def Fld.cadStatus_drift : FieldRef := ⟨.cadStatus, 6, 6⟩
/-- `CAD_STATUS.aligning` [5:5] (10). -/
def Fld.cadStatus_aligning : FieldRef := ⟨.cadStatus, 5, 5⟩
/-- `CAD_STATUS.source` [4:3] (10). -/
def Fld.cadStatus_source : FieldRef := ⟨.cadStatus, 4, 3⟩
/-- `CAD_STATUS.state` [2:0] (10). -/
def Fld.cadStatus_state : FieldRef := ⟨.cadStatus, 2, 0⟩
/-- `CAD_CTRL.hold_max` [25:16] (10). -/
def Fld.cadCtrl_holdMax : FieldRef := ⟨.cadCtrl, 25, 16⟩
/-- `CAD_CTRL.ptm_port` [9:8] (10). -/
def Fld.cadCtrl_ptmPort : FieldRef := ⟨.cadCtrl, 9, 8⟩
/-- `CAD_CTRL.falling` [7:7] (10). -/
def Fld.cadCtrl_falling : FieldRef := ⟨.cadCtrl, 7, 7⟩
/-- `CAD_CTRL.order` [5:0] (10). -/
def Fld.cadCtrl_order : FieldRef := ⟨.cadCtrl, 5, 0⟩
/-- `CAD_PERIOD.admit_ns` [57:32] (10). -/
def Fld.cadPeriod_admitNs : FieldRef := ⟨.cadPeriod, 57, 32⟩
/-- `CAD_PERIOD.meas_ns` [25:0] (10). -/
def Fld.cadPeriod_measNs : FieldRef := ⟨.cadPeriod, 25, 0⟩
/-- `CAD_NOW.period` [63:16] (10). -/
def Fld.cadNow_period : FieldRef := ⟨.cadNow, 63, 16⟩
/-- `CAD_NOW.phase` [15:0] (10). -/
def Fld.cadNow_phase : FieldRef := ⟨.cadNow, 15, 0⟩
/-- `CAD_PTM.period_ns` [25:0] (10). -/
def Fld.cadPtm_periodNs : FieldRef := ⟨.cadPtm, 25, 0⟩
/-- `CAD_PTM_EPOCH.ns` [63:0] (10). -/
def Fld.cadPtmEpoch_ns : FieldRef := ⟨.cadPtmEpoch, 63, 0⟩
/-- `CAD_GLITCH_CNT.count` [31:0] (10). -/
def Fld.cadGlitchCnt_count : FieldRef := ⟨.cadGlitchCnt, 31, 0⟩
/-- `CAD_MISS_CNT.count` [31:0] (10). -/
def Fld.cadMissCnt_count : FieldRef := ⟨.cadMissCnt, 31, 0⟩
/-- `CAD_SHED_CNT.count` [31:0] (10). -/
def Fld.cadShedCnt_count : FieldRef := ⟨.cadShedCnt, 31, 0⟩
/-- `CAD_DRIFT.worst` [31:16] (10). -/
def Fld.cadDrift_worst : FieldRef := ⟨.cadDrift, 31, 16⟩
/-- `CAD_DRIFT.last` [15:0] (10). -/
def Fld.cadDrift_last : FieldRef := ⟨.cadDrift, 15, 0⟩
/-- `CAD_SPAN_WC[s].spp` [39:32] (10). -/
def Fld.cadSpanWc_spp : FieldRef := ⟨.cadSpanWc, 39, 32⟩
/-- `CAD_SPAN_WC[s].step_ns` [31:0] (10). -/
def Fld.cadSpanWc_stepNs : FieldRef := ⟨.cadSpanWc, 31, 0⟩
/-- `CAD_SPAN_USE[s].kv` [31:24] (10). -/
def Fld.cadSpanUse_kv : FieldRef := ⟨.cadSpanUse, 31, 24⟩
/-- `CAD_SPAN_USE[s].flash` [23:16] (10). -/
def Fld.cadSpanUse_flash : FieldRef := ⟨.cadSpanUse, 23, 16⟩
/-- `CAD_SPAN_USE[s].dram` [15:8] (10). -/
def Fld.cadSpanUse_dram : FieldRef := ⟨.cadSpanUse, 15, 8⟩
/-- `CAD_SPAN_USE[s].array` [7:0] (10). -/
def Fld.cadSpanUse_array : FieldRef := ⟨.cadSpanUse, 7, 0⟩
/-- `KVW_STATUS.busy` [15:8] (11). -/
def Fld.kvwStatus_busy : FieldRef := ⟨.kvwStatus, 15, 8⟩
/-- `KVW_STATUS.t3_lost` [2:2] (11). -/
def Fld.kvwStatus_t3Lost : FieldRef := ⟨.kvwStatus, 2, 2⟩
/-- `KVW_STATUS.poison` [1:1] (11). -/
def Fld.kvwStatus_poison : FieldRef := ⟨.kvwStatus, 1, 1⟩
/-- `KVW_STATUS.lab_par` [0:0] (11). -/
def Fld.kvwStatus_labPar : FieldRef := ⟨.kvwStatus, 0, 0⟩
/-- `KVW_ERR_LOG.kind` [63:60] (11). -/
def Fld.kvwErrLog_kind : FieldRef := ⟨.kvwErrLog, 63, 60⟩
/-- `KVW_ERR_LOG.span` [59:57] (11). -/
def Fld.kvwErrLog_span : FieldRef := ⟨.kvwErrLog, 59, 57⟩
/-- `KVW_ERR_LOG.slot` [56:45] (11). -/
def Fld.kvwErrLog_slot : FieldRef := ⟨.kvwErrLog, 56, 45⟩
/-- `KVW_ERR_LOG.layer` [44:35] (11). -/
def Fld.kvwErrLog_layer : FieldRef := ⟨.kvwErrLog, 44, 35⟩
/-- `KVW_ERR_LOG.period` [31:16] (11). -/
def Fld.kvwErrLog_period : FieldRef := ⟨.kvwErrLog, 31, 16⟩
/-- `KVW_ERR_LOG.phase` [15:0] (11). -/
def Fld.kvwErrLog_phase : FieldRef := ⟨.kvwErrLog, 15, 0⟩
/-- `KVW_ERR_CNT.count` [31:0] (11). -/
def Fld.kvwErrCnt_count : FieldRef := ⟨.kvwErrCnt, 31, 0⟩
/-- `KVW_CFG[s].app_handle` [21:16] (11). -/
def Fld.kvwCfg_appHandle : FieldRef := ⟨.kvwCfg, 21, 16⟩
/-- `KVW_CFG[s].t3_en` [9:9] (11). -/
def Fld.kvwCfg_t3En : FieldRef := ⟨.kvwCfg, 9, 9⟩
/-- `KVW_CFG[s].park_demote` [8:8] (11). -/
def Fld.kvwCfg_parkDemote : FieldRef := ⟨.kvwCfg, 8, 8⟩
/-- `KVW_CFG[s].train` [4:4] (11). -/
def Fld.kvwCfg_train : FieldRef := ⟨.kvwCfg, 4, 4⟩
/-- `KVW_CFG[s].gust` [1:1] (11). -/
def Fld.kvwCfg_gust : FieldRef := ⟨.kvwCfg, 1, 1⟩
/-- `KVW_CFG[s].rope_en` [0:0] (11). -/
def Fld.kvwCfg_ropeEn : FieldRef := ⟨.kvwCfg, 0, 0⟩
/-- `KVW_POOL[s].total` [63:32] (11). -/
def Fld.kvwPool_total : FieldRef := ⟨.kvwPool, 63, 32⟩
/-- `KVW_POOL[s].free` [31:0] (11). -/
def Fld.kvwPool_free : FieldRef := ⟨.kvwPool, 31, 0⟩
/-- `KVW_FRAME[s].pieces` [23:16] (11). -/
def Fld.kvwFrame_pieces : FieldRef := ⟨.kvwFrame, 23, 16⟩
/-- `KVW_FRAME[s].lines` [15:0] (11). -/
def Fld.kvwFrame_lines : FieldRef := ⟨.kvwFrame, 15, 0⟩
/-- `KVW_ROPE[s].valid` [31:31] (11). -/
def Fld.kvwRope_valid : FieldRef := ⟨.kvwRope, 31, 31⟩
/-- `KVW_ROPE[s].object` [16:0] (11). -/
def Fld.kvwRope_object : FieldRef := ⟨.kvwRope, 16, 0⟩
/-- `KVW_LAB_HIT[s].count` [63:0] (11). -/
def Fld.kvwLabHit_count : FieldRef := ⟨.kvwLabHit, 63, 0⟩
/-- `KVW_LAB_MISS[s].count` [63:0] (11). -/
def Fld.kvwLabMiss_count : FieldRef := ⟨.kvwLabMiss, 63, 0⟩
/-- `KVW_EVICT_CNT[s].count` [31:0] (11). -/
def Fld.kvwEvictCnt_count : FieldRef := ⟨.kvwEvictCnt, 31, 0⟩
/-- `KVW_APPEND[n].valid` [31:31] (11). -/
def Fld.kvwAppend_valid : FieldRef := ⟨.kvwAppend, 31, 31⟩
/-- `KVW_APPEND[n].layer` [25:16] (11). -/
def Fld.kvwAppend_layer : FieldRef := ⟨.kvwAppend, 25, 16⟩
/-- `KVW_APPEND[n].row_base` [9:0] (11). -/
def Fld.kvwAppend_rowBase : FieldRef := ⟨.kvwAppend, 9, 0⟩
/-- `HPT_ID.speed` [19:16] (13). -/
def Fld.hptId_speed : FieldRef := ⟨.hptId, 19, 16⟩
/-- `HPT_ID.width` [15:12] (13). -/
def Fld.hptId_width : FieldRef := ⟨.hptId, 15, 12⟩
/-- `HPT_ID.bif` [11:10] (13). -/
def Fld.hptId_bif : FieldRef := ⟨.hptId, 11, 10⟩
/-- `HPT_ID.port` [9:8] (13). -/
def Fld.hptId_port : FieldRef := ⟨.hptId, 9, 8⟩
/-- `HPT_ID.ident` [7:0] (13). -/
def Fld.hptId_ident : FieldRef := ⟨.hptId, 7, 0⟩
/-- `HPT_CTRL.peer_notice` [1:1] (13). -/
def Fld.hptCtrl_peerNotice : FieldRef := ⟨.hptCtrl, 1, 1⟩
/-- `HPT_CTRL.cancel_mode` [0:0] (13). -/
def Fld.hptCtrl_cancelMode : FieldRef := ⟨.hptCtrl, 0, 0⟩
/-- `HPT_STATUS.post_bad` [8:8] (13). -/
def Fld.hptStatus_postBad : FieldRef := ⟨.hptStatus, 8, 8⟩
/-- `HPT_STATUS.deny` [7:7] (13). -/
def Fld.hptStatus_deny : FieldRef := ⟨.hptStatus, 7, 7⟩
/-- `HPT_STATUS.bad_access` [6:6] (13). -/
def Fld.hptStatus_badAccess : FieldRef := ⟨.hptStatus, 6, 6⟩
/-- `HPT_STATUS.cmd_drop` [5:5] (13). -/
def Fld.hptStatus_cmdDrop : FieldRef := ⟨.hptStatus, 5, 5⟩
/-- `HPT_STATUS.win_overrun` [4:4] (13). -/
def Fld.hptStatus_winOverrun : FieldRef := ⟨.hptStatus, 4, 4⟩
/-- `HPT_STATUS.cmd_sync` [3:3] (13). -/
def Fld.hptStatus_cmdSync : FieldRef := ⟨.hptStatus, 3, 3⟩
/-- `HPT_STATUS.safe` [2:2] (13). -/
def Fld.hptStatus_safe : FieldRef := ⟨.hptStatus, 2, 2⟩
/-- `HPT_STATUS.ready` [1:1] (13). -/
def Fld.hptStatus_ready : FieldRef := ⟨.hptStatus, 1, 1⟩
/-- `HPT_STATUS.link_up` [0:0] (13). -/
def Fld.hptStatus_linkUp : FieldRef := ⟨.hptStatus, 0, 0⟩
/-- `HPT_PERM.diag` [3:3] (13). -/
def Fld.hptPerm_diag : FieldRef := ⟨.hptPerm, 3, 3⟩
/-- `HPT_PERM.fw_update` [2:2] (13). -/
def Fld.hptPerm_fwUpdate : FieldRef := ⟨.hptPerm, 2, 2⟩
/-- `HPT_PERM.flash_write` [1:1] (13). -/
def Fld.hptPerm_flashWrite : FieldRef := ⟨.hptPerm, 1, 1⟩
/-- `HPT_PERM.model_load` [0:0] (13). -/
def Fld.hptPerm_modelLoad : FieldRef := ⟨.hptPerm, 0, 0⟩
/-- `HPT_CMD_POST.tail` [20:0] (13). -/
def Fld.hptCmdPost_tail : FieldRef := ⟨.hptCmdPost, 20, 0⟩
/-- `HPT_CMD_HEAD.head` [20:0] (13). -/
def Fld.hptCmdHead_head : FieldRef := ⟨.hptCmdHead, 20, 0⟩
/-- `HPT_CMD_OUT.count` [10:0] (13). -/
def Fld.hptCmdOut_count : FieldRef := ⟨.hptCmdOut, 10, 0⟩
/-- `HPT_CMD_DROP.count` [31:0] (13). -/
def Fld.hptCmdDrop_count : FieldRef := ⟨.hptCmdDrop, 31, 0⟩
/-- `HPT_DENY_CNT.count` [31:0] (13). -/
def Fld.hptDenyCnt_count : FieldRef := ⟨.hptDenyCnt, 31, 0⟩
/-- `HPT_RCPT_MAX.count` [31:0] (13). -/
def Fld.hptRcptMax_count : FieldRef := ⟨.hptRcptMax, 31, 0⟩
/-- `MBX_DB.bits` [31:0] (14). -/
def Fld.mbxDb_bits : FieldRef := ⟨.mbxDb, 31, 0⟩
/-- `MBX_TAKEN.bits` [31:0] (14). -/
def Fld.mbxTaken_bits : FieldRef := ⟨.mbxTaken, 31, 0⟩
/-- `MBX_DB_MASK.mask` [31:0] (14). -/
def Fld.mbxDbMask_mask : FieldRef := ⟨.mbxDbMask, 31, 0⟩
/-- `MBX_PERR.release_bad` [4:4] (14). -/
def Fld.mbxPerr_releaseBad : FieldRef := ⟨.mbxPerr, 4, 4⟩
/-- `MBX_PERR.take_denied` [3:3] (14). -/
def Fld.mbxPerr_takeDenied : FieldRef := ⟨.mbxPerr, 3, 3⟩
/-- `MBX_PERR.send_denied` [2:2] (14). -/
def Fld.mbxPerr_sendDenied : FieldRef := ⟨.mbxPerr, 2, 2⟩
/-- `MBX_PERR.send_locked` [1:1] (14). -/
def Fld.mbxPerr_sendLocked : FieldRef := ⟨.mbxPerr, 1, 1⟩
/-- `MBX_PERR.send_full` [0:0] (14). -/
def Fld.mbxPerr_sendFull : FieldRef := ⟨.mbxPerr, 0, 0⟩
/-- `MBX_LOCK[m].owner` [7:0] (14). -/
def Fld.mbxLock_owner : FieldRef := ⟨.mbxLock, 7, 0⟩
/-- `MBX_SEND[m].go` [0:0] (14). -/
def Fld.mbxSend_go : FieldRef := ⟨.mbxSend, 0, 0⟩
/-- `MBX_TAKE[m].go` [0:0] (14). -/
def Fld.mbxTake_go : FieldRef := ⟨.mbxTake, 0, 0⟩
/-- `MBX_STATE[m].full` [31:31] (14). -/
def Fld.mbxState_full : FieldRef := ⟨.mbxState, 31, 31⟩
/-- `MBX_STATE[m].outcome` [30:29] (14). -/
def Fld.mbxState_outcome : FieldRef := ⟨.mbxState, 30, 29⟩
/-- `MBX_STATE[m].owner` [23:16] (14). -/
def Fld.mbxState_owner : FieldRef := ⟨.mbxState, 23, 16⟩
/-- `MBX_STATE[m].sender` [15:8] (14). -/
def Fld.mbxState_sender : FieldRef := ⟨.mbxState, 15, 8⟩
/-- `MBX_STATE[m].receiver` [7:0] (14). -/
def Fld.mbxState_receiver : FieldRef := ⟨.mbxState, 7, 0⟩
/-- `MBX_CFG[m].hold_max` [23:16] (14). -/
def Fld.mbxCfg_holdMax : FieldRef := ⟨.mbxCfg, 23, 16⟩
/-- `MBX_CFG[m].senders` [11:8] (14). -/
def Fld.mbxCfg_senders : FieldRef := ⟨.mbxCfg, 11, 8⟩
/-- `MBX_CFG[m].receiver` [7:0] (14). -/
def Fld.mbxCfg_receiver : FieldRef := ⟨.mbxCfg, 7, 0⟩
/-- `MBX_LOCK_BREAK.mailbox` [4:0] (14). -/
def Fld.mbxLockBreak_mailbox : FieldRef := ⟨.mbxLockBreak, 4, 0⟩
/-- `MBX_BREAK_LOG.mailbox` [52:48] (14). -/
def Fld.mbxBreakLog_mailbox : FieldRef := ⟨.mbxBreakLog, 52, 48⟩
/-- `MBX_BREAK_LOG.owner` [47:40] (14). -/
def Fld.mbxBreakLog_owner : FieldRef := ⟨.mbxBreakLog, 47, 40⟩
/-- `MBX_BREAK_LOG.cause` [39:32] (14). -/
def Fld.mbxBreakLog_cause : FieldRef := ⟨.mbxBreakLog, 39, 32⟩
/-- `MBX_BREAK_LOG.period` [31:16] (14). -/
def Fld.mbxBreakLog_period : FieldRef := ⟨.mbxBreakLog, 31, 16⟩
/-- `MBX_BREAK_LOG.phase` [15:0] (14). -/
def Fld.mbxBreakLog_phase : FieldRef := ⟨.mbxBreakLog, 15, 0⟩
/-- `MBX_BREAK_CNT.count` [31:0] (14). -/
def Fld.mbxBreakCnt_count : FieldRef := ⟨.mbxBreakCnt, 31, 0⟩
/-- `QUE_CFG[k].coal_us` [25:16] (14). -/
def Fld.queCfg_coalUs : FieldRef := ⟨.queCfg, 25, 16⟩
/-- `QUE_CFG[k].wm_notice` [8:8] (14). -/
def Fld.queCfg_wmNotice : FieldRef := ⟨.queCfg, 8, 8⟩
/-- `QUE_CFG[k].mode` [1:0] (14). -/
def Fld.queCfg_mode : FieldRef := ⟨.queCfg, 1, 0⟩
/-- `QUE_LEVEL[k].lines` [55:32] (14). -/
def Fld.queLevel_lines : FieldRef := ⟨.queLevel, 55, 32⟩
/-- `QUE_LEVEL[k].packets` [19:0] (14). -/
def Fld.queLevel_packets : FieldRef := ⟨.queLevel, 19, 0⟩
/-- `QUE_NEXT[k].valid` [63:63] (14). -/
def Fld.queNext_valid : FieldRef := ⟨.queNext, 63, 63⟩
/-- `QUE_NEXT[k].priority` [62:60] (14). -/
def Fld.queNext_priority : FieldRef := ⟨.queNext, 62, 60⟩
/-- `QUE_NEXT[k].slot` [35:32] (14). -/
def Fld.queNext_slot : FieldRef := ⟨.queNext, 35, 32⟩
/-- `QUE_NEXT[k].seq` [31:0] (14). -/
def Fld.queNext_seq : FieldRef := ⟨.queNext, 31, 0⟩
/-- `QUE_CONSUME[k].seq` [31:0] (14). -/
def Fld.queConsume_seq : FieldRef := ⟨.queConsume, 31, 0⟩
/-- `QUE_WM[k].hi` [31:16] (14). -/
def Fld.queWm_hi : FieldRef := ⟨.queWm, 31, 16⟩
/-- `QUE_WM[k].lo` [15:0] (14). -/
def Fld.queWm_lo : FieldRef := ⟨.queWm, 15, 0⟩
/-- `QUE_STATUS[k].notice_drop` [5:5] (14). -/
def Fld.queStatus_noticeDrop : FieldRef := ⟨.queStatus, 5, 5⟩
/-- `QUE_STATUS[k].ue` [4:4] (14). -/
def Fld.queStatus_ue : FieldRef := ⟨.queStatus, 4, 4⟩
/-- `QUE_STATUS[k].stale` [3:3] (14). -/
def Fld.queStatus_stale : FieldRef := ⟨.queStatus, 3, 3⟩
/-- `QUE_STATUS[k].flushing` [2:2] (14). -/
def Fld.queStatus_flushing : FieldRef := ⟨.queStatus, 2, 2⟩
/-- `QUE_STATUS[k].wm_lo_seen` [1:1] (14). -/
def Fld.queStatus_wmLoSeen : FieldRef := ⟨.queStatus, 1, 1⟩
/-- `QUE_STATUS[k].wm_hi_seen` [0:0] (14). -/
def Fld.queStatus_wmHiSeen : FieldRef := ⟨.queStatus, 0, 0⟩
/-- `QUE_XCNT[k].up` [31:16] (14). -/
def Fld.queXcnt_up : FieldRef := ⟨.queXcnt, 31, 16⟩
/-- `QUE_XCNT[k].down` [15:0] (14). -/
def Fld.queXcnt_down : FieldRef := ⟨.queXcnt, 15, 0⟩
/-- `QUE_ECC[k].ue` [63:32] (14). -/
def Fld.queEcc_ue : FieldRef := ⟨.queEcc, 63, 32⟩
/-- `QUE_ECC[k].ce` [31:0] (14). -/
def Fld.queEcc_ce : FieldRef := ⟨.queEcc, 31, 0⟩
/-- `QUE_FLUSH.queue` [4:0] (14). -/
def Fld.queFlush_queue : FieldRef := ⟨.queFlush, 4, 0⟩
/-- `QUE_ROUTE[i].routes` [63:0] (14). -/
def Fld.queRoute_routes : FieldRef := ⟨.queRoute, 63, 0⟩
/-- `QUE_NOTICE_DROP.count` [31:0] (14). -/
def Fld.queNoticeDrop_count : FieldRef := ⟨.queNoticeDrop, 31, 0⟩
/-- `KEY_STATUS.lockstep_last` [6:6] (15). -/
def Fld.keyStatus_lockstepLast : FieldRef := ⟨.keyStatus, 6, 6⟩
/-- `KEY_STATUS.trip_last` [5:5] (15). -/
def Fld.keyStatus_tripLast : FieldRef := ⟨.keyStatus, 5, 5⟩
/-- `KEY_STATUS.wdog_last` [4:4] (15). -/
def Fld.keyStatus_wdogLast : FieldRef := ⟨.keyStatus, 4, 4⟩
/-- `KEY_STATUS.record_bad` [3:3] (15). -/
def Fld.keyStatus_recordBad : FieldRef := ⟨.keyStatus, 3, 3⟩
/-- `KEY_STATUS.record` [2:2] (15). -/
def Fld.keyStatus_record : FieldRef := ⟨.keyStatus, 2, 2⟩
/-- `KEY_STATUS.viol` [1:1] (15). -/
def Fld.keyStatus_viol : FieldRef := ⟨.keyStatus, 1, 1⟩
/-- `KEY_LOCK.lock` [0:0] (15). -/
def Fld.keyLock_lock : FieldRef := ⟨.keyLock, 0, 0⟩
/-- `KEY_VIOL_LOG.address` [63:40] (15). -/
def Fld.keyViolLog_address : FieldRef := ⟨.keyViolLog, 63, 40⟩
/-- `KEY_VIOL_LOG.ident` [39:32] (15). -/
def Fld.keyViolLog_ident : FieldRef := ⟨.keyViolLog, 39, 32⟩
/-- `KEY_VIOL_LOG.period` [31:16] (15). -/
def Fld.keyViolLog_period : FieldRef := ⟨.keyViolLog, 31, 16⟩
/-- `KEY_VIOL_LOG.phase` [15:0] (15). -/
def Fld.keyViolLog_phase : FieldRef := ⟨.keyViolLog, 15, 0⟩
/-- `KEY_VIOL_LAST.address` [63:40] (15). -/
def Fld.keyViolLast_address : FieldRef := ⟨.keyViolLast, 63, 40⟩
/-- `KEY_VIOL_LAST.ident` [39:32] (15). -/
def Fld.keyViolLast_ident : FieldRef := ⟨.keyViolLast, 39, 32⟩
/-- `KEY_VIOL_LAST.period` [31:16] (15). -/
def Fld.keyViolLast_period : FieldRef := ⟨.keyViolLast, 31, 16⟩
/-- `KEY_VIOL_LAST.phase` [15:0] (15). -/
def Fld.keyViolLast_phase : FieldRef := ⟨.keyViolLast, 15, 0⟩
/-- `KEY_VIOL_CNT.count` [31:0] (15). -/
def Fld.keyViolCnt_count : FieldRef := ⟨.keyViolCnt, 31, 0⟩
/-- `KEY_PERM[p].diag` [3:3] (15). -/
def Fld.keyPerm_diag : FieldRef := ⟨.keyPerm, 3, 3⟩
/-- `KEY_PERM[p].fw_update` [2:2] (15). -/
def Fld.keyPerm_fwUpdate : FieldRef := ⟨.keyPerm, 2, 2⟩
/-- `KEY_PERM[p].flash_write` [1:1] (15). -/
def Fld.keyPerm_flashWrite : FieldRef := ⟨.keyPerm, 1, 1⟩
/-- `KEY_PERM[p].model_load` [0:0] (15). -/
def Fld.keyPerm_modelLoad : FieldRef := ⟨.keyPerm, 0, 0⟩
/-- `KEY_PWR_LIM.gust_s` [35:32] (15). -/
def Fld.keyPwrLim_gustS : FieldRef := ⟨.keyPwrLim, 35, 32⟩
/-- `KEY_PWR_LIM.gust_en` [24:24] (15). -/
def Fld.keyPwrLim_gustEn : FieldRef := ⟨.keyPwrLim, 24, 24⟩
/-- `KEY_PWR_LIM.pl1_boot` [23:16] (15). -/
def Fld.keyPwrLim_pl1Boot : FieldRef := ⟨.keyPwrLim, 23, 16⟩
/-- `KEY_PWR_LIM.pl1_max` [15:8] (15). -/
def Fld.keyPwrLim_pl1Max : FieldRef := ⟨.keyPwrLim, 15, 8⟩
/-- `KEY_PWR_LIM.pl1_min` [7:0] (15). -/
def Fld.keyPwrLim_pl1Min : FieldRef := ⟨.keyPwrLim, 7, 0⟩
/-- `KEY_THERM.trip` [31:16] (15). -/
def Fld.keyTherm_trip : FieldRef := ⟨.keyTherm, 31, 16⟩
/-- `KEY_THERM.throttle` [15:0] (15). -/
def Fld.keyTherm_throttle : FieldRef := ⟨.keyTherm, 15, 0⟩
/-- `KEY_SAG.reset` [31:16] (15). -/
def Fld.keySag_reset : FieldRef := ⟨.keySag, 31, 16⟩
/-- `KEY_SAG.warn` [15:0] (15). -/
def Fld.keySag_warn : FieldRef := ⟨.keySag, 15, 0⟩
/-- `KEY_WDOG.timeout` [31:16] (15). -/
def Fld.keyWdog_timeout : FieldRef := ⟨.keyWdog, 31, 16⟩
/-- `KEY_WDOG.left` [15:0] (15). -/
def Fld.keyWdog_left : FieldRef := ⟨.keyWdog, 15, 0⟩
/-- `KEY_FLASH_LIM.erase_pulses` [7:4] (15). -/
def Fld.keyFlashLim_erasePulses : FieldRef := ⟨.keyFlashLim, 7, 4⟩
/-- `KEY_FLASH_LIM.prog_pulses` [3:0] (15). -/
def Fld.keyFlashLim_progPulses : FieldRef := ⟨.keyFlashLim, 3, 0⟩
/-- `KEY_DEBUG.fused_off` [1:1] (15). -/
def Fld.keyDebug_fusedOff : FieldRef := ⟨.keyDebug, 1, 1⟩
/-- `KEY_DEBUG.unlock` [0:0] (15). -/
def Fld.keyDebug_unlock : FieldRef := ⟨.keyDebug, 0, 0⟩
/-- `KEY_SPARE.cells` [55:0] (15). -/
def Fld.keySpare_cells : FieldRef := ⟨.keySpare, 55, 0⟩
/-- `KEY_SPARE_FREE.cells` [55:0] (15). -/
def Fld.keySpareFree_cells : FieldRef := ⟨.keySpareFree, 55, 0⟩
/-- `KEY_FENCED.cells` [55:0] (15). -/
def Fld.keyFenced_cells : FieldRef := ⟨.keyFenced, 55, 0⟩
/-- `KEY_SLOT[i][w].hash` [63:0] (15). -/
def Fld.keySlot_hash : FieldRef := ⟨.keySlot, 63, 0⟩
/-- `KEY_SLOT_REV[i].revoked` [0:0] (15). -/
def Fld.keySlotRev_revoked : FieldRef := ⟨.keySlotRev, 0, 0⟩
/-- `PWR_STATUS.over_limit` [7:7] (15). -/
def Fld.pwrStatus_overLimit : FieldRef := ⟨.pwrStatus, 7, 7⟩
/-- `PWR_STATUS.throttling` [6:6] (15). -/
def Fld.pwrStatus_throttling : FieldRef := ⟨.pwrStatus, 6, 6⟩
/-- `PWR_STATUS.sag_clamp` [5:5] (15). -/
def Fld.pwrStatus_sagClamp : FieldRef := ⟨.pwrStatus, 5, 5⟩
/-- `PWR_STATUS.gust_ok` [4:4] (15). -/
def Fld.pwrStatus_gustOk : FieldRef := ⟨.pwrStatus, 4, 4⟩
/-- `PWR_STATUS.state` [2:0] (15). -/
def Fld.pwrStatus_state : FieldRef := ⟨.pwrStatus, 2, 0⟩
/-- `PWR_PROFILE.clock` [31:24] (15). -/
def Fld.pwrProfile_clock : FieldRef := ⟨.pwrProfile, 31, 24⟩
/-- `PWR_PROFILE.floor` [23:16] (15). -/
def Fld.pwrProfile_floor : FieldRef := ⟨.pwrProfile, 23, 16⟩
/-- `PWR_PROFILE.gust` [8:8] (15). -/
def Fld.pwrProfile_gust : FieldRef := ⟨.pwrProfile, 8, 8⟩
/-- `PWR_PROFILE.pl1` [7:0] (15). -/
def Fld.pwrProfile_pl1 : FieldRef := ⟨.pwrProfile, 7, 0⟩
/-- `PWR_INPUT.aux_mv` [63:48] (15). -/
def Fld.pwrInput_auxMv : FieldRef := ⟨.pwrInput, 63, 48⟩
/-- `PWR_INPUT.main_mv` [47:32] (15). -/
def Fld.pwrInput_mainMv : FieldRef := ⟨.pwrInput, 47, 32⟩
/-- `PWR_INPUT.avg_dw` [31:16] (15). -/
def Fld.pwrInput_avgDw : FieldRef := ⟨.pwrInput, 31, 16⟩
/-- `PWR_INPUT.now_dw` [15:0] (15). -/
def Fld.pwrInput_nowDw : FieldRef := ⟨.pwrInput, 15, 0⟩
/-- `PWR_ENERGY.mj` [63:0] (15). -/
def Fld.pwrEnergy_mj : FieldRef := ⟨.pwrEnergy, 63, 0⟩
/-- `PWR_GUST.bursts` [31:16] (15). -/
def Fld.pwrGust_bursts : FieldRef := ⟨.pwrGust, 31, 16⟩
/-- `PWR_GUST.credit_ms` [15:0] (15). -/
def Fld.pwrGust_creditMs : FieldRef := ⟨.pwrGust, 15, 0⟩
/-- `PWR_THERM.hottest` [31:24] (15). -/
def Fld.pwrTherm_hottest : FieldRef := ⟨.pwrTherm, 31, 24⟩
/-- `PWR_THERM.temp` [15:0] (15). -/
def Fld.pwrTherm_temp : FieldRef := ⟨.pwrTherm, 15, 0⟩
/-- `PWR_THERM_BAD.sensor_bad` [63:0] (15). -/
def Fld.pwrThermBad_sensorBad : FieldRef := ⟨.pwrThermBad, 63, 0⟩
/-- `PWR_TEMP[i].temp` [15:0] (15). -/
def Fld.pwrTemp_temp : FieldRef := ⟨.pwrTemp, 15, 0⟩
/-- `PWR_DOM[j].on` [63:0] (15). -/
def Fld.pwrDom_on : FieldRef := ⟨.pwrDom, 63, 0⟩
/-- `PWR_LULL_DELAY.ms` [15:0] (15). -/
def Fld.pwrLullDelay_ms : FieldRef := ⟨.pwrLullDelay, 15, 0⟩
/-- `PWR_WDOG_FEED.progress` [31:0] (15). -/
def Fld.pwrWdogFeed_progress : FieldRef := ⟨.pwrWdogFeed, 31, 0⟩
/-- `PWR_THROTTLE_CNT.count` [31:0] (15). -/
def Fld.pwrThrottleCnt_count : FieldRef := ⟨.pwrThrottleCnt, 31, 0⟩
/-- `PWR_OVER_CNT.count` [31:0] (15). -/
def Fld.pwrOverCnt_count : FieldRef := ⟨.pwrOverCnt, 31, 0⟩
/-- `PWR_SAG_CNT.count` [31:0] (15). -/
def Fld.pwrSagCnt_count : FieldRef := ⟨.pwrSagCnt, 31, 0⟩
/-- `KEY_BOOT.boot_ms` [63:48] (16). -/
def Fld.keyBoot_bootMs : FieldRef := ⟨.keyBoot, 63, 48⟩
/-- `KEY_BOOT.safe_cause` [47:40] (16). -/
def Fld.keyBoot_safeCause : FieldRef := ⟨.keyBoot, 47, 40⟩
/-- `KEY_BOOT.reset_cause` [39:32] (16). -/
def Fld.keyBoot_resetCause : FieldRef := ⟨.keyBoot, 39, 32⟩
/-- `KEY_BOOT.link_bad` [30:24] (16). -/
def Fld.keyBoot_linkBad : FieldRef := ⟨.keyBoot, 30, 24⟩
/-- `KEY_BOOT.fallback` [15:15] (16). -/
def Fld.keyBoot_fallback : FieldRef := ⟨.keyBoot, 15, 15⟩
/-- `KEY_BOOT.recovery` [14:14] (16). -/
def Fld.keyBoot_recovery : FieldRef := ⟨.keyBoot, 14, 14⟩
/-- `KEY_BOOT.image` [13:12] (16). -/
def Fld.keyBoot_image : FieldRef := ⟨.keyBoot, 13, 12⟩
/-- `KEY_BOOT.stage` [3:0] (16). -/
def Fld.keyBoot_stage : FieldRef := ⟨.keyBoot, 3, 0⟩
/-- `KEY_FW.ver_b` [63:48] (16). -/
def Fld.keyFw_verB : FieldRef := ⟨.keyFw, 63, 48⟩
/-- `KEY_FW.ver_a` [47:32] (16). -/
def Fld.keyFw_verA : FieldRef := ⟨.keyFw, 47, 32⟩
/-- `KEY_FW.min_svn` [31:16] (16). -/
def Fld.keyFw_minSvn : FieldRef := ⟨.keyFw, 31, 16⟩
/-- `KEY_FW.attempts` [9:8] (16). -/
def Fld.keyFw_attempts : FieldRef := ⟨.keyFw, 9, 8⟩
/-- `KEY_FW.active` [0:0] (16). -/
def Fld.keyFw_active : FieldRef := ⟨.keyFw, 0, 0⟩
/-- `KEY_DIE[i].version` [63:32] (16). -/
def Fld.keyDie_version : FieldRef := ⟨.keyDie, 63, 32⟩
/-- `KEY_DIE[i].epoch` [31:0] (16). -/
def Fld.keyDie_epoch : FieldRef := ⟨.keyDie, 31, 0⟩
/-- `KEY_DIE_HELD.held` [5:0] (16). -/
def Fld.keyDieHeld_held : FieldRef := ⟨.keyDieHeld, 5, 0⟩
/-- `KEY_FAULT_LOG.kind` [63:56] (16). -/
def Fld.keyFaultLog_kind : FieldRef := ⟨.keyFaultLog, 63, 56⟩
/-- `KEY_FAULT_LOG.ident` [55:48] (16). -/
def Fld.keyFaultLog_ident : FieldRef := ⟨.keyFaultLog, 55, 48⟩
/-- `KEY_FAULT_LOG.detail` [47:32] (16). -/
def Fld.keyFaultLog_detail : FieldRef := ⟨.keyFaultLog, 47, 32⟩
/-- `KEY_FAULT_LOG.period` [31:16] (16). -/
def Fld.keyFaultLog_period : FieldRef := ⟨.keyFaultLog, 31, 16⟩
/-- `KEY_FAULT_LOG.phase` [15:0] (16). -/
def Fld.keyFaultLog_phase : FieldRef := ⟨.keyFaultLog, 15, 0⟩
/-- `KEY_FAULT_CNT.count` [31:0] (16). -/
def Fld.keyFaultCnt_count : FieldRef := ⟨.keyFaultCnt, 31, 0⟩
/-- `KEY_FORCE_CNT.count` [31:0] (16). -/
def Fld.keyForceCnt_count : FieldRef := ⟨.keyForceCnt, 31, 0⟩
/-- `KEY_FORCE_LOG.kind` [63:56] (16). -/
def Fld.keyForceLog_kind : FieldRef := ⟨.keyForceLog, 63, 56⟩
/-- `KEY_FORCE_LOG.owner` [55:48] (16). -/
def Fld.keyForceLog_owner : FieldRef := ⟨.keyForceLog, 55, 48⟩
/-- `KEY_FORCE_LOG.which` [47:32] (16). -/
def Fld.keyForceLog_which : FieldRef := ⟨.keyForceLog, 47, 32⟩
/-- `KEY_FORCE_LOG.period` [31:16] (16). -/
def Fld.keyForceLog_period : FieldRef := ⟨.keyForceLog, 31, 16⟩
/-- `KEY_FORCE_LOG.phase` [15:0] (16). -/
def Fld.keyForceLog_phase : FieldRef := ⟨.keyForceLog, 15, 0⟩
/-- `KEY_PAUSE.last_us` [63:32] (16). -/
def Fld.keyPause_lastUs : FieldRef := ⟨.keyPause, 63, 32⟩
/-- `KEY_PAUSE.worst_us` [31:0] (16). -/
def Fld.keyPause_worstUs : FieldRef := ⟨.keyPause, 31, 0⟩
/-- `LAT_STATE (cells).target` [63:32] (05). -/
def Fld.latState_target : FieldRef := ⟨.latState, 63, 32⟩
/-- `LAT_STATE (cells).counter` [31:0] (05). -/
def Fld.latState_counter : FieldRef := ⟨.latState, 31, 0⟩
/-- `LAT_STATE (Abutment).target` [63:32] (05). -/
def Fld.latStateAbut_target : FieldRef := ⟨.latStateAbut, 63, 32⟩
/-- `LAT_STATE (Abutment).counter` [31:0] (05). -/
def Fld.latStateAbut_counter : FieldRef := ⟨.latStateAbut, 31, 0⟩

end Sys2Proof.Machine
end

