-- ==== Sys2Proof/Machine/State.lean ====
section
/-!
DEFINITION. The state of the block: plain data, holding everything the spec gives it, with the queue of commands that wait.
Registers stand in `regs` (see `Machine/RegMap.lean`); what the spec names beside registers stands in typed fields.
-/
namespace Sys2Proof.Machine

/-- Reasons a meaning could stop. The spec describes no stop of the block (every error is a flag, a log or a reset), so no meaning
raises one: the type is empty (safe). -/
inductive Fault where
  deriving DecidableEq, Repr

/-- Reasons a command could be refused. -/
inductive Refusal where
  /-- The dispatch arm of a command that has no meaning yet (safe). -/
  | notModelled (mnemonic : String)
  deriving DecidableEq, Repr

/-- A queue entry (R430, R434, R436): its packet without padding; `share` is the slot and generation whose item share it holds
(R307); `lines` is the reply space it holds (R394); `refusal` marks a refusal receipt (R394); `signalled` that it has been readable
once (R444). -/
structure Entry where
  seq     : Nat
  prio    : Nat
  bytes   : List Byte
  share   : Option (Nat × Nat)
  lines   : Nat
  refusal : Bool
  signalled : Bool
  deriving DecidableEq, Repr

/-- A reply or item queue (R432, R436, R443, R444): head slots, the entries outside the head in arrival order, the time of the last
signal in ns, and whether a coalescing window is open. -/
structure Queue where
  seq     : Nat := 0
  head    : List (Nat × Entry) := []
  outside : List Entry := []
  lastSig : Option Nat := none
  coal    : Bool := false
  deriving DecidableEq, Repr

/-- A taken command packet with its receipt time (R388, R398). `lines` is the reply space it holds (R394). -/
structure CmdEntry where
  pkt   : Packet
  stamp : Nat
  prio  : Nat
  lines : Nat
  deriving DecidableEq, Repr

/-- Whom a command's replies go to (R397, R399): port, tag, queue priority, and the lines its FINAL reply has reserved (R394); `time` is its receipt time in phase units. -/
structure Caller where
  port  : Nat := 0
  tag   : Nat := 0
  prio  : Nat := 1
  lines : Nat := 0
  time  : Nat := 0
  deriving DecidableEq, Repr

/-- Errors reported through AER (R501). -/
inductive AerError where
  | poisonedTlp | completionTimeout | correctedInternal | uncorrectableInternal
  deriving DecidableEq, Repr

/-- What configuration space says of a port's function (R377). -/
structure PcieId where
  vendor    : Nat
  subVendor : Nat
  cls       : Nat
  device    : Nat
  subsystem : Nat
  revision  : Nat
  deriving DecidableEq, Repr

/-- A host port beside its registers (R377 to R416, R381). -/
structure HostPort where
  d3        : Bool := false
  crs       : Bool := true
  crsAnswer : Bool := false
  idAnswer  : Option PcieId := none
  lastTail  : Nat := 0
  win       : SMap Byte := []
  cmdQ      : List CmdEntry := []
  serving   : List CmdEntry := []
  reserved  : Nat := 0
  queues    : SMap Queue := []
  msixMask  : Word := BitVec.ofNat 64 (2 ^ 64 - 1)
  msixPba   : Word := 0
  msixTable : SMap Word := []
  msixSent  : List Nat := []
  readData  : Word := 0
  cadLatch  : Option Nat := none
  aer       : List AerError := []
  deriving DecidableEq, Repr

/-- A mailbox (R418 to R426): message bytes, outcome and sender of the last one, the cadence time (`CAD_NOW`) at which its lock was
taken, and whether the sender has gone down since (R422). -/
structure Mailbox where
  full    : Bool := false
  msg     : List Byte := []
  outcome : Nat := 0
  sender  : Nat := 0
  since   : Nat := 0
  orphan  : Bool := false
  deriving DecidableEq, Repr

/-- A management answer that waits for the mailbox of its port, and the cadence time since which it does (R428). -/
structure Owed where
  port    : Nat
  payload : List Byte
  since   : Nat
  deriving DecidableEq, Repr

/-- The mailbox system: boxes, staging buffers by (identity × 32 + mailbox), doorbells, taken bits and protocol errors of internal
parties by identity, and management answers still to send. -/
structure MbxSys where
  boxes    : SMap Mailbox := []
  staging  : SMap (List Byte) := []
  intDb    : SMap Nat := []
  intTaken : SMap Nat := []
  intPerr  : SMap Nat := []
  owed     : List Owed := []
  deriving DecidableEq, Repr

/-- The numbers of an image header (R227). -/
structure ImageHdr where
  flags       : Nat
  roles       : Nat
  layers      : Nat
  imageBytes  : Nat
  modelId     : Nat
  generation  : Nat
  vocab       : Nat
  maxPos      : Nat
  kvHeads     : Nat
  headDim     : Nat
  kvFmt       : Nat
  kvBytesPos  : Nat
  t1Bytes     : Nat
  t2StepBytes : Nat
  opsToken    : Nat
  deriving DecidableEq, Repr, Inhabited

/-- A model copy of a span (R232 to R247): its image, header and tokenizer, the objects of its directory (R227), those of them that the image
homes in T2, its number in the pool index (R320), its pair rate in quarters, and its rope table (R336). -/
structure ModelCopy where
  image  : Nat
  hdr    : ImageHdr
  tok    : Tokenizer
  tokSum : Nat
  objs   : List Nat
  t2     : List Nat := []
  copyNo : Nat
  pair4  : Nat
  rope   : Option Nat
  deriving DecidableEq, Repr

/-- A KV pool object: its directory object, its frames and those in use (R320). -/
structure PoolObj where
  obj   : Nat := 0
  total : Nat := 0
  used  : List Nat := []
  deriving DecidableEq, Repr

/-- A span record of the span map (R18, R406), with the cell of every role (R233). -/
structure SpanRec where
  on     : Bool := false
  cells  : Nat := 0
  dram   : Nat := 0
  flash  : Nat := 0
  kv     : Nat := 0
  latch0 : Nat := 0
  latchN : Nat := 0
  chunk  : Nat := 256
  draft  : Option Nat := none
  bits   : Nat := 8
  roles  : List Nat := []
  deriving DecidableEq, Repr

/-- One row-table entry (R332). -/
structure RowEntry where
  seg    : Nat
  slot   : Nat
  pos    : Nat
  first  : Bool
  verify : Bool
  sample : Bool
  token  : Nat
  deriving DecidableEq, Repr

/-- A group of rows of a step (R265): its first row, its rows, and the shape code of R85. -/
structure RowGroup where
  first : Nat
  rows  : Nat
  shape : Nat
  deriving DecidableEq, Repr

/-- A run of rows of a group that one adapter version serves (R360, R361): the group, the first row within it, the rows, index and version (version
0: none), and the shape. -/
structure AdapterRun where
  group : Nat
  first : Nat
  rows  : Nat
  index : Nat
  ver   : Nat
  shape : Nat
  deriving DecidableEq, Repr

/-- What the step programme issues for one run of a projection in the cell of a role (R361, R362): the last base instruction, the copy-back of its
scaled sums where there is one, and the down and up products. -/
structure AdapterInsts where
  role   : Nat
  layer  : Nat
  target : Nat
  run    : AdapterRun
  base   : BitVec 256
  copy   : Option (BitVec 512)
  down   : BitVec 256
  up     : BitVec 256
  deriving DecidableEq, Repr

/-- A running step: its rows, their groups, what its adapters add to the step programme, whether it runs the old copy's batch, and the objects it
pins (R163). -/
structure Batch where
  rows  : List RowEntry
  groups : List RowGroup
  adapted : List AdapterInsts
  chunk : Nat
  seqs  : Nat
  old   : Bool
  start : Nat
  pins  : List Nat
  deriving DecidableEq, Repr

/-- A request ended from outside at the next boundary (R248, R183, R204): slot, reason, status. -/
structure Forced where
  slot   : Nat
  reason : Nat
  status : Nat
  deriving DecidableEq, Repr

/-- A span at run time. `faults` are cells that wait for a remap (R494: cell, whole-cell fence); `capLoss` marks a capacity loss
whose shedding is due (R311); `unload` names the unload operation and its FORCE; `repeated` a step to run again (R496). -/
structure Span where
  cfg      : SpanRec := {}
  cur      : Option ModelCopy := none
  old      : Option ModelCopy := none
  building : Option ModelCopy := none
  dual     : Bool := false
  loading  : Bool := false
  unload   : Option (Nat × Bool) := none
  batch    : Option Batch := none
  turnOld  : Bool := false
  forced   : List Forced := []
  faults   : List (Nat × Bool) := []
  capLoss  : Bool := false
  wcSet    : List (Nat × Nat) := []
  again    : Bool := false
  admitStop : Bool := false
  paused   : Bool := false
  pools    : SMap PoolObj := []
  appended : List (Nat × Nat) := []
  swapPort : Option Nat := none
  lost     : Bool := false
  deriving DecidableEq, Repr

/-- The fields a REQ_CREATE supplies and the slot keeps (R253). -/
structure Params where
  cls       : Nat := 0
  flags     : Nat := 0
  adapter   : Nat := 0xFFFF
  maskObj   : Nat := 0
  draftLen  : Nat := 0
  repWindow : Nat := 0
  temp      : F32 := 0
  topP      : F32 := 0
  minP      : F32 := 0
  repPen    : F32 := 0
  topK      : Nat := 0
  minNew    : Nat := 0
  seed      : Nat := 0
  maxNew    : Nat := 0
  stop      : List Nat := []
  kvBudget  : Nat := 0
  bounds    : Nat := 0
  admWait   : Nat := 0
  parkLimit : Nat := 0
  deriving DecidableEq, Repr

/-- A request before admission (R254): state 0 TOKENIZING, 1 PENDING; `pendAt` is the cadence time at which it became
PENDING, `why` the status that its waiting would end with (R286). -/
structure Req where
  who     : Caller
  st      : Nat
  span    : Nat
  modelId : Nat
  par     : Params
  prompt  : List Byte
  kind    : Nat
  ended   : Bool
  tokens  : List Nat
  fffd    : Bool
  stamp   : Nat
  pendAt  : Nat
  why     : Nat
  deriving DecidableEq, Repr

/-- An item before its enqueue (R440, R301): kind, text, the step's tokens, the index of the first of them, and when it was produced. -/
structure HeldItem where
  kind   : Nat
  text   : List Byte
  tokens : List Nat
  first  : Nat
  made   : Nat
  deriving DecidableEq, Repr

/-- The staged prompt of a later turn of a PARKED request (R404, R531). -/
structure Turn where
  who    : Caller
  prompt : List Byte
  kind   : Nat
  maxNew : Nat
  stamp  : Nat
  ended  : Bool
  ready  : Bool
  tokens : List Nat
  deriving DecidableEq, Repr

/-- A context slot (R253) with what the serving engine keeps for its request: the token history, the prompt tokens still to
process, the admission order, the item queue (R439), held bytes of an unfinished UTF-8 sequence (R26), held PACED items, the objects (+ 1) of its T3 pages
and page table, whether its final item is still owed at the next boundary, whether a cancel makes it ENDING there (R279), the mask state that its sampling cell has reached, whether the turn's prefill has begun,
and the cadence time at which it parked. -/
structure Slot where
  st        : Nat := 0
  ident     : Nat := 0
  span      : Nat := 0
  par       : Params := {}
  tag       : Nat := 0
  gen       : Nat := 0
  xflags    : Nat := 0
  modelGen  : Nat := 0
  old       : Bool := false
  adVer     : Nat := 0
  maskState : Nat := 0
  maskNow   : Nat := 0
  endReason : Nat := 0
  endStatus : Nat := 0
  promptLen : Nat := 0
  positions : Nat := 0
  generated : Nat := 0
  pageRoot  : Nat := 0
  tReceipt  : Nat := 0
  tAdmit    : Nat := 0
  tLast     : Nat := 0
  ttft      : Nat := 0
  tbtMax    : Nat := 0
  tbtOver   : Nat := 0
  hist      : List Nat := [0, 0, 0, 0, 0, 0, 0, 0]
  itemsSent : Nat := 0
  itemsDrop : Nat := 0
  nanCount  : Nat := 0
  draftProp : Nat := 0
  draftAcc  : Nat := 0
  turnGen   : Nat := 0
  hTokens   : List Nat := []
  todo      : List Nat := []
  order     : Nat := 0
  queue     : Nat := 0
  utf8      : List Byte := []
  held      : List HeldItem := []
  released  : Bool := false
  gotItem   : Bool := false
  relAt     : Nat := 0
  turn      : Option Turn := none
  parkedAt  : Nat := 0
  t3        : Bool := false
  pageObj   : Nat := 0
  tabObj    : Nat := 0
  finalDue  : Bool := false
  endDue    : Bool := false
  begun     : Bool := false
  deriving DecidableEq, Repr

/-- A page-table entry with its scores (R324, R325). -/
structure Pte where
  st       : Nat
  tier     : Nat
  coded    : Bool
  pool     : Nat
  frame    : Nat
  firstPos : Nat
  fill     : Nat
  score    : F32
  a0       : F32
  a1       : F32
  deriving DecidableEq, Repr

/-- A layer block of a page table (R324). -/
structure LayerBlock where
  entries  : List Pte := []
  evictPos : Nat := 0
  nextPos  : Nat := 0
  deriving DecidableEq, Repr

/-- One look-aside line tag (R328), most recently used first within its set. -/
structure LabLine where
  slot  : Nat
  gen   : Nat
  layer : Nat
  line  : Nat
  deriving DecidableEq, Repr


/-- One version of an adapter index (R364, R367): role 0 current, 1 staged, 2 retiring. -/
structure AdVer where
  ver    : Nat
  role   : Nat
  objs   : List Nat
  loaded : Bool
  port   : Nat
  deriving DecidableEq, Repr

/-- An adapter index (R366): 0 EMPTY, 1 LOADING, 2 READY, 3 DROPPING; its versions, the last version number, the operation that changes it,
whether only the old copy keeps it (R369), and what its pack says of itself (R357). -/
structure AdIndex where
  st      : Nat := 0
  vers    : List AdVer := []
  last    : Nat := 0
  op      : Option Nat := none
  oldOnly : Bool := false
  rank    : Nat := 0
  targets : Nat := 0
  model   : Nat := 0
  layers  : Nat := 0
  aFmt    : Nat := 0
  bFmt    : Nat := 0
  deriving DecidableEq, Repr

/-- A directory entry (R158). -/
structure DirEntry where
  st       : Nat := 0
  home     : Nat := 0
  dest     : Nat := 0
  window   : Bool := false
  fmt      : Nat := 0
  mx       : Bool := false
  gust     : Nat := 0
  grant    : Nat := 0
  owner    : Nat := 0
  pins     : Nat := 0
  defer    : Bool := false
  originEn : Bool := false
  ro       : Bool := false
  addr     : Nat := 0
  tiles    : Nat := 0
  parent   : Option Nat := none
  image    : Nat := 0
  originTile : Nat := 0
  deriving DecidableEq, Repr

/-- A command that waits on an object: its caller, and for a place the target tier and column. -/
structure HeldCmd where
  who   : Caller
  tier  : Nat
  col   : Nat
  force : Bool
  deriving DecidableEq, Repr

/-- A write held by the tier engine while its object moves (R165), with its place in issue order and its poisoned lines. -/
structure HeldWrite where
  order  : Nat
  off    : Nat
  bytes  : List Byte
  poison : List Nat
  deriving DecidableEq, Repr

/-- An object with what the tier engine holds for it (R164, R165, R174, R176): destination address, whether its move has a slot of the
issued-move pool (R142), the tiles whose legs it has issued and those that have arrived, the command whose FINAL the
move's end gives, held place and revoke, whether it is to be freed once its pins are 0, held writes, the registered buffer's bus address + 1, the tier of a deferred eviction, the load that brings
it (its operation + 1), for an adapter factor the pack object and byte offset it comes from, and the role whose cell it serves. -/
structure Obj where
  e        : DirEntry := {}
  destAddr : Nat := 0
  slot     : Bool := false
  sent     : Nat := 0
  got      : Nat := 0
  dying    : Bool := false
  placing  : Option HeldCmd := none
  place    : Option HeldCmd := none
  revoke   : Option HeldCmd := none
  revoking : Option HeldCmd := none
  writes   : List HeldWrite := []
  buffer   : Nat := 0
  deferTo  : Nat := 0
  load     : Nat := 0
  pack     : Option (Nat × Nat) := none
  role     : Option Nat := none
  deriving DecidableEq, Repr

/-- A handle as an instruction or a move resolved it (R106, R109). -/
structure View where
  mem     : Nat
  fmt     : Nat
  mx      : Bool
  gust    : Nat
  rmode   : Nat
  wp      : Bool
  base    : Nat
  size    : Nat
  cnt0    : Nat
  stride0 : Nat
  stride1 : Nat
  deriving DecidableEq, Repr, Inhabited

/-- A tile move in flight (R133, R140): the identity of its issuer, the descriptor, its endpoints as resolved (cell and view; none for an
object), the view of its record, whether it waits on its latch, fetch legs still out, tiles or lines written, exceptions counted, whether a
source line was poisoned, whether a leg failed, and the status that it takes once its held writes are applied (R165). -/
structure Move where
  id      : Nat
  who     : Nat
  desc    : BitVec 512
  src     : Option (Nat × View)
  dst     : Option (Nat × View)
  recH    : Option View
  waiting : Bool
  legs    : Nat
  done    : Nat
  fmtExc  : Nat
  codErr  : Nat
  poison  : Bool
  failed  : Bool
  held    : Option Nat
  deriving DecidableEq, Repr

/-- Data in the weight landing buffer (R116): their place, the keys of the lines they poison, and whether that is reported (R182). -/
structure Landed where
  view   : View
  off    : Nat
  bytes  : List Byte
  poison : List Nat
  told   : Bool
  deriving DecidableEq, Repr

/-- A MOVE that waits for room (R141): the handle as resolved, the line of its next descriptor, the descriptors still to issue, and the
errors its reads meet. -/
structure Stall where
  view : View
  line : Nat
  left : Nat
  errs : ReadErrs
  deriving DecidableEq, Repr

/-- A fetch leg of a move (R168): its move by engine (a cell, 56 for the tier engine's issued moves, 57 for object moves, 58 for the KV
walkers, 59 for the relay) and number, its object and tile, whether it writes there, the tier and port that serve it, the flash pages still to be
read for it, and whether one of them was uncorrectable (R203). -/
structure Leg where
  id   : Nat
  engine : Nat
  move : Nat
  obj  : Nat
  tile : Nat
  write : Bool
  tier : Nat
  port : Nat
  rest : Nat
  bad  : Bool
  deriving DecidableEq, Repr

/-- What the preparation of a matrix instruction fixed (R89, R109): its handles as resolved, whether it appends (R338), and the bytes that its
weight, activation and scale operands held from then on (R75). -/
structure Prep where
  vw   : View
  va   : View
  vp   : View
  vo   : View
  vs   : View
  app  : Bool
  wOld : List Nat
  aOld : List Nat
  sOld : List Nat
  deriving DecidableEq, Repr

/-- An issued matrix instruction (R85): its number within the cell, its address, the errors its reads meet, whether it still waits on its
latch, and its preparation once it has been prepared (R89). -/
structure MatrixJob where
  id      : Nat
  w       : Inst256
  pc      : Word
  errs    : ReadErrs
  waiting : Bool
  prep    : Option Prep
  deriving DecidableEq, Repr

/-- A step programme as it is installed in a cell (R495): its model, the role it runs, and its bytes with the latch numbers relocated. -/
structure Programme where
  modelId    : Nat
  generation : Nat
  role       : Nat
  bytes      : List Byte
  deriving DecidableEq, Repr

/-- Who waits for a latch (R148): a sequencer, one of a cell's matrix instructions, or a tile move by its number. -/
inductive WaitFor where
  | seq
  | job (id : Nat)
  | move (id : Nat)
  deriving DecidableEq, Repr

/-- What became of a remote wait's registration (R148). -/
inductive WaitSt where
  | registered | refused | notified
  deriving DecidableEq, Repr

/-- A wait on a latch whose home lies elsewhere (R148). -/
structure RemoteWait where
  latch : Nat
  by_   : WaitFor
  st    : WaitSt
  deriving DecidableEq, Repr

/-- A cell beside its registers. `mem` is keyed by memory × 2^24 + byte, the memory coded as in `HND_LO.mem` 0, 1, 4, 5 with both
weight halves in 1; `poison` lists keys of 64-byte lines; `hiStage` the staged `HND_HI` words; `loops` the open counted loops by start
offset; `stream` the resolved stream; `jobs` the issued matrix instructions in order, the next of which takes the number `nextJob`; `dual` the
first instruction of a dual pair with its address and errors; `waitL` the latch that the sequencer waits on, and `sideMet`
whether it does so for a side-path instruction, whose wait is then met or not; `waits` the cell's remote waits (R148);
`stopReq` a stop that waits for the instruction boundary (R76); `stall` a MOVE that waits for room (R141); `landing` the weight landing
buffer (R116); `reported` lines that a move with status 0x02 poisoned (R182); `role` the role the cell runs (R233) and `progs`
the step programmes installed for it, one for each model copy (R495); `clock` a cell clock that the array keeps until its next
matrix-instruction boundary, in units of 10 MHz (R102). -/
structure Cell where
  mem     : SMap Byte := []
  poison  : List Nat := []
  rng     : BitVec 32 := 0x9E3779B9
  hiStage : SMap (Option Word) := []
  loops   : List (Nat × Nat) := []
  stream  : Option View := none
  jobs    : List MatrixJob := []
  nextJob : Nat := 0
  dual    : Option (Inst256 × Word × ReadErrs) := none
  waitL   : Option Nat := none
  sideMet : Option Bool := none
  waits   : List RemoteWait := []
  stopReq : Bool := false
  stall   : Option Stall := none
  moves   : List Move := []
  landing : List Landed := []
  reported : List Nat := []
  role    : Option Nat := none
  progs   : List Programme := []
  clock   : Option Nat := none
  deriving DecidableEq, Repr

/-- A tile move of a KV walker (R342): its span, the slot, layer, page and piece it brings, the cell it delivers to with the resolved
handle and the byte offset there, the latch that it raises, whether the fetch leg of a T3 page is still out or has failed, and whether
steward firmware issued it early, with a slot of its own pool (R169, R142). -/
structure PieceMove where
  id       : Nat
  span     : Nat
  slot     : Nat
  layer    : Nat
  firstPos : Nat
  piece    : Nat
  cell     : Nat
  view     : View
  off      : Nat
  latch    : Nat
  leg      : Bool
  lost     : Bool
  early    : Bool
  deriving DecidableEq, Repr

/-- A piece that a walker holds because its cell has 256 moves in flight (R140), or that waits for a slot (R142): what its move will carry,
before its handle is resolved. -/
structure HeldPiece where
  span     : Nat
  slot     : Nat
  layer    : Nat
  firstPos : Nat
  piece    : Nat
  cell     : Nat
  handle   : Nat
  off      : Nat
  latch    : Nat
  early    : Bool
  deriving DecidableEq, Repr

/-- A page sum that an attention cell has sent for one step row and query head (R343). -/
structure HeadMass where
  row      : Nat
  layer    : Nat
  firstPos : Nat
  kvHead   : Nat
  qHead    : Nat
  mass     : F32
  deriving DecidableEq, Repr

/-- The mass of one step row on one page (R343). -/
structure RowMass where
  row      : Nat
  layer    : Nat
  firstPos : Nat
  mass     : F32
  deriving DecidableEq, Repr

/-- The KV walkers: page tables by (slot × 1024 + layer), look-aside buffers by span, outstanding misses by span, their moves in flight and
held (R140, R342), and the page sums held for the running step by span (R343, R344). -/
structure Kv where
  blocks : SMap LayerBlock := []
  lab    : SMap (List LabLine) := []
  misses : SMap (List LabLine) := []
  pieces : List PieceMove := []
  held   : List HeldPiece := []
  masses : SMap (List HeadMass) := []
  deriving DecidableEq, Repr

/-- The tier engine and the DRAM (06). `moves` are the moves that steward firmware and the step sequencers issued, `pushes` the descriptors that
wait for a slot of their pool with their issuers (R142), `waits` its remote waits (R148), `copies` the channel copies that run (stack, slot),
`ueAt` T1 lines that were uncorrectable, and whether each has been rewritten since (R184). `ceWin` holds the periods of recent corrected errors by channel (R184);
`spareBad` names the stacks whose spare channel failed its training. -/
structure Tier where
  objs    : SMap Obj := []
  fresh   : Nat := 0
  freed   : List Nat := []
  legs    : List Leg := []
  legWait : List Leg := []
  nextMove : Nat := 0
  nextLeg : Nat := 0
  moves   : List Move := []
  pushes  : List (Nat × BitVec 512) := []
  waits   : List RemoteWait := []
  dram    : SMap Byte := []
  poison  : List Nat := []
  retired : List Nat := []
  copies  : List (Nat × Nat) := []
  ceWin   : SMap (List Nat) := []
  ueAt    : List (Nat × Bool) := []
  patrol  : SMap Nat := []
  spareBad : List Nat := []
  host    : SMap Byte := []
  deriving DecidableEq, Repr

/-- Plane states of R208. -/
inductive PlaneSt where
  | idle | programming | progSuspended | erasing | eraseSuspended | eraseSuspProg
  deriving DecidableEq, Repr

/-- A plane: its state, the operations it runs (by operation id: program, erase), queued reads (two at most, R206), queued programs
and erases, and the pulses of the program and the segments of the erase applied so far (R200, R210). -/
structure Plane where
  st     : PlaneSt := .idle
  prog   : Option Nat := none
  ers    : Option Nat := none
  reads  : List Nat := []
  waitR  : List Nat := []
  waitP  : List Nat := []
  waitE  : List Nat := []
  pulses : Nat := 0
  segs   : Nat := 0
  deriving DecidableEq, Repr

/-- A physical block: the next page in program order, whether it can be programmed without another erase, its page reads, and whether its
read refresh has been called for (R214). -/
structure Block where
  next   : Nat := 0
  erased : Bool := true
  reads  : Nat := 0
  due    : Bool := false
  deriving DecidableEq, Repr

/-- A flash operation in the controller (R196): id, writer, descriptor, planes not yet done, status so far, first failed plane; `job`
is the long operation it serves, `leg` the fetch leg; `opened` that its journal record stands; `fails` the planes whose part failed;
`page` and `target` are the page that a RELOCATE has reached and its new block. -/
structure FlashOp where
  id     : Nat
  writer : Nat
  w      : Inst256
  left   : List Nat
  status : Nat
  badPl  : Nat
  job    : Option Nat
  leg    : Option Nat
  opened : Bool
  fails  : List Nat := []
  page   : Nat
  target : Nat
  deriving DecidableEq, Repr

/-- A journal record (R217), with the sector in which it stands (0 to 2 for 13 to 15). -/
structure JRec where
  type   : Nat
  row    : Nat
  page   : Nat
  seq    : Nat
  planes : Nat
  sec    : Nat := 0
  deriving DecidableEq, Repr

/-- A journal record that waits while sag_hold is set (R222): die, type, row, page, planes. -/
structure HeldRec where
  die    : Nat
  type   : Nat
  row    : Nat
  page   : Nat
  planes : Nat
  deriving DecidableEq, Repr

/-- A grown-bad-block entry (R212): cause 0 factory, 1 program, 2 erase, 3 read. -/
structure BadBlock where
  die    : Nat
  plane  : Nat
  phys   : Nat
  cause  : Nat
  period : Nat
  deriving DecidableEq, Repr

/-- A library entry (R230). -/
structure LibEntry where
  st     : Nat := 0
  first  : Nat := 0
  units  : Nat := 0
  bytes  : Nat := 0
  model  : Nat := 0
  gen    : Nat := 0
  seq    : Nat := 0
  period : Nat := 0
  digest : Nat := 0
  deriving DecidableEq, Repr

/-- A copy of a die's table in sectors 9 and 10 (R190, R192, R212): its generation, the grown bad blocks, the block map, the free reserves, whether
it is scanned (R211), the units retired (R201) and the read counts (R214). -/
structure TableCopy where
  gen     : Nat := 0
  bad     : List BadBlock := []
  map     : SMap Nat := []
  spare   : SMap (Option (List Nat)) := []
  scanned : Bool := false
  retired : List Nat := []
  reads   : SMap Nat := []
  deriving DecidableEq, Repr

/-- A copy of the library directory in sectors 11 and 12 (R192, R230): its generation, its entries and the count of image writes. -/
structure DirCopy where
  gen  : Nat := 0
  lib  : SMap LibEntry := []
  seq  : Nat := 0
  deriving DecidableEq, Repr

/-- A completion that waits in `FLC_DONE` (R199), with the long operation that takes it and its status. -/
structure Completion where
  word : Word
  job  : Option (Nat × Nat) := none
  deriving DecidableEq, Repr

/-- The weight flash and its controller (07). `data` holds main-array page bytes by physical place, `spareAt` what the spare bytes of a programmed
page come from (R187); `param` the data bytes of the parameter units by (die × 16 + sector) × 122,880 + unit × 120 + byte. `tabs` and `dirs` are the
alternating copies of the tables and the directory by die × 2 + copy (R192; none once other bytes stand there); `bad`, `map`, `spare`, `scanned`,
`retired`, `lib` and `writeSeq` what the controller and steward firmware hold of them. `map` holds remapped logical blocks as physical
block + 1, `spare` the free reserve of a plane once it has changed, `jobDone` events that end a load; `needs` the blocks of rows marked
needs_erase (die, row, plane). `tabDue`, `dirDue`, `parDue`, `recDue` and `jErase` are what sag_hold holds back: table and directory writes,
parameter bytes (R222), journal records, and the erase of a die's oldest journal sector (R219); `shipped` the firmware images that no operation
has rewritten (log entry 12). -/
structure Flash where
  planes  : SMap Plane := []
  blocks  : SMap Block := []
  map     : SMap Nat := []
  spare   : SMap (Option (List Nat)) := []
  marks   : List (Nat × Nat × Nat) := []
  bad     : List BadBlock := []
  scanned : List Nat := []
  retired : List Nat := []
  data    : SMap Byte := []
  param   : SMap Byte := []
  ops     : List FlashOp := []
  nextId  : Nat := 0
  done    : List Completion := []
  jobDone : List (Nat × Nat) := []
  clkTo   : Option (Nat × Nat) := none
  journal0 : List JRec := []
  journal1 : List JRec := []
  jpos    : SMap Nat := []
  needs   : List (Nat × Nat × Nat) := []
  lib     : SMap LibEntry := []
  writeSeq : Nat := 0
  spareAt : SMap Nat := []
  tabs    : SMap (Option TableCopy) := []
  dirs    : SMap (Option DirCopy) := []
  tabDue  : List Nat := []
  dirDue  : Bool := false
  parDue  : List (Nat × List Byte) := []
  recDue  : List HeldRec := []
  jErase  : List Nat := []
  shipped : List Nat := [0, 1]
  deriving DecidableEq, Repr

/-- What a flash job does (R225, R213). -/
inductive FlashKind where
  | write | erase | rebuild | read
  deriving DecidableEq, Repr

/-- A flash job of a long operation: library image, its units, the source or destination object, bytes, phase 0 erase, 1 program, 2 read
back, the item it stands at within its phase, RESUME, the die of a REBUILD, and the flash address of a read. -/
structure FlashJob where
  kind   : FlashKind
  image  : Nat
  first  : Nat
  units  : Nat
  src    : Nat
  bytes  : Nat
  phase  : Nat
  at_    : Nat
  resume : Bool
  die    : Nat
  addr   : Nat
  deriving DecidableEq, Repr

/-- The header line of a relay packet (R236): the role, the directory object number, the tile index and the load's operation handle. -/
structure RelayHdr where
  role   : Nat
  obj    : Nat
  tile   : Nat
  handle : Nat
  deriving DecidableEq, Repr

/-- A load or swap (R234 to R240): image, whether it is a swap, packets that the tier engine still has to send, 64 KiB legs not yet issued as
(object, piece), its objects, whether the relay is complete, the packets that stand in the relay buffer of each chain cell by role (R239), and
the count of its latch (R240). -/
structure LoadJob where
  image : Nat
  swap  : Bool
  todo  : List RelayHdr
  legs  : List (Nat × Nat)
  objs  : List Nat
  ready : Bool
  hops  : SMap (List RelayHdr) := []
  latch : Nat := 0
  deriving DecidableEq, Repr

/-- The statistics of one row and query head of a forward pass (R355): the row maximum of the scaled scores, and the log-sum-exp. -/
structure RowStat where
  layer : Nat
  head  : Nat
  row   : Nat
  m     : F32
  l     : F32
  deriving DecidableEq, Repr

/-- A training job (R370 to R374): its parameters, the version it started from, the dataset's record count, steps done, updates made, epoch and
record cursor, non-finite steps in a row, counts of skipped records and updates, the factors that differ from their first values, the
optimiser state, the statistics object of the last forward pass (R355), and whether its last step before a suspension still runs. -/
structure TrainJob where
  init     : Nat
  rank     : Nat
  targets  : Nat
  dataset  : Nat
  lr       : F32
  beta1    : F32
  beta2    : F32
  eps      : F32
  wd       : F32
  clip     : F32
  batch    : Nat
  steps    : Nat
  ckpt     : Nat
  every    : Nat
  seed     : Nat
  insSpan  : Nat
  insIdx   : Nat
  done     : Nat
  t        : Nat
  epoch    : Nat
  cursor   : Nat
  bad      : Nat
  skipRec  : Nat
  skipUpd  : Nat
  w        : SMap F32
  m        : SMap F32
  v        : SMap F32
  initVer  : Nat
  records  : Nat
  stats    : List RowStat := []
  finishing : Bool
  deriving DecidableEq, Repr

/-- A firmware update (R492): source object, bytes, the image written, and the step it stands at: 0 erase, 1 payload, 2 header, 3 read back,
4 activation. -/
structure FwJob where
  src    : Nat
  bytes  : Nat
  image  : Nat
  phase  : Nat
  deriving DecidableEq, Repr

/-- What a long operation does. -/
inductive Job where
  | none
  | load (j : LoadJob)
  | unload (force : Bool)
  | adapter (index ver : Nat) (replace : Bool)
  | drop (index : Nat)
  | flash (j : FlashJob)
  | train (j : TrainJob)
  | fw (j : FwJob)
  deriving DecidableEq, Repr

/-- A long-operation table entry (R405, R411). `st`: 0 RUNNING, 1 SUSPENDED, 2 ENDING, 3 ended with 0x00; `live` marks an entry in use; `abort` is the
OP_ABORT that waits for its end. -/
structure Op where
  live   : Bool := false
  gen    : Nat := 0
  opcode : Nat := 0
  st     : Nat := 0
  who    : Caller := {}
  orphan : Bool := false
  span   : Nat := 0xFF
  done   : Nat := 0
  total  : Nat := 0
  start  : Nat := 0
  job    : Job := .none
  abort  : Option Caller := none
  deriving DecidableEq, Repr

/-- A commit that waits for its boundaries (R285). -/
structure Commit where
  recs   : List (Nat × SpanRec)
  spans  : List Nat
  drained : List Nat
  paused : List Nat
  force  : Bool
  deriving DecidableEq, Repr

/-- The cadence unit beside its registers (R287 to R300), times in ns: the last boundary, the last edge of each source (+ 1), the last
inserted boundary (+ 1), accepted intervals, agreeing intervals of each source, the candidate's place in the order, periods spent in
ACQUIRE and HOLDOVER, the shift that alignment still owes (positive lengthens), a failed PTM source, a CADENCE_SET that waits for its
boundary, and a period to adopt after so many boundaries. -/
structure Cadence where
  last      : Nat := 0
  edges     : SMap Nat := []
  inserted  : Nat := 0
  ivals     : List Nat := []
  agree     : SMap (List Nat) := []
  cand      : Nat := 0
  tries     : Nat := 0
  held      : Nat := 0
  align     : Int := 0
  ptmFailed : Bool := false
  setTo     : Option (Nat × Nat × Nat) := none
  adopt     : Option (Nat × Nat) := none
  deriving DecidableEq, Repr

/-- Power management beside its registers (15): accepted and latest sensor readings in 1/16 °C and the run of plausible readings of an
excluded sensor (R459), the last counted progress value of the watchdog and the time it was last armed or fed (R471, R491), a profile that
waits for its boundary as PL1 in W, the sag clamp as admission sees it and whether it ends at the next boundary (R463), the thermal clamp
(R460), throttle steps since the clock last changed, the open seat contact and the hold-up bank (R509, R512), what the energy count in µJ and
the GUST credit in 1/600 ms hold beyond their registers' units, and the time at which the module was last busy, from which the delay of LULL
counts (R450, R451). -/
structure Power where
  accepted : SMap (Option Int) := []
  latest   : SMap Int := []
  streak   : SMap Nat := []
  fed      : Option Nat := none
  wdogAt   : Option Nat := none
  plPend   : Option Nat := none
  limPend  : Bool := false
  clamp    : Bool := false
  tclamp   : Bool := false
  coolSteps : Nat := 0
  seatOpen : Bool := false
  bankOk   : Bool := true
  energyUj : Nat := 0
  credFrac : Nat := 0
  busyAt   : Nat := 0
  deriving DecidableEq, Repr

/-- Keystone data and the fuses (R467, R469, R482): what survives every reset, with the reset in progress (R476). `faulted` lists cells
of spans that wait for a spare, with the time of their faults, in the order of R32; `version` is the running firmware's (R407). -/
structure Keystone where
  active   : Nat := 0
  attempts : Nat := 0
  version  : Nat := 0
  minSvn   : Nat := 0
  wdogLast : Bool := false
  tripLast : Bool := false
  lockLast : Bool := false
  fuses    : SMap Word := []
  revoked  : Nat := 0
  cause    : Nat := 1
  inReset  : Option ResetCause := none
  noSpill  : Bool := false
  running  : Bool := false
  faulted  : List (Nat × Nat) := []
  deriving DecidableEq, Repr

/-- SMBus/MCTP and JTAG (R473, R519). -/
structure Mgmt where
  eid    : Nat := 0
  frags  : List Byte := []
  answer : List Byte := []
  ir     : Nat := 1
  byp    : Bool := false
  bsr    : List Bool := []
  tdo    : List Bool := []
  driven : Bool := false
  deriving DecidableEq, Repr

/-- A waiter registered at a latch home (R148): the latch, the engine that waits (a cell, or 56 for the tier engine), and which of its waits
it is. -/
structure Waiter where
  latch  : Nat
  engine : Nat
  by_    : WaitFor
  deriving DecidableEq, Repr

/-- The latch operations that several issuers can send in one cycle (R146). -/
inductive LatchOpKind where
  | reset | signal | rearm
  deriving DecidableEq, Repr

/-- A latch operation that has reached its latch in the cycle that is still open (R146): the latch, the operation, its issuer and its value. -/
structure LatchOp where
  latch : Nat
  kind  : LatchOpKind
  who   : Nat
  value : Nat
  deriving DecidableEq, Repr

/-- The machine. `latchOps` holds latch operations of a cycle that is still open (R146); `leaving` holds ended PACED requests, by slot number, whose items still wait for their release (R302). -/
structure State where
  pending  : List Instr
  regs     : SMap Word
  straps   : BitVec 2
  smbA     : BitVec 2
  now      : Nat
  free     : Nat
  ports    : SMap HostPort
  mbx      : MbxSys
  ops      : SMap Op
  reqs     : List Req
  slots    : SMap Slot
  leaving  : List (Nat × Slot)
  slotFresh : Nat
  slotFreed : List Nat
  nextOrder : Nat
  shadow   : List (Nat × SpanRec)
  commits  : List Commit
  admRng   : BitVec 32
  spans    : SMap Span
  kv       : Kv
  adapters : SMap AdIndex
  tier     : Tier
  flash    : Flash
  cells    : SMap Cell
  waiters  : List Waiter
  latchOps : List LatchOp
  meshRetry : SMap Nat
  linkBusy : List Nat
  spareLanes : SMap Nat
  cad      : Cadence
  pwr      : Power
  key      : Keystone
  mgmt     : Mgmt
  notes    : List (Nat × Nat)
  deriving DecidableEq, Repr

/-- The machine right after a cold reset: every register at its reset value (none listed), everything else empty, the queue of
commands empty (log entries 10 to 14). -/
def State.reset : State where
  pending := []
  regs := []
  straps := 0
  smbA := 3
  now := 0
  free := 0
  ports := []
  mbx := {}
  ops := []
  reqs := []
  slots := []
  leaving := []
  slotFresh := 0
  slotFreed := []
  nextOrder := 0
  shadow := []
  commits := []
  admRng := 0x9E3779B9
  spans := []
  kv := {}
  adapters := []
  tier := {}
  flash := {}
  cells := []
  waiters := []
  latchOps := []
  meshRetry := []
  linkBusy := []
  spareLanes := []
  cad := {}
  pwr := {}
  key := {}
  mgmt := {}
  notes := []

end Sys2Proof.Machine
end

