-- ==== Sys2Proof/Machine/Ops.lean ====
section
/-!
DEFINITION. The named operations over the state: the parts of the state by number, registers and their fields, time stamps,
first-event logs, interrupt vectors, AER, and the memories.
-/
namespace Sys2Proof.Machine

/-- The outcome of a command. -/
abbrev Out := Host.Outcome State Fault Refusal

/-- `f` applied when `b` holds. -/
def onlyIf {α : Type} (b : Bool) (f : α → α) (a : α) : α := if b then f a else a

/-- A state function folded over a list. -/
def forEach {α β : Type} (l : List β) (f : β → α → α) (a : α) : α := l.foldl (fun x b => f b x) a

namespace State

/-! ### Parts of the state by number -/

/-- Host port `p`. -/
def port (s : State) (p : Nat) : HostPort := SMap.get {} s.ports p
/-- Host port `p` changed by `f`. -/
def modPort (s : State) (p : Nat) (f : HostPort → HostPort) : State := { s with ports := SMap.put {} s.ports p (f (s.port p)) }
/-- Context slot `i`. -/
def slot (s : State) (i : Nat) : Slot := SMap.get {} s.slots i
/-- Context slot `i` changed by `f`. -/
def modSlot (s : State) (i : Nat) (f : Slot → Slot) : State := { s with slots := SMap.put {} s.slots i (f (s.slot i)) }
/-- Span `i`. -/
def span (s : State) (i : Nat) : Span := SMap.get {} s.spans i
/-- Span `i` changed by `f`. -/
def modSpan (s : State) (i : Nat) (f : Span → Span) : State := { s with spans := SMap.put {} s.spans i (f (s.span i)) }
/-- Long-operation table entry `i`. -/
def op (s : State) (i : Nat) : Op := SMap.get {} s.ops i
/-- Long-operation table entry `i` changed by `f`. -/
def modOp (s : State) (i : Nat) (f : Op → Op) : State := { s with ops := SMap.put {} s.ops i (f (s.op i)) }
/-- Cell `n`. -/
def cell (s : State) (n : Nat) : Cell := SMap.get {} s.cells n
/-- Cell `n` changed by `f`. -/
def modCell (s : State) (n : Nat) (f : Cell → Cell) : State := { s with cells := SMap.put {} s.cells n (f (s.cell n)) }
/-- Tile moves in flight of engine `e`: a cell's, or those of the tier engine's pool of issued moves (56). -/
def movesOf (s : State) (e : Nat) : List Move := if e < 56 then (s.cell e).moves else s.tier.moves
/-- Adapter index `a` of span `sp`. -/
def adapter (s : State) (sp a : Nat) : AdIndex := SMap.get {} s.adapters (sp * 65536 + a)
/-- Adapter index `a` of span `sp` changed by `f`. -/
def modAdapter (s : State) (sp a : Nat) (f : AdIndex → AdIndex) : State :=
  { s with adapters := SMap.put {} s.adapters (sp * 65536 + a) (f (s.adapter sp a)) }
/-- Object `o` of the directory. -/
def obj (s : State) (o : Nat) : Obj := SMap.get {} s.tier.objs o
/-- The tier engine changed by `f`. -/
def modTier (s : State) (f : Tier → Tier) : State := { s with tier := f s.tier }
/-- Tile moves of engine `e` changed by `f`. -/
def modMoves (s : State) (e : Nat) (f : List Move → List Move) : State :=
  if e < 56 then s.modCell e fun c => { c with moves := f c.moves } else s.modTier fun t => { t with moves := f t.moves }
/-- Remote waits of engine `e` (R148). -/
def waitsOf (s : State) (e : Nat) : List RemoteWait := if e < 56 then (s.cell e).waits else s.tier.waits
/-- Remote waits of engine `e` changed by `f`. -/
def modWaits (s : State) (e : Nat) (f : List RemoteWait → List RemoteWait) : State :=
  if e < 56 then s.modCell e fun c => { c with waits := f c.waits } else s.modTier fun t => { t with waits := f t.waits }
/-- Object `o` changed by `f`. -/
def modObj (s : State) (o : Nat) (f : Obj → Obj) : State :=
  s.modTier fun t => { t with objs := SMap.put {} t.objs o (f (s.obj o)) }
/-- The weight flash changed by `f`. -/
def modFlash (s : State) (f : Flash → Flash) : State := { s with flash := f s.flash }
/-- The cadence unit changed by `f`. -/
def modCad (s : State) (f : Cadence → Cadence) : State := { s with cad := f s.cad }
/-- Power management changed by `f`. -/
def modPwr (s : State) (f : Power → Power) : State := { s with pwr := f s.pwr }
/-- Keystone data changed by `f`. -/
def modKey (s : State) (f : Keystone → Keystone) : State := { s with key := f s.key }
/-- The mailbox system changed by `f`. -/
def modMbx (s : State) (f : MbxSys → MbxSys) : State := { s with mbx := f s.mbx }
/-- The KV walkers changed by `f`. -/
def modKv (s : State) (f : Kv → Kv) : State := { s with kv := f s.kv }
/-- SMBus and JTAG changed by `f`. -/
def modMgmt (s : State) (f : Mgmt → Mgmt) : State := { s with mgmt := f s.mgmt }
/-- Queue `k` of port `p`. -/
def queue (s : State) (p k : Nat) : Queue := SMap.get {} (s.port p).queues k
/-- Queue `k` of port `p` changed by `f`. -/
def modQueue (s : State) (p k : Nat) (f : Queue → Queue) : State :=
  s.modPort p fun h => { h with queues := SMap.put {} h.queues k (f (SMap.get {} h.queues k)) }
/-- Mailbox `m`. -/
def box (s : State) (m : Nat) : Mailbox := SMap.get {} s.mbx.boxes m
/-- Mailbox `m` changed by `f`. -/
def modBox (s : State) (m : Nat) (f : Mailbox → Mailbox) : State :=
  s.modMbx fun b => { b with boxes := SMap.put {} b.boxes m (f (SMap.get {} b.boxes m)) }

/-! ### Registers -/

/-- The word of register `r`, block instance `n`, index `i`. -/
def reg (s : State) (r : Reg) (n i : Nat := 0) : Word := SMap.get (r.resetWord n i) s.regs (r.key n i)
/-- Register `r` set to a word. -/
def setReg (s : State) (r : Reg) (n i : Nat) (w : Word) : State :=
  { s with regs := SMap.put (r.resetWord n i) s.regs (r.key n i) w }
/-- The value of a field. -/
def rd (s : State) (f : FieldRef) (n i : Nat := 0) : Nat := bits (s.reg f.reg n i) f.hi f.lo
/-- Whether a one-bit field is set. -/
def flag (s : State) (f : FieldRef) (n i : Nat := 0) : Bool := s.rd f n i == 1
/-- A field set to a value. -/
def wr (s : State) (f : FieldRef) (v : Nat) (n i : Nat := 0) : State :=
  s.setReg f.reg n i (setBits (s.reg f.reg n i) f.hi f.lo v)
/-- A counting field raised by `by_`; it holds at its greatest value. -/
def bump (s : State) (f : FieldRef) (n i : Nat := 0) (by_ : Nat := 1) : State :=
  s.wr f (min (2 ^ (f.hi + 1 - f.lo) - 1) (s.rd f n i + by_)) n i
/-- A 64-bit count raised by `by_`; the tables give it no value at which it holds, so it counts modulo 2^64. -/
def bump64 (s : State) (f : FieldRef) (n i : Nat := 0) (by_ : Nat := 1) : State := s.wr f (s.rd f n i + by_) n i
/-- A bit of a field set. -/
def setBit (s : State) (f : FieldRef) (b : Nat) (n i : Nat := 0) : State := s.wr f (s.rd f n i ||| 2 ^ b) n i
/-- A bit of a field cleared. -/
def clrBit (s : State) (f : FieldRef) (b : Nat) (n i : Nat := 0) : State :=
  s.wr f (if (s.rd f n i).testBit b then s.rd f n i - 2 ^ b else s.rd f n i) n i

/-! ### Time (00_scope, R253, R291, R530) -/

/-- The cadence period count. -/
def periods (s : State) : Nat := s.rd Fld.cadNow_period
/-- The measured period in ns (R288); 1 ms until one is measured. -/
def periodNs (s : State) : Nat := max 1 (s.rd Fld.cadPeriod_measNs)
/-- The phase in 1/65,536 of the measured period since the last boundary (log entry 2). -/
def phase (s : State) : Nat := min 65535 ((s.now - s.cad.last) * 65536 / s.periodNs)
/-- A timestamp in the 8-byte form of R253: low 32 bits of the period count in [47:16], phase in [15:0]. -/
def stamp (s : State) : Nat := s.periods % 2 ^ 32 * 65536 + s.phase
/-- A timestamp as the log registers hold it: low 16 bits of the period count in [31:16], phase in [15:0]. -/
def stamp16 (s : State) : Nat := s.periods % 65536 * 65536 + s.phase
/-- The word of `CAD_NOW`. -/
def cadNow (s : State) : Nat := s.periods * 65536 + s.phase
/-- The clock moved forward to `t` ns; it never moves back (log entry 4). -/
def atTime (s : State) (t : Nat) : State := { s with now := max s.now t }
/-- The clock moved forward to cadence time `d`, in periods and phase units, of this period or an earlier one. -/
def atCadence (s : State) (d : Nat) : State :=
  s.atTime (s.cad.last + d % 65536 * s.periodNs / 65536 - (s.periods - d / 65536) * s.periodNs)
/-- The module has just been busy: the delay of LULL counts from now (R450, R451). -/
def busy (s : State) : State := s.modPwr fun x => { x with busyAt := s.now }
/-- What happens once `n` periods have passed since cadence time `d`, at that moment; before, nothing. -/
def whenPassed (s : State) (d n : Nat) (f : State → State) : State :=
  let e := d + n * 65536
  if s.periods < e / 65536 then s else f (s.atCadence e)
/-- The clock moved forward by `dt` ns. -/
def after (s : State) (dt : Nat) : State := { s with now := s.now + dt }

/-- An event counted in `cnt`; the log register takes `w` when the count reads 0 at that moment (R530). -/
def logFirst (s : State) (cnt : FieldRef) (log : Reg) (w : Nat) : State :=
  (if s.rd cnt = 0 then s.setReg log 0 0 (BitVec.ofNat 64 w) else s).bump cnt

/-- A free value of `w` bits, and the state that has used it up (log entry 15). -/
def fresh (s : State) (w : Nat) : Nat × State :=
  ((Config.freeValue s.free).toNat % 2 ^ w, { s with free := s.free + 1 })

/-- `n` bytes free in value (log entry 15). -/
def freeBytes (s : State) (n : Nat) : List Byte × State :=
  ((List.range n).map fun i => (Config.freeValue (s.free + i)).setWidth 8, { s with free := s.free + n })

end State

/-! ### Identities (R10) -/

/-- Identity of port `p`. -/
def portIdent (p : Nat) : Nat := 0x01 + p
/-- Whether an identity is a host port's. -/
def isPort (w : Nat) : Bool := 0x01 ≤ w && w ≤ 0x04
/-- Whether an identity is a steward core's. -/
def isSteward (w : Nat) : Bool := 0x10 ≤ w && w ≤ 0x17
/-- Whether an identity is keystone's. -/
def isKeystone (w : Nat) : Bool := w == 0x20
/-- Whether an identity is a cell's. -/
def isCell (w : Nat) : Bool := 0x40 ≤ w && w ≤ 0x77
/-- Identity of cell `n`. -/
def cellIdent (n : Nat) : Nat := 0x40 + n
/-- The class bit of `MBX_CFG.senders` that an identity falls in. -/
def senderClass (w : Nat) : Option Nat :=
  if isPort w then some 0 else if isSteward w then some 1 else if isKeystone w then some 2 else if isCell w then some 3 else none

namespace State

/-- Whether the bifurcation straps leave logical port `p` in being (R378, R379). -/
def portPresent (s : State) (p : Nat) : Bool :=
  match s.straps.toNat with
  | 0 => p < 4
  | 1 => p == 0 || p == 2
  | 2 => p == 0
  | _ => p == 0 || p == 2 || p == 3

/-- Whether port `p` is up: present, and its data link layer up (R415, R416). -/
def portUp (s : State) (p : Nat) : Bool := s.portPresent p && s.flag Fld.hptStatus_linkUp p

/-- The ports that are present. -/
def portList (s : State) : List Nat := (List.range 4).filter s.portPresent

/-- Whether keystone grants port `p` the permission at bit `b` of `KEY_PERM` (R387, R402). -/
def perm (s : State) (p b : Nat) : Bool := bit (s.reg .keyPerm 0 p) b

/-- Vector `v` of port `p` is signalled: sent unless masked, when its pending bit is set instead (R385, log entry 25). -/
def fire (s : State) (p v : Nat) : State :=
  if !s.portUp p then s
  else s.modPort p fun h =>
    if bit h.msixMask v then { h with msixPba := h.msixPba ||| BitVec.ofNat 64 (2 ^ v) }
    else { h with msixSent := h.msixSent ++ [v] }

/-- Vector 49 of every port (R385, R459 to R463). -/
def fireAll (s : State) (v : Nat) : State := forEach s.portList (fun p t => t.fire p v) s

/-- An error reported through AER of port `p` (R501). -/
def aer (s : State) (p : Nat) (e : AerError) : State :=
  if s.portUp p then s.modPort p fun h => { h with aer := h.aer ++ [e] } else s

/-- An error reported through AER of every port with its link up (R501). -/
def aerAll (s : State) (e : AerError) : State := forEach s.portList (fun p t => t.aer p e) s

/-- Whether steward firmware runs: the boot has ended, in service or in SAFE, and no reset is in progress (log entry 5). -/
def running (s : State) : Bool := s.key.running

/-- Whether the module stands in SAFE (R412). -/
def safe (s : State) : Bool := s.rd Fld.pwrStatus_state == 4

/-- Whether the module stands in LULL (R450). -/
def lull (s : State) : Bool := s.rd Fld.pwrStatus_state == 1

end State

/-! ### Bytes of memories -/

/-- `n` bytes of a byte map from address `a`, where an unlisted byte reads `d`. -/
def readBytes (d : Byte) (m : SMap Byte) (a : Nat) : Nat → List Byte
  | 0 => []
  | n + 1 => SMap.get d m a :: readBytes d m (a + 1) n

/-- A byte map with the bytes of a list written from address `a`. -/
def writeBytes (d : Byte) (m : SMap Byte) (a : Nat) : List Byte → SMap Byte
  | [] => m
  | b :: r => writeBytes d (SMap.put d m a b) (a + 1) r

/-- The canonical form of a memory whose unlisted bytes read `d`: addresses strictly rising, and no entry that reads `d`. -/
def Memory.wf (d : Byte) (m : SMap Byte) : Bool := SMap.wf (fun _ => d) m

/-- Every memory of the machine in canonical form: DRAM, host memory behind the T3 windows, both arrays of the flash, and the cells' own
memories (log entries 7 to 9). -/
def State.memoriesWf (s : State) : Bool :=
  Memory.wf 0 s.tier.dram && Memory.wf 0 s.tier.host && Memory.wf 0xFF s.flash.data && Memory.wf 0xFF s.flash.param &&
    s.cells.all fun e => Memory.wf 0 e.2.mem

end Sys2Proof.Machine
end

