-- ==== Sys2Proof/Machine/QueueOps.lean ====
section
/-!
DEFINITION. The queue engine (14, R429 to R446): enqueue, head, watermarks, signals, consume and flush; replies, receipts, notices
and items as packets (R397, R401, R440).
-/
namespace Sys2Proof.Machine

/-- Bytes of a reply or notice: the header of R397 and the body. -/
def replyBytes (kind status tag code time : Nat) (body : List Byte) : List Byte :=
  leBytes 1 kind ++ leBytes 1 status ++ leBytes 2 tag ++ leBytes 2 body.length ++ leBytes 2 code ++ leBytes 8 time ++ body

/-- The kind byte of a packet. -/
def Entry.kind (e : Entry) : Nat := byteAt e.bytes 0
/-- Lines of 64 bytes an entry takes (R430). -/
def Entry.size (e : Entry) : Nat := max 1 (cdiv e.bytes.length 64)

namespace Queue

/-- Packets in head, middle and tail. -/
def level (q : Queue) : Nat := q.head.length + q.outside.length
/-- Every entry of the queue. -/
def entries (q : Queue) : List Entry := q.head.map (·.2) ++ q.outside
/-- The lowest-numbered free head slot, if any (log entry 30). -/
def freeSlot (q : Queue) : Option Nat := (List.range 16).find? fun i => !(q.head.any fun e => e.1 == i)
/-- The first entry outside the head in read order: priority, then arrival (R435). -/
def firstOut (q : Queue) : Option Entry := argMin (·.prio) q.outside
/-- How many packets arrived after `e`, by the sequence numbers, which wrap (R436). -/
def after (q : Queue) (e : Entry) : Nat := (q.seq + 2 ^ 32 - e.seq) % 2 ^ 32
/-- The first readable entry in read order (R437): its slot and itself. -/
def firstIn (q : Queue) : Option (Nat × Entry) := argMin (fun e => e.2.prio * 2 ^ 32 + (2 ^ 32 - q.after e.2)) q.head
/-- The youngest entry of the lowest priority in the head: what a reclaim takes (R435). -/
def victim (q : Queue) : Option (Nat × Entry) :=
  argMin (fun e => (7 - e.2.prio) * 2 ^ 32 + q.after e.2) q.head

/-- The queue with `e` taken from outside the head into slot `i`. -/
def place (q : Queue) (i : Nat) (e : Entry) : Queue :=
  { q with head := q.head ++ [(i, { e with signalled := true })], outside := q.outside.filter fun x => !(x.seq == e.seq) }

/-- The queue with slot `i` reclaimed from `v`, which returns to the front of its lane (R435). -/
def giveBack (q : Queue) (i : Nat) (v : Entry) : Queue :=
  { q with head := q.head.filter fun x => !(x.1 == i), outside := v :: q.outside }

/-- The slot that the first waiting entry would take now, and whether it must be reclaimed: a free one, else that of the victim when
the entry has a priority above the victim's (R435). -/
def room (q : Queue) (e : Entry) : Option (Nat × Option Entry) :=
  match q.freeSlot with
  | some i => some (i, none)
  | none => match q.victim with
    | some (i, v) => if e.prio < v.prio then some (i, some v) else none
    | none => none

/-- The next sequence number: it skips 0 (R436). -/
def nextSeq (q : Queue) : Nat := if (q.seq + 1) % 2 ^ 32 = 0 then 1 else (q.seq + 1) % 2 ^ 32

end Queue

namespace State

/-- The vector of queue `k` is signalled now, and the time of the signal kept (R444; vectors 0 to 16 of R385). -/
def signalQueue (s : State) (p k : Nat) : State :=
  (s.fire p (k - 1)).modQueue p k fun q => { q with lastSig := some s.now }

/-- A packet of queue `k` became readable (R444). -/
def readable (s : State) (p k : Nat) : State :=
  match s.rd Fld.queCfg_mode p k with
  | 1 => s.signalQueue p k
  | 2 =>
    match (s.queue p k).lastSig with
    | some t => if s.now < t + s.rd Fld.queCfg_coalUs p k * 1000 then s.modQueue p k fun q => { q with coal := true }
      else s.signalQueue p k
    | none => s.signalQueue p k
  | _ => s

/-- A change of `QUE_LEVEL[k].packets` from `a` to `b` (R445). A mark of 0 (`hi`) or 0xFFFF (`lo`) is off. -/
def crossed (s : State) (p k a b : Nat) : State :=
  let hi := s.rd Fld.queWm_hi p k
  let lo := s.rd Fld.queWm_lo p k
  let up := decide (hi ≠ 0 ∧ a < hi ∧ hi ≤ b)
  let down := decide (lo ≠ 0xFFFF ∧ lo < a ∧ b ≤ lo)
  let s := onlyIf up (fun s => (s.wr Fld.queStatus_wmHiSeen 1 p k).bump Fld.queXcnt_up p k) s
  let s := onlyIf down (fun s => (s.wr Fld.queStatus_wmLoSeen 1 p k).bump Fld.queXcnt_down p k) s
  onlyIf ((up || down) && s.flag Fld.queCfg_wmNotice p k && k != 0) (fun s => s.signalQueue p k) s

/-- The first waiting entry moves into the head where a slot is free or can be reclaimed (R435). -/
def fillHead (s : State) (p k : Nat) : State :=
  let q := s.queue p k
  match q.firstOut with
  | none => s
  | some e =>
    match q.room e with
    | none => s
    | some (i, v) =>
      let q' := (match v with | some v => (q.giveBack i v).place i e | none => q.place i e)
      let s := s.modQueue p k fun _ => q'
      if e.signalled then s else s.readable p k

/-- Whether the spill area can be reached: without it a queue holds what its 16 head and 16 tail entries take (R532). -/
def queueFull (s : State) (p k : Nat) : Bool := s.key.noSpill && decide (32 ≤ (s.queue p k).level)

/-- A packet enqueued on queue `k` of port `p`; a port that is down drops it (R415). The new entry enters the head at once when it is
the first in read order and a slot is free or can be reclaimed (R435). -/
def enqueue (s : State) (p k prio : Nat) (bytes : List Byte) (share : Option (Nat × Nat)) (lines : Nat) (refusal : Bool) : State :=
  if !s.portUp p || s.queueFull p k then s
  else
    let q := s.queue p k
    let e : Entry := { seq := q.nextSeq, prio, bytes, share, lines, refusal, signalled := false }
    let n := q.level
    let s := s.modQueue p k fun q => { q with seq := e.seq, outside := q.outside ++ [e] }
    let s := s.crossed p k n (n + 1)
    if (s.queue p k).firstOut = some e then s.fillHead p k else s

/-- Notice entries in use on the reply queue (R432, R433). -/
def noticesUsed (s : State) (p : Nat) : Nat := ((s.queue p 1).entries.filter fun e => e.kind == 4).length

/-- A NOTICE with its code and 16-byte body fields (R401), on the reply queue at priority 0 (R433, R434). -/
def notice (s : State) (p code : Nat) (span slot gen object detail : Nat) : State :=
  if !s.portUp p then s
  else if 512 ≤ s.noticesUsed p ∨ s.queueFull p 1 then
    (s.bump Fld.queNoticeDrop_count p).wr Fld.queStatus_noticeDrop 1 p 1
  else
    s.enqueue p 1 0 (replyBytes 4 0 0 code s.stamp
      (leBytes 2 span ++ leBytes 2 slot ++ leBytes 4 gen ++ leBytes 4 object ++ leBytes 4 detail)) none 0 false

/-- A notice to every port. -/
def noticeAll (s : State) (code span slot gen object detail : Nat) : State :=
  forEach s.portList (fun p t => t.notice p code span slot gen object detail) s

/-- Reply space of a port in lines: 8 MiB less 512 notice entries and 16 refusal entries (R394, R432). -/
def replyLines : Nat := 8 * 2 ^ 20 / 64 - 512 - 16

/-- A reply packet enqueued (R397): it keeps `lines` lines of the reserved space until it is read. -/
def reply (s : State) (p prio kind status tag code : Nat) (body : List Byte) : State :=
  let b := replyBytes kind status tag code s.stamp body
  s.enqueue p 1 prio b none (cdiv b.length 64) false

/-- Reserved reply space given back. -/
def release (s : State) (p lines : Nat) : State := s.modPort p fun h => { h with reserved := h.reserved - lines }

/-- What becomes of an entry that leaves the queue: its reply space is released (R437). The item share of R307 is released with the
entry itself, because shares are counted over the entries that stand in a queue. -/
def dropEntry (s : State) (p : Nat) (e : Entry) : State := s.release p e.lines

/-- The consume write of R437. -/
def consume (s : State) (p k seq : Nat) : State :=
  match (s.queue p k).head.find? fun e => e.2.seq == seq with
  | none => s.wr Fld.queStatus_stale 1 p k
  | some (i, e) =>
    let n := (s.queue p k).level
    let s := s.modQueue p k fun q => { q with head := q.head.filter fun x => !(x.1 == i) }
    (s.dropEntry p e).crossed p k n (n - 1)

/-- The flush of R443 at its packet boundary. -/
def flushNow (s : State) (p k : Nat) : State :=
  let q := s.queue p k
  let s := s.modQueue p k fun q => { q with head := [], outside := [] }
  let s := forEach q.entries (fun e t => t.dropEntry p e) s
  (s.crossed p k q.level 0).wr Fld.queStatus_flushing 0 p k

/-- Unread item shares of slot `i`, generation `g`, on the item queue `k` of port `p` (R307). -/
def shares (s : State) (p k i g : Nat) : Nat := ((s.queue p k).entries.filter fun e => e.share == some (i, g)).length

/-- `QUE_LEVEL[k]`: packets and lines; for the command queue the packets taken from the ring and not yet by firmware (R438). -/
def queLevel (s : State) (p k : Nat) : Nat :=
  if k = 0 then
    let l := (s.port p).cmdQ
    (l.map fun c => cdiv (16 + c.pkt.body.length) 64).sum * 2 ^ 32 + l.length
  else
    let q := s.queue p k
    (q.entries.map Entry.size).sum * 2 ^ 32 + q.level

/-- `QUE_NEXT[k]` (R437, R438). -/
def queNext (s : State) (p k : Nat) : Nat :=
  if k = 0 then 0
  else match (s.queue p k).firstIn with
    | none => 0
    | some (i, e) => 2 ^ 63 + e.prio * 2 ^ 60 + i * 2 ^ 32 + e.seq

end State
end Sys2Proof.Machine
end

