-- ==== Sys2Proof/Machine/Operands.lean ====
section
/-!
DEFINITION. Operand forms: the fields of a command header (R391), the table of opcodes (R402), the handle entry and its decoding
(R106), and the fields of the encoded cell instructions, move descriptors and flash descriptors.
-/
namespace Sys2Proof.Machine

/-! ### Command packets -/

end Sys2Proof.Machine

namespace Sys2Proof.Packet
open Sys2Proof.Machine

/-- opcode, [7:0]. -/
def opcode (p : Packet) : Nat := bits p.hdr0 7 0
/-- flags, [15:8]. -/
def flags (p : Packet) : Nat := bits p.hdr0 15 8
/-- FORCE. -/
def force (p : Packet) : Bool := bit p.hdr0 8
/-- QUERY. -/
def query (p : Packet) : Bool := bit p.hdr0 9
/-- DISCARD. -/
def discard (p : Packet) : Bool := bit p.hdr0 10
/-- RESUME. -/
def resume (p : Packet) : Bool := bit p.hdr0 11
/-- REBUILD. -/
def rebuild (p : Packet) : Bool := bit p.hdr0 12
/-- END. -/
def ends (p : Packet) : Bool := bit p.hdr0 13
/-- tag, [31:16]. -/
def tag (p : Packet) : Nat := bits p.hdr0 31 16
/-- length, [47:32]. -/
def length (p : Packet) : Nat := bits p.hdr0 47 32
/-- target, [79:64]. -/
def target (p : Packet) : Nat := bits p.hdr1 15 0
/-- generation, [95:80]. -/
def gen (p : Packet) : Nat := bits p.hdr1 31 16
/-- span, [103:96]. -/
def span (p : Packet) : Nat := bits p.hdr1 39 32
/-- class, [105:104]. -/
def cls (p : Packet) : Nat := bits p.hdr1 41 40
/-- The queue priority of a command: that of its class when it names a request, else 1 (R395, R434). -/
def prio (p : Packet) : Nat := if 0x20 ≤ p.opcode ∧ p.opcode ≤ 0x23 then p.cls + 1 else 1
/-- Whether a reserved header bit is set. -/
def reservedSet (p : Packet) : Bool := bits p.hdr0 63 48 != 0 || bits p.hdr0 15 14 != 0 || bits p.hdr1 63 42 != 0
/-- A body field of `n` bytes at `off`. -/
def fld (p : Packet) (off n : Nat) : Nat := leAt p.body off n
/-- The packet with its opcode field set: a command row serves its own opcode. -/
def withOpcode (p : Packet) (op : Nat) : Packet := { p with hdr0 := setBits p.hdr0 7 0 op }

end Sys2Proof.Packet

namespace Sys2Proof.Machine

/-- What a command's header names (R402): nothing, a span, a request, or an operation handle. -/
inductive Names where
  | nothing | span | request | handle
  deriving DecidableEq, Repr

/-- A row of the opcode table (R402). `perm` is the bit of `KEY_PERM` and the status of its lack; `fields` lists (offset, bytes) of
the named body bytes, `none` where the body has rules of its own; `fin` is the greatest FINAL body in bytes (R400). -/
structure OpRow where
  flags  : Nat
  names  : Names
  long   : Bool
  perm   : Option (Nat × Nat)
  fields : Option (List (Nat × Nat))
  fin    : Nat
  deriving DecidableEq, Repr

/-- The model-load permission, refused with 0x41. -/
def permLoad : Option (Nat × Nat) := some (0, 0x41)
/-- The write-flash permission, refused with 0x42. -/
def permFlash : Option (Nat × Nat) := some (1, 0x42)
/-- The firmware-update permission, refused with 0x43. -/
def permFw : Option (Nat × Nat) := some (2, 0x43)

/-- The opcode table of R402. Flag bits: 1 FORCE, 2 QUERY, 4 DISCARD, 8 RESUME, 16 REBUILD, 32 END. The permission of OBJ_PLACE,
OBJ_REVOKE and the OP_ commands depends on the target and is checked by their meanings. -/
def opRow : Nat → Option OpRow
  | 0x01 => some ⟨0, .nothing, false, none, none, 4080⟩
  | 0x02 => some ⟨0, .nothing, false, none, some [], 40⟩
  | 0x10 => some ⟨0, .span, true, permLoad, some [(0, 1)], 0⟩
  | 0x11 => some ⟨1, .span, true, permLoad, some [], 0⟩
  | 0x12 => some ⟨0, .span, true, permLoad, some [(0, 1)], 8⟩
  | 0x13 => some ⟨0, .span, true, permLoad, some [(0, 2), (4, 4)], 0⟩
  | 0x14 => some ⟨0, .span, true, permLoad, some [(0, 2), (4, 4)], 8⟩
  | 0x15 => some ⟨0, .span, true, permLoad, some [(0, 2)], 0⟩
  | 0x20 => some ⟨0, .request, false, none, none, 16⟩
  | 0x21 => some ⟨32, .request, false, none, none, 0⟩
  | 0x22 => some ⟨0, .request, false, none, none, 0⟩
  | 0x23 => some ⟨0, .request, false, none, none, 256⟩
  | 0x30 => some ⟨0, .span, false, permLoad, some [(0, 32)], 0⟩
  | 0x31 => some ⟨0, .span, false, permLoad, some [(0, 32)], 0⟩
  | 0x32 => some ⟨5, .nothing, false, permLoad, some [], 0⟩
  | 0x40 => some ⟨0, .nothing, false, none, some [(0, 20)], 8⟩
  | 0x41 => some ⟨2, .nothing, false, none, some [(0, 6)], 32⟩
  | 0x42 => some ⟨1, .nothing, false, none, some [(0, 4)], 0⟩
  | 0x50 => some ⟨8, .nothing, true, permFlash, some [(0, 5), (8, 8)], 8⟩
  | 0x51 => some ⟨16, .nothing, true, permFlash, some [(0, 2)], 0⟩
  | 0x52 => some ⟨0, .nothing, true, permLoad, some [(0, 20)], 0⟩
  | 0x60 => some ⟨8, .span, true, permLoad, some [(0, 34), (0x24, 17), (0x36, 2)], 16⟩
  | 0x70 => some ⟨0, .handle, false, none, some [], 0⟩
  | 0x71 => some ⟨0, .handle, false, none, some [], 0⟩
  | 0x72 => some ⟨0, .handle, false, none, some [], 0⟩
  | 0x7F => some ⟨0, .handle, false, none, some [], 32⟩
  | 0x80 => some ⟨0, .nothing, false, permLoad, some [(0, 16)], 0⟩
  | 0x90 => some ⟨0, .nothing, false, permLoad, some [(0, 2)], 0⟩
  | 0xA0 => some ⟨0, .nothing, true, permFw, some [(0, 8)], 0⟩
  | _ => none

/-- Opcodes that SAFE accepts (R412). -/
def safeOpcode (op : Nat) : Bool := op == 0x01 || op == 0x02 || op == 0x7F || op == 0x72 || op == 0xA0

/-- Lines reserved for the FINAL reply of an opcode, whose body ECHO takes from the packet (R394, R400). -/
def finLines (op len : Nat) : Nat :=
  let b := if op = 0x01 then len else match opRow op with
    | some r => r.fin
    | none => 0
  cdiv (16 + b) 64

/-- Lines reserved at acceptance: receipt, ACCEPTED for a long operation, FINAL (R394). -/
def packetLines (p : Packet) : Nat :=
  let long := match opRow p.opcode with
    | some r => r.long
    | none => false
  1 + b2n long + finLines p.opcode p.length

/-- Whether every body byte outside the named fields is zero (R4, R5). -/
def bodyClean (fields : List (Nat × Nat)) (body : List Byte) : Bool :=
  (List.range body.length).all fun i => fields.any (fun f => f.1 ≤ i && i < f.1 + f.2) || byteAt body i == 0

/-- The least body length that holds every named field. -/
def bodySize (fields : List (Nat × Nat)) : Nat := fields.foldl (fun a f => max a (f.1 + f.2)) 0

end Sys2Proof.Machine
end

