-- ==== Sys2Proof/Machine/Commands.lean ====
section
/-!
DEFINITION. What every command shares (13): the checks of its header, its replies, and the long-operation table.
-/
namespace Sys2Proof.Machine

/-- Who receives the replies of a packet of port `p` that came at `t`. -/
def callerOf (p : Nat) (pkt : Packet) (t : Nat) : Caller :=
  { port := p, tag := pkt.tag, prio := pkt.prio, lines := finLines pkt.opcode pkt.length, time := t }

/-- Handle of table entry `i` (R405). -/
def opHandle (i : Nat) (o : Op) : Nat := o.gen * 64 + i

/-- The generation of an entry's next use: 1 to 1,023, skipping 0 (R405). -/
def nextGen (g : Nat) : Nat := if 1023 ≤ g then 1 else g + 1

namespace State

/-- The FINAL reply of a command (R399): one outstanding entry and the unused part of the reserved reply space come back (R394). -/
def final (s : State) (c : Caller) (status code : Nat) (body : List Byte) : State :=
  let s := s.busy.wr Fld.hptCmdOut_count (s.rd Fld.hptCmdOut_count c.port - 1) c.port
  let s := s.release c.port (c.lines - cdiv (16 + body.length) 64)
  s.reply c.port c.prio 3 status c.tag code body

/-- A FINAL reply without a body. -/
def fin (s : State) (c : Caller) (status : Nat) : State := s.final c status 0 []

/-- The lowest-numbered free entry of the long-operation table (R411). -/
def freeOp (s : State) : Option Nat := (List.range 64).find? fun i => !(s.op i).live

/-- A long operation accepted (R399, R405): its entry and its ACCEPTED reply. -/
def openOp (s : State) (i : Nat) (c : Caller) (opcode span total : Nat) (job : Job) : State :=
  let g := nextGen (s.op i).gen
  let o : Op := { live := true, gen := g, opcode, who := c, span, total, start := s.stamp, job }
  (s.modOp i fun _ => o).reply c.port c.prio 2 0x01 c.tag (opHandle i o) []

/-- A long operation accepted when the table has an entry, else refused with 0x3A (R411); `f` goes on with the entry's index. -/
def startOp (s : State) (c : Caller) (opcode span total : Nat) (job : Job) (f : Nat → State → State) : State :=
  match s.freeOp with
  | none => s.fin c 0x3A
  | some i => f i (s.openOp i c opcode span total job)

/-- A long operation ends: its handle stays valid until its FINAL reply is enqueued (R410); the reply of an owner that has gone down
is lost (R415). -/
def endOp (s : State) (i status : Nat) (body : List Byte) : State :=
  let o := s.op i
  if !o.live then s
  else
    let t := s.busy.modOp i fun o => { o with live := false, job := .none, st := if status = 0 then 3 else 0 }
    if o.orphan then t else t.final o.who status (opHandle i o) body

/-- The header checks of steward firmware, in this order: opcode, flags and reserved bits (R5, R391, R393), the fields the row does
not name, SAFE (R412), permission (R402), a free table entry (R411), and the body's length and reserved bytes (R4, R5). `none`
passes. -/
def headerStatus (s : State) (p : Nat) (pkt : Packet) : Option Nat :=
  match opRow pkt.opcode with
  | none => some 0x20
  | some r =>
    let n := r.names
    let safeCmd := safeOpcode pkt.opcode
    if pkt.reservedSet || pkt.flags &&& r.flags != pkt.flags then some 0x20
    else if n != .request && (pkt.cls != 0 || pkt.gen != 0 || (n != .handle && pkt.target != 0)) then some 0x20
    else if (n == .nothing || n == .handle) && pkt.span != 0xFF then some 0x20
    else if n == .span && 8 ≤ pkt.span then some 0x27
    else if s.safe && !safeCmd then some 0x50
    else if (r.perm.any fun q => !s.perm p q.1) then r.perm.map (·.2)
    else if r.long && s.freeOp.isNone then some 0x3A
    else match r.fields with
      | none => none
      | some fs =>
        if pkt.body.length < bodySize fs then some 0x20
        else if !bodyClean fs pkt.body then some 0x27
        else none

/-- Whether steward firmware serves commands of port `p`: it runs, and the port is up, since a port that is down has no packets (log
entry 5). -/
def serves (s : State) (p : Nat) : Bool := s.running && s.portUp p && !s.lull

/-- Steward firmware serves a packet that caller `c` sent (R395, R402): the header checks, then the command's own meaning. -/
def serveFor (s : State) (c : Caller) (pkt : Packet) (body : Caller → Packet → State → State) : State :=
  match s.headerStatus c.port pkt with
  | some st => s.fin c st
  | none => body c pkt s

/-- Steward firmware serves a packet of port `p` as one of opcode `opcode`, received now. -/
def serve (s : State) (opcode : Nat) (p : Nat) (pkt : Packet) (body : Caller → Packet → State → State) : State :=
  if s.serves p then
    let pkt := pkt.withOpcode opcode
    s.serveFor (callerOf p pkt s.cadNow) pkt body
  else s

end State
end Sys2Proof.Machine
end

