-- ==== Sys2Proof/Machine/Faults.lean ====
section
/-!
DEFINITION. Forced release and fault logs (16, R493, R500 to R503), shared by the families that fence or release.
-/
namespace Sys2Proof.Machine

/-- No slot in a notice body (R401). -/
def noSlot : Nat := 0xFFFF
/-- No object in a notice body (R401). -/
def noObject : Nat := 0xFFFFFFFF
/-- No span in a notice body (R401). -/
def noSpan : Nat := 0xFF

namespace State

/-- A device notice with neither slot nor object, to every port (R474, R503). -/
def noticeDev (s : State) (code span detail : Nat) : State := s.noticeAll code span noSlot 0 noObject detail

/-- One forced release (R500): count, log, notice FORCED_RELEASE, and a Corrected Internal Error on every port (R501). -/
def forceRelease (s : State) (kind owner which span : Nat) : State :=
  let s := s.logFirst Fld.keyForceCnt_count .keyForceLog (kind * 2 ^ 56 + owner % 256 * 2 ^ 48 + which % 65536 * 2 ^ 32 + s.stamp16)
  (s.noticeDev 0x2D span (kind * 256 + owner % 256)).aerAll .correctedInternal

/-- One fault logged (R493, `KEY_FAULT_LOG`). -/
def keyFault (s : State) (kind ident detail : Nat) : State :=
  s.logFirst Fld.keyFaultCnt_count .keyFaultLog (kind * 2 ^ 56 + ident % 256 * 2 ^ 48 + detail % 65536 * 2 ^ 32 + s.stamp16)

/-- A host write to a register that is not its own: dropped and counted (R384). -/
def hostDeny (s : State) (w : Nat) : State :=
  if isPort w then (s.bump Fld.hptDenyCnt_count (w - 1)).wr Fld.hptStatus_deny 1 (w - 1) else s

/-- A write that only steward firmware and keystone may make; a host's is dropped and counted (R384), any other is dropped. -/
def byFirmware (s : State) (w : Nat) (f : State → State) : State :=
  if isSteward w || isKeystone w then f s else s.hostDeny w

/-- A notice to steward firmware with a code of the model's own (log entry 28): 1 a cell halted on an illegal instruction (R78),
2 a move failed (R138), 3 SAG_WARN (R462), 4 flash read refresh (R214), 5 a change of the cadence state (R294). -/
def noteFw (s : State) (code detail : Nat) : State := { s with notes := s.notes ++ [(code, detail)] }

/-- A reset requested of keystone (R476): it merges into one in progress; the hosts are told at the start of the hold (R501). Steward
firmware stops serving. -/
def requestReset (s : State) (c : ResetCause) : State :=
  if s.key.inReset.isSome then s
  else (s.aerAll .uncorrectableInternal).modKey fun k => { k with inReset := some c, running := false }

/-- A TBT overrun counted for a request (R172, R182, R494), whatever its class (log entry 57). -/
def countOverrun (s : State) (i : Nat) : State := s.modSlot i fun x => { x with tbtOver := min (2 ^ 32 - 1) (x.tbtOver + 1) }

/-- The running step of a span is to be repeated (R182): its requests count a TBT overrun, once. -/
def repeatStep (s : State) (sp : Nat) : State :=
  if (s.span sp).again then s
  else
    let ids := (((s.span sp).batch.elim [] (·.rows)).map (·.slot)).dedup
    forEach ids (fun i t => t.countOverrun i) (s.modSpan sp fun x => { x with again := true })

end State
end Sys2Proof.Machine
end

