-- ==== Sys2Proof/Machine/FlashMem.lean ====
section
/-!
DEFINITION. The organisation of the weight flash (07, R186 to R192, R215): places of planes, blocks and pages, the block map with the
reserve, logical reads, the parameter array with its alternating copies (R190, R192), the interruption journal (R217 to R219), and the
library (R230).
-/
namespace Sys2Proof.Machine

/-- Key of plane `k` of die `d`. -/
def planeKey (d k : Nat) : Nat := d * 64 + k
/-- Key of a physical block. -/
def blockKey (d k phys : Nat) : Nat := planeKey d k * 512 + phys
/-- Data and spare bytes of a page (R186). -/
def pageBytes : Nat := 18432
/-- Data bytes of a page. -/
def pageData : Nat := 16384
/-- Key of the first byte of a page. -/
def pageKey (d k phys p : Nat) : Nat := (blockKey d k phys * 512 + p) * pageBytes
/-- Number of a page among all of them. -/
def pageNo (d k phys p : Nat) : Nat := blockKey d k phys * 512 + p

/-- Whether page `p` is an upper page in the order of R215. -/
def upperPage (p : Nat) : Bool := (p % 2 == 0 && 2 ≤ p) || p == 511
/-- The lower page that shares the wordline of upper page `p` (R215). -/
def partner (p : Nat) : Nat := if p = 2 then 0 else if p = 511 then 509 else p - 3

/-- Die, plane, logical block, page and byte of a flash logical address (R188). -/
structure FlashAddr where
  die   : Nat
  plane : Nat
  row   : Nat
  page  : Nat
  byte  : Nat
  deriving DecidableEq, Repr

/-- The map of R188. -/
def flashAddr (a : Nat) : FlashAddr :=
  let q := a % 2 ^ 30 / 16384
  { die := q % 2, plane := q / 2 % 64, row := a / 2 ^ 30, page := q / 128, byte := a % 16384 }

/-- Free reserve blocks of a plane as it leaves the factory (R186). -/
def factorySpare (k : Nat) : List Nat :=
  (List.range (Config.reservePerPlane k)).map fun i => Config.testBlocks k + Config.flashUnits + i

/-- The planes that a descriptor selects, ascending (R196). -/
def selected (w : Inst256) : List Nat := bitList (bits w 127 64) 64

/-- The journal record types of R217. -/
def recUpOpen : Nat := 1
/-- ER_OPEN. -/
def recErOpen : Nat := 2
/-- ER_DONE. -/
def recErDone : Nat := 3
/-- CUT. -/
def recCut : Nat := 4
/-- CHECKED. -/
def recChecked : Nat := 5
/-- ROW_DONE. -/
def recRowDone : Nat := 6

/-- CRC-16/CCITT-FALSE of a byte string, over `n` bits of each byte. -/
def crc16 (l : List Byte) : Nat :=
  l.foldl (fun c b => (List.range 8).foldl (fun c _ => if 0x8000 ≤ c then (c * 2 % 65536) ^^^ 0x1021 else c * 2) (c ^^^ (b.toNat * 256)))
    0xFFFF

/-- The 16 bytes of a record of die `d` (R217). -/
def recBytes (d : Nat) (r : JRec) : List Byte :=
  let a := leBytes 4 (r.type + d * 2 ^ 8 + r.row * 2 ^ 9 + r.page * 2 ^ 18) ++ leBytes 2 r.seq
  let z := leBytes 8 r.planes
  a ++ leBytes 2 (crc16 (a ++ z)) ++ z

namespace State

/-- Plane `k` of die `d`. -/
def plane (s : State) (d k : Nat) : Plane := SMap.get {} s.flash.planes (planeKey d k)
/-- Plane `k` of die `d` changed by `f`. -/
def modPlane (s : State) (d k : Nat) (f : Plane → Plane) : State :=
  s.modFlash fun x => { x with planes := SMap.put {} x.planes (planeKey d k) (f (s.plane d k)) }
/-- A physical block. -/
def block (s : State) (d k phys : Nat) : Block := SMap.get {} s.flash.blocks (blockKey d k phys)
/-- A physical block changed by `f`. -/
def modBlock (s : State) (d k phys : Nat) (f : Block → Block) : State :=
  s.modFlash fun x => { x with blocks := SMap.put {} x.blocks (blockKey d k phys) (f (s.block d k phys)) }

/-- The physical block of logical block `row` of a plane (R189): the first blocks after the factory test blocks, unless remapped. -/
def physOf (s : State) (d k row : Nat) : Nat :=
  match SMap.get 0 s.flash.map (blockKey d k row) with
  | 0 => Config.testBlocks k + row
  | n + 1 => n
/-- Logical block `row` of a plane mapped to a physical block. -/
def mapBlock (s : State) (d k row phys : Nat) : State :=
  s.modFlash fun x => { x with map := SMap.put 0 x.map (blockKey d k row) (phys + 1) }
/-- The free reserve blocks of a plane. -/
def spareOf (s : State) (d k : Nat) : List Nat := (SMap.get none s.flash.spare (planeKey d k)).getD (factorySpare k)
/-- The free reserve of a plane set. -/
def setSpare (s : State) (d k : Nat) (l : List Nat) : State :=
  s.modFlash fun x => { x with spare := SMap.put none x.spare (planeKey d k) (some l) }

/-- Bytes of a page by physical place. -/
def pageRead (s : State) (d k phys p off n : Nat) : List Byte := readBytes 0xFF s.flash.data (pageKey d k phys p + off) n
/-- Data bytes of a page written, with the free values that its spare holds from now on (R187; log entry 80). -/
def pageWrite (s : State) (d k phys p : Nat) (l : List Byte) : State :=
  let s := s.modFlash fun x => { x with data := writeBytes 0xFF x.data (pageKey d k phys p) l,
                                        spareAt := SMap.put 0 x.spareAt (pageNo d k phys p) (s.free + 1) }
  { s with free := s.free + 2048 }
/-- A page copied to a page of another block of its plane, spare and all (R214). -/
def pageCopy (s : State) (d k frm to_ p : Nat) : State :=
  let l := s.pageRead d k frm p 0 pageData
  s.modFlash fun x => { x with data := writeBytes 0xFF x.data (pageKey d k to_ p) l,
                               spareAt := SMap.put 0 x.spareAt (pageNo d k to_ p) (SMap.get 0 x.spareAt (pageNo d k frm p)) }
/-- The 2,048 spare bytes of a page (R187): byte 0 of pages 0 and 1 is the factory mark, 0xFF on a good block; a page that nothing has programmed
reads 0xFF, and of the others the source gives the contents but no layout (log entry 80). -/
def spareRead (s : State) (d k phys p : Nat) : List Byte :=
  let base := SMap.get 0 s.flash.spareAt (pageNo d k phys p)
  let byte := fun (i : Nat) => (Config.freeValue (base - 1 + i)).setWidth 8
  let marked := s.flash.marks.contains (d, k, phys)
  let mark : Byte := if marked then BitVec.ofNat 8 ((Config.freeValue (pageNo d k phys p)).toNat % 255) else 0xFF
  let rest := fun (i : Nat) => if base = 0 then 0xFF else byte i
  (if p < 2 then mark else rest 0) :: (List.range 2047).map fun i => rest (i + 1)
/-- Every page of a block reads erased (log entry 9), its factory mark with them (R211). -/
def blockWipe (s : State) (d k phys : Nat) : State :=
  let lo := pageKey d k phys 0
  let n := pageNo d k phys 0
  s.modFlash fun x => { x with data := x.data.filter fun e => !(lo ≤ e.1 && e.1 < lo + 512 * pageBytes),
                               spareAt := x.spareAt.filter (fun e => !(n ≤ e.1 && e.1 < n + 512)),
                               marks := x.marks.erase (d, k, phys) }

/-- One byte at a flash logical address (R188, R189). -/
def flashByte (s : State) (a : Nat) : Byte :=
  let f := flashAddr a
  SMap.get 0xFF s.flash.data (pageKey f.die f.plane (s.physOf f.die f.plane f.row) f.page + f.byte)
/-- `n` bytes at a flash logical address. -/
def flashRead (s : State) (a n : Nat) : List Byte := (List.range n).map fun i => s.flashByte (a + i)

/-- Whether die `i`, of the six that R488 numbers, is in service: keystone does not hold it in reset (R489). -/
def dieServing (s : State) (i : Nat) : Bool := !(s.rd Fld.keyDieHeld_held).testBit i

/-- Whether a die serves: not held, its table readable (R213, R489). -/
def dieServes (s : State) (d : Nat) : Bool :=
  !(s.rd Fld.flcStatus_held).testBit d && !(s.rd Fld.flcStatus_tableLost).testBit d

/-! ### The parameter array (R190, R192) -/

/-- The place of a parameter unit. -/
def paramKey (d sector unit : Nat) : Nat := (d * 16 + sector) * 122880 + unit * 120

/-- Copy `k` of die `d`'s table; a copy that nothing has written holds the factory's (log entry 12). -/
def tab (s : State) (d k : Nat) : Option TableCopy := SMap.get (some {}) s.flash.tabs (d * 2 + k)
/-- Copy `k` of the directory on die `d`. -/
def dir (s : State) (d k : Nat) : Option DirCopy := SMap.get (some {}) s.flash.dirs (d * 2 + k)

/-- The copy that an update writes, the older one, and the generation that it gives it (R192). -/
def olderCopy (g0 g1 : Option Nat) : Nat × Nat :=
  let n := max (g0.getD 0) (g1.getD 0) + 1
  match g0, g1 with
  | none, _ => (0, n)
  | some _, none => (1, n)
  | some a, some b => (if a ≤ b then 0 else 1, n)

/-- The table of die `d` as the controller holds it. -/
def liveTable (s : State) (d : Nat) : TableCopy :=
  let f := s.flash
  let own := fun (b : Nat) => b / (64 * 512) == d
  { bad := f.bad.filter fun b => b.die == d, map := f.map.filter fun e => own e.1, spare := f.spare.filter fun e => e.1 / 64 == d,
    scanned := f.scanned.contains d, retired := f.retired,
    reads := (f.blocks.filter fun e => own e.1 && e.2.reads != 0).map fun e => (e.1, e.2.reads) }

/-- The table of die `d` written under R192: the older copy only. Under sag_hold the write waits (R222). -/
def writeTable (s : State) (d : Nat) : State :=
  if s.flag Fld.flcStatus_sagHold then s.modFlash fun x => { x with tabDue := if x.tabDue.contains d then x.tabDue else x.tabDue ++ [d] }
  else
    let (k, g) := olderCopy ((s.tab d 0).map (·.gen)) ((s.tab d 1).map (·.gen))
    s.modFlash fun x => { x with tabs := SMap.put (some {}) x.tabs (d * 2 + k) (some { s.liveTable d with gen := g }) }

/-- The directory written under R192 on every die in service, its older copy only (R231). Under sag_hold the write waits (R222). -/
def writeDir (s : State) : State :=
  if s.flag Fld.flcStatus_sagHold then s.modFlash fun x => { x with dirDue := true }
  else forEach ([0, 1].filter s.dieServes) (fun d t =>
    let (k, g) := olderCopy ((t.dir d 0).map (·.gen)) ((t.dir d 1).map (·.gen))
    t.modFlash fun x => { x with dirs := SMap.put (some {}) x.dirs (d * 2 + k) (some { gen := g, lib := x.lib, seq := x.writeSeq }) }) s

/-- A library entry's 128 bytes (R230); `fill` gives those that the table does not list. -/
def entryBytes (fill : Nat → Byte) (i : Nat) (e : LibEntry) : List Byte :=
  let un := fun (a n : Nat) => (List.range n).map fun j => fill (a + j)
  leBytes 1 e.st ++ leBytes 1 i ++ leBytes 2 e.first ++ leBytes 2 e.units ++ un 6 2 ++ leBytes 8 e.bytes ++ leBytes 16 e.model ++
    leBytes 4 e.gen ++ leBytes 4 e.seq ++ leBytes 4 e.period ++ un 0x2C 4 ++ leBytes 48 e.digest ++ un 0x60 32

/-- The bytes of a directory copy: a 64-byte header, then 64 entries in the order of their numbers. -/
def dirBytes (c : DirCopy) : List Byte :=
  (List.range 64).map (Config.dirByte c.gen) ++
    (List.range 64).flatMap fun i => entryBytes (fun j => Config.dirByte c.gen (64 + i * 128 + j)) i (SMap.get {} c.lib i)

/-- The 120 data bytes of a parameter unit: an alternating copy shows its own (R190, R192), any other sector what has been programmed. -/
def unitData (s : State) (d sector unit : Nat) : List Byte :=
  let raw := readBytes 0xFF s.flash.param (paramKey d sector unit) 120
  if sector = 9 ∨ sector = 10 then
    match s.tab d (sector - 9) with
    | some c => (List.range 120).map fun i => Config.tableByte d c.gen (unit * 120 + i)
    | none => (List.range 120).map fun i => Config.tableByte d (2 ^ 32 + sector) (unit * 120 + i)
  else if sector = 11 ∨ sector = 12 then
    match s.dir d (sector - 11) with
    | some c => (List.range 120).map fun i => (dirBytes c).getD (unit * 120 + i) 0xFF
    | none => raw
  else raw

/-- The 128 bytes of a parameter unit: its data and its code, which a blank unit has not (R190; log entry 42). -/
def unitBytes (s : State) (d sector unit : Nat) : List Byte :=
  let l := s.unitData d sector unit
  if l.all (· == 0xFF) then l ++ List.replicate 8 0xFF else l ++ ((Config.unitCode l) ++ List.replicate 8 0xFF).take 8

/-- A copy of the directory that gives way to other bytes: what it held stands as bytes, and no copy is read there any more (log entry 42). -/
def breakCopy (s : State) (d sector : Nat) : State :=
  if sector = 11 ∨ sector = 12 then
    match s.dir d (sector - 11) with
    | some c => s.modFlash fun x => { x with dirs := SMap.put (some {}) x.dirs (d * 2 + (sector - 11)) none,
                                             param := writeBytes 0xFF x.param (paramKey d sector 0) (dirBytes c) }
    | none => s
  else s

/-- One unit programmed; a firmware image in its sector is no longer the shipped one. -/
def programUnit (s : State) (d sector unit : Nat) (l : List Byte) : State :=
  (s.breakCopy d sector).modFlash fun x => { x with param := writeBytes 0xFF x.param (paramKey d sector unit) l,
                                                    shipped := x.shipped.filter fun i => i != sector / 4 }

/-- A parameter sector erased; a firmware image in it is no longer the shipped one. -/
def wipeParam (s : State) (d sector : Nat) : State :=
  let lo := paramKey d sector 0
  (s.breakCopy d sector).modFlash fun x => { x with param := x.param.filter fun e => !(lo ≤ e.1 && e.1 < lo + 122880),
                                                    shipped := x.shipped.filter fun i => i != sector / 4 }

/-- Bytes put at a place of the parameter array; under sag_hold they wait (R222). -/
def storeParam (s : State) (at_ : Nat) (l : List Byte) : State :=
  if s.flag Fld.flcStatus_sagHold then s.modFlash fun x => { x with parDue := x.parDue ++ [(at_, l)] }
  else s.modFlash fun x => { x with param := writeBytes 0xFF x.param at_ l }

/-! ### The journal -/

/-- The journal of die `d`: the records of its sectors, oldest first. -/
def journal (s : State) (d : Nat) : List JRec := if d = 0 then s.flash.journal0 else s.flash.journal1
/-- The journal of die `d` changed by `f`. -/
def modJournal (s : State) (d : Nat) (f : List JRec → List JRec) : State :=
  s.modFlash fun x => if d = 0 then { x with journal0 := f x.journal0 } else { x with journal1 := f x.journal1 }

/-- The last record of a row. -/
def lastRec (s : State) (d row : Nat) : Option JRec := ((s.journal d).filter fun r => r.row == row).getLast?
/-- Whether restart would still examine a record of a list (R220): the last of its row that leaves it open, or, where that is a CUT, the one
before it, which tells what was cut. -/
def stillOpen (l : List JRec) (r : JRec) : Bool :=
  let own := l.filter fun x => x.row == r.row
  let cut := own.getLast?.any fun x => x.type == recCut
  ((r.type == recUpOpen || r.type == recErOpen || r.type == recCut) && own.getLast? == some r) ||
    (cut && (own.filter fun x => x.type != recCut).getLast? == some r)

/-- A record's bytes programmed into unit `u` of journal sector 13 + `sec`; the rest of the unit reads 0xFF. -/
def putRec (s : State) (d sec u : Nat) (r : JRec) : State :=
  s.modFlash fun x => { x with param := writeBytes 0xFF x.param (paramKey d (13 + sec) u) (recBytes d r) }

/-- The journal sector of die `d` that is neither the current one nor the next erased, with the records in it. -/
def eraseOldest (s : State) (d sec : Nat) : State :=
  ((s.wipeParam d (13 + sec)).modJournal d fun l => l.filter fun r => r.sec != sec).modFlash fun x => { x with jErase := x.jErase.erase d }

/-- A record programmed at the journal's place (R217, R219): sequence in [31:16], sector in [13:12], next free unit in [9:0] of the word that
`FLC_JOURNAL` shows. Before the last unit of a sector the records that restart would still examine are copied into the next sector, and the
oldest one is erased; sag_hold holds that erase back (R222). -/
def putJournal (s : State) (d type row page planes : Nat) : State :=
  let w := SMap.get 0 s.flash.jpos d
  let seq := w / 65536 % 65536
  let sec := nbits w 13 12
  let u := nbits w 9 0
  let r : JRec := { type, row, page, seq, planes, sec }
  let next := (seq + 1) % 65536 * 65536
  if u < 1023 then
    ((s.putRec d sec u r).modJournal d (· ++ [r])).modFlash fun x =>
      { x with jpos := SMap.put 0 x.jpos d (next + sec * 4096 + (u + 1)) }
  else
    let to_ := (sec + 1) % 3
    let keep := (s.journal d).filter (stillOpen (s.journal d))
    let s := forEach keep.zipIdx (fun e t => t.putRec d to_ e.2 e.1) s
    let s := (s.putRec d sec u r).modJournal d fun l => l ++ keep.map (fun x => { x with sec := to_ }) ++ [r]
    let s := s.modFlash fun x => { x with jpos := SMap.put 0 x.jpos d (next + to_ * 4096 + keep.length), jErase := x.jErase ++ [d] }
    if s.flag Fld.flcStatus_sagHold then s else s.eraseOldest d ((sec + 2) % 3)

/-- A journal record written; under sag_hold only a CUT record is, and any other waits (R222). -/
def journalWrite (s : State) (d type row page planes : Nat) : State :=
  if s.flag Fld.flcStatus_sagHold && type != recCut then
    s.modFlash fun x => { x with recDue := x.recDue ++ [{ die := d, type, row, page, planes }] }
  else s.putJournal d type row page planes

/-- What sag_hold held back of the parameter array is written when the flag clears (R222). -/
def paramRelease (s : State) : State :=
  let f := s.flash
  let s := s.modFlash fun x => { x with tabDue := [], dirDue := false, parDue := [], recDue := [] }
  let s := forEach f.jErase (fun d t => t.eraseOldest d ((nbits (SMap.get 0 t.flash.jpos d) 13 12 + 1) % 3)) s
  let s := forEach f.recDue (fun r t => t.journalWrite r.die r.type r.row r.page r.planes) s
  let s := forEach f.tabDue (fun d t => t.writeTable d) s
  let s := if f.dirDue then s.writeDir else s
  forEach f.parDue (fun e t => t.storeParam e.1 e.2) s

/-! ### Restart (R192, R213, R231) -/

/-- The better of two copies, each with its generation: the one whose CRC holds and whose generation is higher (R192). -/
def newerCopy {α : Type} (gen : α → Nat) (a b : Option α) : Option α :=
  match a, b with
  | none, y => y
  | x, none => x
  | some x, some y => if gen x < gen y then some y else some x

/-- Copy `k` of a die's table (0) or directory (1) whose CRC does not hold (R192): it is no copy any more, and the bytes of a directory are free
values (log entry 42). -/
def spoilCopy (s : State) (d table k : Nat) : State :=
  if table = 0 then s.modFlash fun x => { x with tabs := SMap.put (some {}) x.tabs (d * 2 + k) none }
  else
    let l := (List.range 8256).map fun i => Config.dirByte (2 ^ 32 + d * 2 + k) i
    s.modFlash fun x => { x with dirs := SMap.put (some {}) x.dirs (d * 2 + k) none,
                                 param := writeBytes 0xFF x.param (paramKey d (11 + k) 0) l }

/-- Die `d`'s table read after a restart. Both copies unreadable put the die out of service (R213). -/
def readTable (s : State) (d : Nat) : State :=
  match newerCopy (·.gen) (s.tab d 0) (s.tab d 1) with
  | none =>
    (s.wr Fld.flcStatus_tableLost (s.rd Fld.flcStatus_tableLost ||| 2 ^ d)).wr Fld.flcStatus_held (s.rd Fld.flcStatus_held ||| 2 ^ d)
  | some c =>
    let s := s.modFlash fun x =>
      { x with bad := x.bad ++ c.bad, map := x.map ++ c.map, spare := x.spare ++ c.spare,
               scanned := if c.scanned then x.scanned ++ [d] else x.scanned, retired := (x.retired ++ c.retired).eraseDups }
    forEach c.reads (fun e t => t.modFlash fun x =>
      { x with blocks := SMap.put {} x.blocks e.1 { SMap.get {} x.blocks e.1 with reads := e.2 } }) s

/-- The directory read from the dies in service (R231), and copied to a die that holds an older one. No readable copy leaves the library EMPTY
(log entry 85). -/
def readDir (s : State) : State :=
  let own := fun (d : Nat) => if s.dieServes d then newerCopy DirCopy.gen (s.dir d 0) (s.dir d 1) else none
  match newerCopy DirCopy.gen (own 0) (own 1) with
  | none => s.modFlash fun x => { x with lib := [], writeSeq := 0 }
  | some c =>
    let s := s.modFlash fun x => { x with lib := c.lib, writeSeq := c.seq }
    let old := [0, 1].filter fun d => s.dieServes d && !((own d).map (·.gen) == some c.gen)
    if s.flag Fld.flcStatus_sagHold then s.modFlash fun x => { x with dirDue := x.dirDue || !old.isEmpty }
    else forEach old (fun d t =>
      let k := (olderCopy ((t.dir d 0).map (·.gen)) ((t.dir d 1).map (·.gen))).1
      t.modFlash fun x => { x with dirs := SMap.put (some {}) x.dirs (d * 2 + k) (some c) }) s

/-! ### The library (R230) -/

/-- Library entry `i`. -/
def lib (s : State) (i : Nat) : LibEntry := SMap.get {} s.flash.lib i
/-- Library entry `i` changed by `f`. -/
def modLib (s : State) (i : Nat) (f : LibEntry → LibEntry) : State :=
  s.modFlash fun x => { x with lib := SMap.put {} x.lib i (f (s.lib i)) }
/-- A library entry changed and the directory written (R231). -/
def putLib (s : State) (i : Nat) (f : LibEntry → LibEntry) : State := (s.modLib i f).writeDir
/-- A library entry's state set, with the period of the change (R230). -/
def setLibState (s : State) (i st : Nat) : State :=
  s.putLib i fun e => { e with st, period := s.periods % 2 ^ 32 }
/-- Whether both dies serve, so that the library's images are available (R231). -/
def libServes (s : State) : Bool := s.dieServes 0 && s.dieServes 1
/-- The image whose units hold a row. -/
def imageOfRow (s : State) (row : Nat) : Option Nat :=
  (List.range 64).find? fun i => let e := s.lib i; e.st != 0 && e.first ≤ row && row < e.first + e.units
/-- Whether a row belongs to a valid image (R198). -/
def rowValid (s : State) (row : Nat) : Bool := (s.imageOfRow row).any fun i => (s.lib i).st == 2
/-- Units that images occupy or that are retired. -/
def unitTaken (s : State) (u : Nat) : Bool := (s.imageOfRow u).isSome || s.flash.retired.contains u
/-- The first of `n` free units in a row, lowest first. -/
def freeUnits (s : State) (n : Nat) : Option Nat :=
  (List.range (Config.flashUnits + 1 - n)).find? fun u => (List.range n).all fun i => !s.unitTaken (u + i)

end State
end Sys2Proof.Machine
end

