-- ==== Sys2Proof/Machine/Directory.lean ====
section
/-!
DEFINITION. The object directory and the homes of objects (06, R154 to R167): allocation, pins, entry states, the bytes of an object in
its tier, the ends of moves and revokes.
-/
namespace Sys2Proof.Machine

/-- The port of a caller whose port has gone down: no port, so that its replies are dropped (R415). -/
def noPort : Nat := 255

/-- Tile bytes of R159: format, MX flag, Gust variant; 0 where the table has no size. -/
def tileBytes (fmt : Nat) (mx : Bool) (gust : Nat) : Nat :=
  match fmt, mx, gust with
  | 0x0, false, 0 => 16384
  | 0x1, false, 0 => 8192
  | 0x2, false, 0 => 8192
  | 0x1, false, 1 => 5760
  | 0x2, false, 2 => 7296
  | 0x3, false, 0 => 4096
  | 0x4, false, 0 => 4096
  | 0x3, true, 0 => 4224
  | 0x4, true, 0 => 4224
  | 0x3, false, 3 => 3200
  | 0x4, false, 4 => 2688
  | 0x8, false, 0 => 4096
  | 0x8, true, 0 => 4224
  | 0x5, false, 0 => 3072
  | 0x6, false, 0 => 3072
  | 0x5, true, 0 => 3200
  | 0x6, true, 0 => 3200
  | 0x7, false, 0 => 2048
  | 0x7, true, 0 => 2176
  | 0x9, false, 0 => 2048
  | 0xA, false, 0 => 832
  | 0xB, false, 0 => 4096
  | _, _, _ => 0

/-- Tile bytes of an entry. -/
def DirEntry.tile (e : DirEntry) : Nat := tileBytes e.fmt e.mx e.gust
/-- Bytes of an entry's object: its pages when a window (R174), else its tiles. -/
def DirEntry.bytes (e : DirEntry) : Nat := if e.window then e.tiles * 4096 else e.tiles * e.tile

/-- The 32 bytes of an entry (R158). -/
def DirEntry.encode (e : DirEntry) : List Byte :=
  leBytes 8 (e.st + e.home * 2 ^ 3 + e.dest * 2 ^ 5 + b2n e.window * 2 ^ 7 + e.fmt * 2 ^ 8 + b2n e.mx * 2 ^ 12 + e.gust * 2 ^ 13 +
      e.grant * 2 ^ 16 + e.owner % 256 * 2 ^ 24 + e.pins * 2 ^ 32 + b2n e.defer * 2 ^ 48 + b2n e.originEn * 2 ^ 49 + b2n e.ro * 2 ^ 50) ++
    leBytes 8 e.addr ++ leBytes 8 (e.tiles + e.parent.getD 0 * 2 ^ 32) ++ leBytes 8 (e.image + e.originTile * 2 ^ 32)

/-- Entry states of R158. -/
def stResident : Nat := 1
/-- MOVING. -/
def stMoving : Nat := 2
/-- REVOKING. -/
def stRevoking : Nat := 3
/-- LOST. -/
def stLost : Nat := 4

/-- Whether an object move carries its tiles by fetch legs: it leaves T2 or T3, or goes to T3 (R168, R171). -/
def Obj.byLegs (x : Obj) : Bool := x.e.st == stMoving && x.load == 0 && x.e.dest != 2 && (x.e.home != 1 || x.e.dest == 3)

namespace State

/-- Objects that have an entry other than FREE. -/
def objNums (s : State) : List Nat := SMap.keys s.tier.objs
/-- FREE entries (`TIE_DIR_FREE`). -/
def dirFree (s : State) : Nat := 131072 - s.tier.fresh + s.tier.freed.length

/-- An entry allocated (R162): the lowest that was never used, then the one free longest. -/
def allocObj (s : State) (o : Obj) : Option (Nat × State) :=
  if s.tier.fresh < 131072 then
    some (s.tier.fresh, (s.modTier fun t => { t with fresh := t.fresh + 1 }).modObj s.tier.fresh fun _ => o)
  else match s.tier.freed with
    | [] => none
    | n :: r => some (n, (s.modTier fun t => { t with freed := r }).modObj n fun _ => o)

/-- Entry `o` returned to FREE (R162, R164): at once when it has no pins, else when the last is removed. -/
def freeObj (s : State) (o : Nat) : State :=
  if (s.obj o).e.st = 0 then s
  else if (s.obj o).e.pins ≠ 0 then s.modObj o fun x => { x with dying := true }
  else (s.modObj o fun _ => {}).modTier fun t => { t with freed := t.freed ++ [o] }

/-! ### T1 space (R155, R183, R432) -/

/-- The T1 ranges in use: homes and move destinations, the spill area at the end of each slice (log entry 24), retired frames. -/
def t1Used (s : State) : List (Nat × Nat) :=
  (s.tier.objs.filterMap fun e => if e.2.e.home = 1 then some (e.2.e.addr, e.2.e.bytes) else none) ++
  (s.tier.objs.filterMap fun e => if e.2.e.st = stMoving ∧ e.2.e.dest = 1 then some (e.2.destAddr, e.2.e.bytes) else none) ++
  (List.range 8).map (fun c => ((c + 1) * Config.sliceBytes - Config.spillPerSlice, Config.spillPerSlice)) ++
  s.tier.retired.map fun f => (f * 65536, 65536)

/-- Whether `n` bytes at `a` meet no used range. -/
def t1Clear (l : List (Nat × Nat)) (a n : Nat) : Bool := l.all fun r => a + n ≤ r.1 || r.1 + r.2 ≤ a

/-- The lowest 4 KiB boundary of slice `c` with `n` free bytes (R155, log entry 24). -/
def t1Find (s : State) (c n : Nat) : Option Nat :=
  let lo := c * Config.sliceBytes
  let l := s.t1Used
  let cand := lo :: (l.map fun r => cdiv (r.1 + r.2) 4096 * 4096)
  argMin id (cand.filter fun a => lo ≤ a && a + n ≤ lo + Config.sliceBytes && t1Clear l a n)

/-- T1 bytes that span `sp`'s objects take (R155). -/
def t1Bytes (s : State) (sp : Nat) : Nat :=
  (s.tier.objs.map fun e =>
    if e.2.e.st ≠ stLost ∧ e.2.e.grant.testBit sp ∧ (e.2.e.home = 1 ∨ e.2.e.st = stMoving ∧ e.2.e.dest = 1) then e.2.e.bytes else 0).sum

/-- The free part of a span's DRAM share. -/
def shareFree (s : State) (sp : Nat) : Nat := (s.span sp).cfg.dram - s.t1Bytes sp

/-- Whether every span that a grant names has `n` bytes of its share left. -/
def shareHolds (s : State) (grant n : Nat) : Bool := (bitList grant 8).all fun sp => n ≤ s.shareFree sp

/-! ### Bytes of objects -/

/-- The port whose host memory holds a T3 home (R157): the owner's, or that of the window it lies in. -/
def t3Port (s : State) (e : DirEntry) : Nat := (match e.parent with
  | none => e.owner
  | some w => (s.obj w).e.owner) - 1
/-- Key of a byte of a port's host memory. -/
def hostKey (p a : Nat) : Nat := p * 2 ^ 64 + a

/-- `n` bytes of an object from `off`, from the home that serves reads (R165). -/
def objRead (s : State) (o off n : Nat) : List Byte :=
  let e := (s.obj o).e
  match e.home with
  | 1 => readBytes 0 s.tier.dram (e.addr + off) n
  | 2 => s.flashRead (e.addr + off) n
  | 3 => readBytes 0 s.tier.host (hostKey (s.t3Port e) (e.addr + off)) n
  | _ => List.replicate n 0

/-- Bytes written to DRAM; the lines written whole carry valid check bits from then on (R181), and count as rewritten (R184). -/
def dramWrite (s : State) (a : Nat) (l : List Byte) : State :=
  let whole := fun (k : Nat) => a ≤ k * 64 && k * 64 + 64 ≤ a + l.length
  s.modTier fun t => { t with
    dram := writeBytes 0 t.dram a l
    poison := t.poison.filter fun k => !whole k
    ueAt := t.ueAt.map fun e => (e.1, e.2 || whole e.1) }

/-- Bytes written at a home of tier `tier`. -/
def homeWrite (s : State) (e : DirEntry) (tier addr off : Nat) (l : List Byte) : State :=
  match tier with
  | 1 => s.dramWrite (addr + off) l
  | 3 => s.modTier fun t => { t with host := writeBytes 0 t.host (hostKey (s.t3Port e) (addr + off)) l }
  | _ => s

/-- Bytes of an object written by what came at place `order` of the issue order: held while the object moves (R165); a T2 home is never
written (R156). -/
def objWrite (s : State) (order o off : Nat) (l : List Byte) : State :=
  let x := s.obj o
  if x.e.st = stMoving ∧ x.load = 0 then s.modObj o fun x => { x with writes := x.writes ++ [{ order, off, bytes := l, poison := [] }] }
  else s.homeWrite x.e x.e.home x.e.addr off l

/-- Lines of T1 poisoned: `js` counts from byte address `a`. -/
def poisonT1 (s : State) (a : Nat) (js : List Nat) : State :=
  if js.isEmpty then s else s.modTier fun t => { t with poison := (t.poison ++ js.map fun j => a / 64 + j).eraseDups }

/-- The lines `js` of what was just written to an object at `off` poisoned (R120): at its T1 home, or in the held write (R165). -/
def objSpoil (s : State) (o off : Nat) (js : List Nat) : State :=
  let x := s.obj o
  if x.e.st = stMoving ∧ x.load = 0 then
    s.modObj o fun x => { x with writes := x.writes.map fun w => if w.off = off then { w with poison := js } else w }
  else if x.e.home = 1 then s.poisonT1 (x.e.addr + off) js else s

/-- Offsets, in lines, of the poisoned lines that `n` bytes of an object from `off` touch (R181). -/
def objPoison (s : State) (o off n : Nat) : List Nat :=
  let e := (s.obj o).e
  if e.home = 1 then
    ((List.range (cdiv (off % 64 + n) 64)).filter fun i => s.tier.poison.contains ((e.addr + off) / 64 + i))
  else []

/-! ### Pins, revokes, losses -/

/-- A pin added (R163). -/
def pin (s : State) (o : Nat) : State := s.modObj o fun x => { x with e := { x.e with pins := x.e.pins + 1 } }

/-- Whether fetch legs of object `o` have been issued and are still out; one that waits for a slot has not been issued (R142, R176). -/
def legsOf (s : State) (o : Nat) : Bool := s.tier.legs.any (·.obj == o)

/-- A REVOKING object with its earlier legs complete and no pins becomes FREE, with the final reply of its OBJ_REVOKE (R164, R176). -/
def revokeEnd (s : State) (o : Nat) : State :=
  let x := s.obj o
  if x.e.st = stRevoking ∧ x.e.pins = 0 ∧ !s.legsOf o then
    let s := s.freeObj o
    match x.revoking with
    | some h => s.fin h.who 0x00
    | none => s
  else s

/-- A pin removed (R163). -/
def unpin (s : State) (o : Nat) : State :=
  let s := s.modObj o fun x => { x with e := { x.e with pins := x.e.pins - 1 } }
  if (s.obj o).dying ∧ (s.obj o).e.pins = 0 then s.freeObj o else s.revokeEnd o

/-- A FINAL reply for a held command, if there is one. -/
def finHeld (s : State) (h : Option HeldCmd) (status : Nat) : State :=
  match h with
  | some h => s.fin h.who status
  | none => s

/-- Objects that lie, or are about to lie, in window `w`. -/
def children (s : State) (w : Nat) : List Nat :=
  (s.tier.objs.filter fun e => e.2.e.parent == some w && (e.2.e.st == stResident || e.2.e.st == stMoving) &&
    (e.2.e.home == 3 || e.2.e.dest == 3)).map (·.1)

/-- An object enters REVOKING (R164), and FREE when nothing holds it. -/
def startRevoke (s : State) (o : Nat) (h : HeldCmd) : State :=
  (s.modObj o fun x => { x with e := { x.e with st := stRevoking }, revoke := none, revoking := some h }).revokeEnd o

/-- A window whose revoke waits enters REVOKING when none of its objects is left (R177). -/
def drainWindow (s : State) (w : Nat) : State :=
  let x := s.obj w
  match x.revoke with
  | some h => if x.e.window && x.e.st == stResident && (s.children w).isEmpty then s.startRevoke w h else s
  | none => s

/-- The window that an object has left, if any, looked at again (R177). -/
def leaveWindow (s : State) (w : Option Nat) : State := match w with
  | some w => s.drainWindow w
  | none => s

/-- An object becomes LOST (R164, R178): commands that wait on it end with 0x51 (R179). -/
def loseObj (s : State) (o : Nat) : State :=
  let x := s.obj o
  if x.e.st = stResident ∨ x.e.st = stMoving then
    let s := s.modObj o fun x => { x with e := { x.e with st := stLost, dest := 0, defer := false }, slot := false, placing := none,
                                          place := none, revoke := none, writes := [] }
    let s := s.wr Fld.tieStatus_lost 1
    (((s.finHeld x.placing 0x51).finHeld x.place 0x51).finHeld x.revoke 0x51).leaveWindow x.e.parent
  else s

/-- Slots of the issued-move pool in use (R142): moves of steward firmware and the step sequencers, object moves, and relay legs. -/
def issuedUsed (s : State) : Nat :=
  s.tier.moves.length + (s.tier.objs.filter fun e => e.2.slot).length + (s.tier.legs.filter fun l => l.engine == 59).length +
    (s.kv.pieces.filter (·.early)).length

/-- Fetch legs that hold slots of their pool (R142). -/
def legsUsed (s : State) : Nat := (s.tier.legs.filter fun l => l.engine != 59).length

/-- The start of an object move (R164): the destination reserved, `dest` set, and a slot of the issued-move pool taken when one is free
(R142). -/
def moveObj (s : State) (o tier addr : Nat) (parent : Option Nat) (cmd : Option HeldCmd) : State :=
  let room := s.issuedUsed < 512
  s.modObj o fun x => { x with e := { x.e with st := stMoving, dest := tier, parent := if tier = 3 then parent else x.e.parent },
                               destAddr := addr, slot := room, sent := 0, got := 0, placing := cmd }

/-- A registered window of port `p`, with a grant that `ok` accepts, with room for `n` bytes at a 4 KiB boundary: the window and the bus
address (R157). -/
def windowRoom (s : State) (p n : Nat) (ok : Nat → Bool) : Option (Nat × Nat) :=
  (s.tier.objs.filterMap fun (w, x) =>
    if x.e.window ∧ ok x.e.grant ∧ x.e.st = stResident ∧ x.revoke = none ∧ x.e.owner = portIdent p then
      let used := s.tier.objs.filterMap fun (_, y) =>
        if y.e.parent = some w ∧ !y.e.window then
          (if y.e.home = 3 then some (y.e.addr, y.e.bytes)
           else if y.e.st = stMoving ∧ y.e.dest = 3 then some (y.destAddr, y.e.bytes) else none)
        else none
      let cand := x.e.addr :: (used.map fun r => cdiv (r.1 + r.2) 4096 * 4096)
      (argMin id (cand.filter fun a => a + n ≤ x.e.addr + x.e.bytes && t1Clear used a n)).map fun a => (w, a)
    else none).head?

/-- A placement in a tier (R166, R174, R175): `none` when the tier has no room. A move from T1 to T2 moves no data. A data object goes to
its own port's windows, a device object to the first port's that has room (log entry 72). -/
def placeObj (s : State) (o tier col : Nat) (cmd : Option HeldCmd) : Option State :=
  let x := s.obj o
  match tier with
  | 1 =>
    if x.e.home ≠ 1 ∧ !s.shareHolds x.e.grant x.e.bytes then none
    else (s.t1Find col x.e.bytes).map fun a => s.moveObj o 1 a none cmd
  | 2 => some (s.moveObj o 2 ((s.lib x.e.image).first * 2 ^ 30 + x.e.originTile * x.e.tile) none cmd)
  | 3 =>
    if x.buffer ≠ 0 then some (s.moveObj o 3 (x.buffer - 1) none cmd)
    else
      let ports := if x.e.owner = 0 then List.range 4 else [x.e.owner - 1]
      (ports.findSome? fun p => s.windowRoom p x.e.bytes fun _ => true).map fun (w, a) => s.moveObj o 3 a (some w) cmd
  | _ => none

/-! ### Fetch legs (R142, R168, R206) -/

/-- Whether a flash operation is a page read of a relay leg (R236). -/
def relayRead (s : State) (id : Nat) : Bool := s.flash.ops.any fun o => o.id == id && o.leg.isSome && o.job.isSome

/-- The waiting read that a plane takes next: two at most are with it (R206), relay legs go last and hold at most one (R241). -/
def nextRead (s : State) (p : Plane) : Option Nat :=
  if 2 ≤ p.reads.length then none
  else match p.waitR.find? fun id => !s.relayRead id with
    | some id => some id
    | none => if p.reads.any s.relayRead then none else p.waitR.head?

/-- A plane takes the waiting reads that it has room for. -/
def fillReads (s : State) (d k : Nat) : Nat → State
  | 0 => s
  | n + 1 =>
    match s.nextRead (s.plane d k) with
    | none => s
    | some id => (s.modPlane d k fun p => { p with reads := p.reads ++ [id], waitR := p.waitR.erase id }).fillReads d k n

/-- A page read queued at its plane (R206). -/
def queueRead (s : State) (d k id : Nat) : State := (s.modPlane d k fun p => { p with waitR := p.waitR ++ [id] }).fillReads d k 2

/-- The descriptor of a one-plane page read (R196). -/
def pageReadWord (f : FlashAddr) : Inst256 :=
  BitVec.ofNat 256 (0x01 + f.die * 2 ^ 8 + f.row * 2 ^ 16 + f.page * 2 ^ 32 + 2 ^ (64 + f.plane))

/-- The 16 KiB pieces that `n` bytes at a flash address touch. -/
def pagesOf (a n : Nat) : List FlashAddr :=
  (List.range ((a + n - 1) / 16384 + 1 - a / 16384)).map fun i => flashAddr ((a / 16384 + i) * 16384)

/-- A T2 leg that has its slot queues the reads of the pages that `n` bytes at flash address `a` touch; a load's legs carry its number. -/
def startPages (s : State) (l : Leg) (a n : Nat) (job : Option Nat) : State :=
  let pages := pagesOf a n
  let s := s.modTier fun t => { t with legs := t.legs ++ [{ l with rest := pages.length }] }
  forEach pages (fun f t =>
    let id := t.flash.nextId
    let o : FlashOp := { id, writer := 0, w := pageReadWord f, left := [f.plane], status := 0, badPl := 0, job, leg := some l.id,
                         opened := false, page := 0, target := 0 }
    (t.modFlash fun x => { x with nextId := id + 1, ops := x.ops ++ [o] }).queueRead f.die f.plane id) s

/-- A leg that has its slot: a T2 leg queues the reads of the pages that its tile touches. -/
def startLeg (s : State) (l : Leg) : State :=
  if l.tier = 2 then
    let e := (s.obj l.obj).e
    s.startPages l (e.addr + l.tile * e.tile) e.tile none
  else s.modTier fun t => { t with legs := t.legs ++ [l] }

/-- A leg that can no longer be served ends with 0x11 (R160, R176): its move writes no more. -/
def failLeg (s : State) (l : Leg) : State :=
  let s := s.modTier fun t => { t with legs := t.legs.filter fun x => !(x.id == l.id), legWait := t.legWait.filter fun x => !(x.id == l.id) }
  if l.engine ≤ 56 then
    s.modMoves l.engine fun ms => ms.map fun m => if m.id == l.move then { m with legs := m.legs - 1, failed := true } else m
  else s

/-- Moving objects issue the legs of their next tiles as slots are free (R142, R164). -/
def pumpObj (s : State) (o : Nat) : State :=
  let x := s.obj o
  if !(x.slot && x.byLegs) then s
  else
    let n := min (1536 - s.legsUsed) (x.e.tiles - x.sent)
    let s := s.modObj o fun x => { x with sent := x.sent + n }
    forEach (List.range n) (fun i t =>
      let id := t.tier.nextLeg
      (t.modTier fun y => { y with nextLeg := id + 1 }).startLeg
        { id, engine := 57, move := o, obj := o, tile := x.sent + i, write := x.e.home == 1, tier := if x.e.home = 1 then 3 else x.e.home,
          port := if x.e.home = 2 then noPort else s.t3Port x.e, rest := 0, bad := false }) s

/-- Waiting legs take free slots of the pool of 1,536 (R142), and then the next tiles of moving objects; a leg whose object can no longer be
named fails instead (R176). -/
def pumpLegs (s : State) : State :=
  let s := forEach s.tier.legWait (fun l t =>
    let st := (t.obj l.obj).e.st
    if l.engine ≤ 57 ∧ st ≠ stResident ∧ st ≠ stMoving then t.failLeg l
    else if t.legsUsed < 1536 then
      (t.modTier fun x => { x with legWait := x.legWait.filter fun y => !(y.id == l.id) }).startLeg l
    else t) s
  forEach (s.tier.objs.filter fun e => e.2.slot && e.2.byLegs && e.2.sent < e.2.e.tiles) (fun e t => t.pumpObj e.1) s

/-- Object moves that wait for a slot of the issued-move pool take one when it is free (R142). -/
def pumpMoves (s : State) : State :=
  (forEach (s.tier.objs.filter fun e => e.2.e.st == stMoving && e.2.load == 0 && !e.2.slot) (fun e t =>
    if t.issuedUsed < 512 then t.modObj e.1 fun x => { x with slot := true } else t) s).pumpLegs

/-! ### Channels (R126, R130) -/

/-- The T1 address of line `n` of physical channel `ch` through the edge crossbars; `none` where no slot maps to the channel. -/
def lineAddr (s : State) (ch n : Nat) : Option Nat :=
  let st := ch / 17
  let used := if st = 0 then s.flag Fld.tieSlotMap_s0Used else s.flag Fld.tieSlotMap_s1Used
  let moved := if st = 0 then s.rd Fld.tieSlotMap_s0Slot else s.rd Fld.tieSlotMap_s1Slot
  let slot := if ch % 17 = 16 then (if used then some moved else none) else if used && moved == ch % 17 then none else some (ch % 17)
  slot.map fun j => j / 2 * Config.sliceBytes + (n / 4 * 4 + st + 2 * (j % 2)) * 256 + n % 4 * 64

/-- The physical channel and line of T1 address `a` (R126, R130). -/
def channelOf (s : State) (a : Nat) : Nat × Nat :=
  let o := a % Config.sliceBytes
  let st := o / 256 % 2
  let j := a / Config.sliceBytes * 2 + o / 512 % 2
  let used := if st = 0 then s.flag Fld.tieSlotMap_s0Used else s.flag Fld.tieSlotMap_s1Used
  let moved := if st = 0 then s.rd Fld.tieSlotMap_s0Slot else s.rd Fld.tieSlotMap_s1Slot
  (st * 17 + (if used && moved == j then 16 else j), o / 1024 * 4 + o % 256 / 64)

/-- Lines of a channel. -/
def channelLines : Nat := Config.sliceBytes / 4 / 64

end State
end Sys2Proof.Machine
end

