-- ==== Sys2Proof/Machine/Numbers.lean ====
section
/-!
DEFINITION. Number formats and arithmetic (02, R33 to R61, R528): exact dyadic values, rounding, FP32 arithmetic, the conversions,
the OCP MX forms, and the xorshift generator of R529.
-/
namespace Sys2Proof.Machine

/-- A number as R35 reads a bit pattern: NaN, an infinity, or (−1)^neg × m × 2^e. -/
inductive Num where
  | nan
  | inf (neg : Bool)
  | fin (neg : Bool) (m : Nat) (e : Int)
  deriving DecidableEq, Repr

/-- Which special values a float format has (R35): Inf and NaN, the one NaN of E4M3, or none. -/
inductive Special where
  | ieee | e4m3 | finite
  deriving DecidableEq, Repr

/-- A float layout of R35. -/
structure FloatFmt where
  eb   : Nat
  mb   : Nat
  bias : Nat
  sp   : Special
  deriving DecidableEq, Repr

/-- FP32. -/
def fp32 : FloatFmt := ⟨8, 23, 127, .ieee⟩

/-- The float formats by code (R33, R35). -/
def floatFmt : Nat → Option FloatFmt
  | 0x0 => some fp32
  | 0x1 => some ⟨8, 7, 127, .ieee⟩
  | 0x2 => some ⟨5, 10, 15, .ieee⟩
  | 0x3 => some ⟨4, 3, 7, .e4m3⟩
  | 0x4 => some ⟨5, 2, 15, .ieee⟩
  | 0x5 => some ⟨3, 2, 3, .finite⟩
  | 0x6 => some ⟨2, 3, 1, .finite⟩
  | 0x7 => some ⟨2, 1, 1, .finite⟩
  | _ => none

/-- Whether a format code is defined (R33). -/
def fmtOk (c : Nat) : Bool := c ≤ 0xB
/-- Bits of an element in storage; ternary is packed five to a byte and has no whole number (R33). -/
def elemBits : Nat → Nat
  | 0x0 => 32
  | 0x1 | 0x2 => 16
  | 0x5 | 0x6 => 6
  | 0x7 | 0x9 => 4
  | _ => 8
/-- Whether a format may carry MX scales (R34, R53). -/
def mxFmt (c : Nat) : Bool := c == 0x3 || c == 0x4 || c == 0x5 || c == 0x6 || c == 0x7 || c == 0x8
/-- The source format of a Gust variant (R62). -/
def gustFmt : Nat → Option Nat
  | 1 => some 0x1
  | 2 => some 0x2
  | 3 => some 0x3
  | 4 => some 0x4
  | _ => none
/-- Whether a Gust code goes with a format and MX flag (R34, R62, R63). -/
def gustOk (g fmt : Nat) (mx : Bool) : Bool := g == 0 || (gustFmt g == some fmt && !mx)

namespace FloatFmt

/-- The bit pattern of the greatest finite magnitude. -/
def maxRaw (f : FloatFmt) : Nat :=
  match f.sp with
  | .ieee => (2 ^ f.eb - 1) * 2 ^ f.mb - 1
  | .e4m3 => 2 ^ (f.eb + f.mb) - 2
  | .finite => 2 ^ (f.eb + f.mb) - 1
/-- The sign bit. -/
def signBit (f : FloatFmt) : Nat := 2 ^ (f.eb + f.mb)
/-- The pattern of an infinity's magnitude. -/
def infRaw (f : FloatFmt) : Nat := (2 ^ f.eb - 1) * 2 ^ f.mb
/-- The canonical NaN (R47). -/
def nanRaw (f : FloatFmt) : Nat :=
  match f.sp with
  | .ieee => f.infRaw + 2 ^ (f.mb - 1)
  | .e4m3 => 2 ^ (f.eb + f.mb) - 1
  | .finite => 0

/-- The value of a bit pattern (R35). -/
def decode (f : FloatFmt) (raw : Nat) : Num :=
  let neg := raw / f.signBit % 2 == 1
  let e := raw / 2 ^ f.mb % 2 ^ f.eb
  let m := raw % 2 ^ f.mb
  let special := match f.sp with
    | .ieee => e == 2 ^ f.eb - 1
    | .e4m3 => e == 2 ^ f.eb - 1 && m == 2 ^ f.mb - 1
    | .finite => false
  if special then (if f.sp == .ieee && m == 0 then .inf neg else .nan)
  else if e = 0 then .fin neg m (1 - (f.bias : Int) - f.mb)
  else .fin neg (2 ^ f.mb + m) ((e : Int) - f.bias - f.mb)

end FloatFmt

/-- The rounding mode of a code of R42; 5 to 7 are reserved. -/
def rndOf : Nat → Option Rounding
  | 0 => some .rne
  | 1 => some .rtz
  | 2 => some .rd
  | 3 => some .ru
  | 4 => some .sr
  | _ => none

/-- m ÷ 2^sh rounded to an integer; `rand` is the 32-bit draw of SR, added to the magnitude as a fraction of one unit (R42, R43). -/
def shiftRound (r : Rounding) (neg : Bool) (m sh rand : Nat) : Nat :=
  let q := m >>> sh
  let rest := m % 2 ^ sh
  match r with
  | .rne => if 2 ^ sh < 2 * rest ∨ (2 * rest = 2 ^ sh ∧ sh ≠ 0 ∧ q % 2 = 1) then q + 1 else q
  | .rtz => q
  | .rd => if neg ∧ rest ≠ 0 then q + 1 else q
  | .ru => if ¬neg ∧ rest ≠ 0 then q + 1 else q
  | .sr => (m * 2 ^ 32 + rand * 2 ^ sh) >>> (32 + sh)

/-- m × 2^e in units of 2^q, rounded. -/
def inUnits (r : Rounding) (neg : Bool) (m : Nat) (e q : Int) (rand : Nat) : Nat :=
  if q ≤ e then m * 2 ^ (e - q).toNat else shiftRound r neg m (q - e).toNat rand

/-- The bit pattern, without sign, of m × 2^e rounded to the precision of a format with an exponent that does not end: above `maxRaw`
the rounded value overflows. -/
def FloatFmt.magRaw (f : FloatFmt) (r : Rounding) (neg : Bool) (m : Nat) (e : Int) (rand : Nat) : Nat :=
  if m = 0 then 0
  else
    let x : Int := max ((Nat.log2 m : Int) + e) (1 - (f.bias : Int))
    (x + f.bias - 1).toNat * 2 ^ f.mb + inUnits r neg m e (x - f.mb) rand

/-- A sign with a magnitude pattern. -/
def FloatFmt.withSign (f : FloatFmt) (neg : Bool) (mag : Nat) : Nat := if neg then f.signBit + mag else mag

/-- A pattern for a narrowing conversion, and whether it wrote a NaN as zero (R50, R51). -/
def FloatFmt.narrow (f : FloatFmt) (r : Rounding) (sat : Bool) (rand : Nat) : Num → Nat × Bool
  | .nan => if f.sp == .finite then (0, true) else (f.nanRaw, false)
  | .inf neg => (f.withSign neg (if f.sp == .ieee && !sat then f.infRaw else f.maxRaw), false)
  | .fin neg m e =>
    let raw := f.magRaw r neg m e rand
    (f.withSign neg (if f.maxRaw < raw then (if f.sp == .ieee && !sat then f.infRaw else f.maxRaw) else raw), false)

/-- A two's complement integer of `w` bits from a number, and whether it wrote a NaN as zero (R50, R51). -/
def toInt (w : Nat) (r : Rounding) (rand : Nat) (x : Num) : Int × Bool :=
  let top : Int := 2 ^ (w - 1) - 1
  match x with
  | .nan => (0, true)
  | .inf neg => (if neg then -top - 1 else top, false)
  | .fin neg m e =>
    let n : Int := inUnits r neg m e 0 rand
    (if neg then max (-top - 1) (-n) else min top n, false)

/-- The number of an integer. -/
def ofInt (i : Int) (e : Int := 0) : Num := .fin (i < 0) i.natAbs e
/-- A two's complement field of `w` bits. -/
def signed (w raw : Nat) : Int := if raw < 2 ^ (w - 1) then raw else (raw : Int) - 2 ^ w
/-- A two's complement field of `w` bits from an integer. -/
def unsign (w : Nat) (i : Int) : Nat := (i % 2 ^ w).toNat

/-- The value of a ternary code: a trit is stored plus one, and code 3 stands for the zero of a byte of 243 or more (R38, R39). -/
def tritVal (raw : Nat) : Int := if raw = 3 then 0 else (raw : Int) - 1

/-- The value of an element's bit pattern without MX scale (R35, R37, R38). -/
def decodeElem (fmt raw : Nat) : Num :=
  match floatFmt fmt with
  | some f => f.decode raw
  | none =>
    if fmt = 0x8 then ofInt (signed 8 raw)
    else if fmt = 0x9 then ofInt (signed 4 raw)
    else if fmt = 0xA then ofInt (tritVal raw)
    else if raw = 255 then .nan else .fin false 1 ((raw : Int) - 127)

/-! ### FP32 arithmetic (R44, R46, R47, R528) -/

/-- An FP32 pattern for an exact result, overflowing as IEEE 754 lays down for the mode. -/
def packF32 (r : Rounding) : Num → F32
  | .nan => BitVec.ofNat 32 fp32.nanRaw
  | .inf neg => BitVec.ofNat 32 (fp32.withSign neg fp32.infRaw)
  | .fin neg m e =>
    let raw := fp32.magRaw r neg m e 0
    let top := match r with
      | .rtz => fp32.maxRaw
      | .rd => if neg then fp32.infRaw else fp32.maxRaw
      | .ru => if neg then fp32.maxRaw else fp32.infRaw
      | _ => fp32.infRaw
    BitVec.ofNat 32 (fp32.withSign neg (if fp32.maxRaw < raw then top else raw))

/-- The number of an FP32 pattern. -/
def numF32 (x : F32) : Num := fp32.decode x.toNat

/-- An exact sum; an exact zero of unlike signs takes the sign that the mode gives it (IEEE 754-2019). -/
def addNum (r : Rounding) : Num → Num → Num
  | .nan, _ => .nan
  | _, .nan => .nan
  | .inf a, .inf b => if a == b then .inf a else .nan
  | .inf a, _ => .inf a
  | _, .inf b => .inf b
  | .fin s m e, .fin t n f =>
    let q := min e f
    let a : Int := m * 2 ^ (e - q).toNat
    let b : Int := n * 2 ^ (f - q).toNat
    let c : Int := (if s then -a else a) + (if t then -b else b)
    if c = 0 then .fin (if m = 0 ∧ n = 0 ∧ s = t then s else r == .rd) 0 q
    else .fin (c < 0) c.natAbs q

/-- An exact product. -/
def mulNum : Num → Num → Num
  | .nan, _ => .nan
  | _, .nan => .nan
  | .inf s, .inf t => .inf (s != t)
  | .inf s, .fin t n _ => if n = 0 then .nan else .inf (s != t)
  | .fin s m _, .inf t => if m = 0 then .nan else .inf (s != t)
  | .fin s m e, .fin t n f => .fin (s != t) (m * n) (e + f)

/-- A quotient to 64 bits more than FP32 needs, its lowest bit set when inexact, so that one rounding of it is the correct one. -/
def divNum : Num → Num → Num
  | .nan, _ => .nan
  | _, .nan => .nan
  | .inf _, .inf _ => .nan
  | .inf s, .fin t _ _ => .inf (s != t)
  | .fin s _ _, .inf t => .fin (s != t) 0 0
  | .fin s m e, .fin t n f =>
    if n = 0 then (if m = 0 then .nan else .inf (s != t))
    else
      let k := 90 + Nat.log2 n
      let q := m * 2 ^ k / n
      let sticky := if m * 2 ^ k % n = 0 then 0 else 1
      .fin (s != t) (2 * q + sticky) (e - f - k - 1)

/-- FP32 addition. -/
def addF32 (r : Rounding) (a b : F32) : F32 := packF32 r (addNum r (numF32 a) (numF32 b))
/-- FP32 subtraction. -/
def subF32 (r : Rounding) (a b : F32) : F32 := addF32 r a (b ^^^ 0x80000000#32)
/-- FP32 multiplication. -/
def mulF32 (r : Rounding) (a b : F32) : F32 := packF32 r (mulNum (numF32 a) (numF32 b))
/-- FP32 fused multiply-add. -/
def fmaF32 (r : Rounding) (a b c : F32) : F32 := packF32 r (addNum r (mulNum (numF32 a) (numF32 b)) (numF32 c))
/-- FP32 division (R528). -/
def divF32 (r : Rounding) (a b : F32) : F32 := packF32 r (divNum (numF32 a) (numF32 b))

/-- Whether a number lies below another; false with a NaN. -/
def ltNum : Num → Num → Bool
  | .nan, _ => false
  | _, .nan => false
  | .inf s, .inf t => s && !t
  | .inf s, .fin _ _ _ => s
  | .fin _ _ _, .inf t => !t
  | .fin s m e, .fin t n f =>
    let q := min e f
    let a : Int := m * 2 ^ (e - q).toNat
    let b : Int := n * 2 ^ (f - q).toNat
    (if s then -a else a) < (if t then -b else b)
/-- Whether a < b as FP32 numbers. -/
def ltF32 (a b : F32) : Bool := ltNum (numF32 a) (numF32 b)
/-- Whether an FP32 pattern is a NaN. -/
def isNaN32 (a : F32) : Bool := numF32 a == .nan
/-- Whether an FP32 pattern is finite. -/
def isFin32 (a : F32) : Bool := match numF32 a with
  | .fin _ _ _ => true
  | _ => false
/-- Whether an FP32 pattern has its sign bit set. -/
def negF32 (a : F32) : Bool := bit a 31
/-- minimum of IEEE 754-2019: a NaN gives the canonical NaN, and −0 lies below +0. -/
def minF32 (a b : F32) : F32 :=
  if isNaN32 a || isNaN32 b then 0x7FC00000 else if ltF32 a b then a else if ltF32 b a then b else if negF32 a then a else b
/-- maximum of IEEE 754-2019. -/
def maxF32 (a b : F32) : F32 :=
  if isNaN32 a || isNaN32 b then 0x7FC00000 else if ltF32 b a then a else if ltF32 a b then b else if negF32 a then b else a
/-- −Inf. -/
def negInf : F32 := 0xFF800000
/-- FP32 of a natural number (RNE). -/
def natF32 (n : Nat) : F32 := packF32 .rne (.fin false n 0)

/-- The canonical NaN for every NaN (R47). -/
def canonNaN (a : F32) : F32 := if isNaN32 a then 0x7FC00000 else a

/-! ### The assists of the vector unit (R46, log entry 16) -/

/-- ⌊ln 2 × 2^160⌋. -/
def ln2Fix : Nat := 0xb17217f7d1cf79abc9e3b39803f2f6af40f34326

/-- The terms of e^r from the n-th on, `t` the n-th, in units of 2^-160; `r` is in the same units. -/
def expSeries (r : Nat) : Nat → Nat → Nat → Nat
  | 0, _, _ => 0
  | k + 1, n, t => t + expSeries r k (n + 1) (t * r / 2 ^ 160 / (n + 1))

/-- A value within 2 units in the last place of one whose pattern, rounded toward zero, is `raw`: from one unit below to two above it, and two
below when `raw` is exact. -/
def withinUlps (op : Nat) (a : F32) (raw : Nat) (exact : Bool) : Nat :=
  let k := Config.ulpChoice op a
  min fp32.infRaw (if exact then raw + k % 5 - 2 else raw + k % 4 - 1)

/-- The exponential assist on a number given in units of 2^-160, `unit` being the binary logarithm's unit there: 2^x has 2^160, e^x has ln 2. It
overflows to +Inf (R46); a result below the normal range is a free value. -/
def expBy (op unit : Nat) (a : F32) (x : Int) : F32 :=
  let i := x / unit
  let r := (x % unit).toNat * (if unit = ln2Fix then 2 ^ 160 else ln2Fix) / 2 ^ 160
  if 127 < i then BitVec.ofNat 32 fp32.infRaw
  else if i < -126 then canonNaN (Config.beyondAssist op a)
  else
    let y := expSeries r 48 0 (2 ^ 160)
    BitVec.ofNat 32 (withinUlps op a ((i + 127).toNat * 2 ^ 23 + (y / 2 ^ 137 - 2 ^ 23)) (r == 0))

/-- An exponential assist with the special operands: a NaN gives the canonical NaN, +Inf itself, −Inf gives +0. -/
def expAssist (op unit : Nat) (a : F32) : F32 :=
  match numF32 a with
  | .nan => 0x7FC00000
  | .inf neg => if neg then 0 else a
  | .fin s m e =>
    let x : Int := m * 2 ^ (e + 160).toNat
    expBy op unit a (if s then -x else x)

/-- 2^x (R46). -/
def exp2F32 (a : F32) : F32 := expAssist 0 (2 ^ 160) a
/-- e^x (R46). -/
def expF32 (a : F32) : F32 := expAssist 1 ln2Fix a

/-- The reciprocal (R46): that of ±0 is ±Inf; a result outside the normal range is a free value. -/
def recipF32 (a : F32) : F32 :=
  match numF32 a with
  | .nan => 0x7FC00000
  | .inf _ => canonNaN (Config.beyondAssist 2 a)
  | .fin s m e =>
    if m = 0 then BitVec.ofNat 32 (fp32.withSign s fp32.infRaw)
    else
      let raw := match divNum (.fin false 1 0) (.fin false m e) with
        | .fin _ q f => fp32.magRaw .rtz false q f 0
        | _ => 0
      if raw < 2 ^ 23 ∨ fp32.maxRaw < raw then canonNaN (Config.beyondAssist 2 a)
      else BitVec.ofNat 32 (fp32.withSign s (withinUlps 2 a raw (m == 2 ^ Nat.log2 m)))

/-- The reciprocal square root, formed from the reciprocal with a fused multiply-add (R94). -/
def rsqrtF32 (a : F32) : F32 := fmaF32 .rne (recipF32 a) (Config.rsqrtScale a) (Config.rsqrtAdd a)

/-- Log-sum-exp of two values, whose identity is −Inf (R95). -/
def lseF32 (a b : F32) : F32 :=
  if isNaN32 a || isNaN32 b then 0x7FC00000
  else if a = negInf then b else if b = negInf then a else canonNaN (Config.lseAssist a b)

/-! ### The array (R44, R45, R58, R60) -/

/-- FP32 with subnormal results flushed to signed zero (R44). -/
def flushF32 (x : F32) : F32 := if bits x 30 23 = 0 then x &&& 0x80000000#32 else x

/-- A product as the array forms it: exact, ±Inf above the FP32 range, signed zero below it (R44; log entry 32). -/
def arrayProduct (a b : Num) : Num :=
  match mulNum a b with
  | .fin s m e =>
    if m = 0 then .fin s 0 0
    else if (Nat.log2 m : Int) + e < -149 then .fin s 0 0
    else if (127 : Int) < (Nat.log2 m : Int) + e then .inf s
    else .fin s m e
  | x => x

/-- The array's addition into an FP32 sum: RNE, subnormals flushed (R44). -/
def accAdd (acc : F32) (x : Num) : F32 := flushF32 (packF32 .rne (addNum .rne (numF32 acc) x))

/-- An INT32 addition that saturates, and whether it did (R45). -/
def satAdd (a b : Int) : Int × Bool :=
  let c := a + b
  if 2147483647 < c then (2147483647, true) else if c < -2147483648 then (-2147483648, true) else (c, false)

/-- Whether the array accepts a weight and activation format pair (R58, R59). -/
def pairOk (w a : Nat) : Bool :=
  (w == 0x1 && a == 0x1) || (w == 0x2 && a == 0x2) ||
  ((w == 0x1 || w == 0x2) && (a == 0x3 || a == 0x4)) ||
  ((w == 0x3 || w == 0x4) && (a == 0x3 || a == 0x4)) ||
  ((w == 0x5 || w == 0x6) && (a == 0x3 || a == 0x4 || a == 0x5 || a == 0x6)) ||
  (w == 0x8 && a == 0x8) ||
  (w == 0x7 && (a == 0x3 || a == 0x4)) ||
  ((w == 0x9 || w == 0xA) && (a == 0x8 || a == 0x3 || a == 0x4))

/-- Whether a pair without MX accumulates in INT32 (R58). -/
def pairInt (w a : Nat) : Bool := a == 0x8 && (w == 0x8 || w == 0x9 || w == 0xA)
/-- Whether the weights double the columns: 4-bit and ternary formats (R91). -/
def doubleW (w : Nat) : Bool := w == 0x7 || w == 0x9 || w == 0xA
/-- Pair rate of R58 in quarters. -/
def pairQuarters (w : Nat) : Nat := if w == 0x1 || w == 0x2 then 1 else if doubleW w then 8 else 4

/-! ### The generator of R529 -/

/-- One advance of the xorshift state, whose new value is the output. -/
def xorshift (x : BitVec 32) : BitVec 32 :=
  let x := x ^^^ (x <<< 13)
  let x := x ^^^ (x >>> 17)
  x ^^^ (x <<< 5)
/-- The state that a seed gives. -/
def seedRng (v : BitVec 32) : BitVec 32 := if v = 0 then 0x9E3779B9 else v

/-! ### Element conversion (R49 to R51) and OCP MX (R53 to R56) -/

/-- A bit pattern of format `fmt` for a number, and whether it wrote a NaN as zero. -/
def encodeElem (fmt : Nat) (r : Rounding) (sat : Bool) (rand : Nat) (x : Num) : Nat × Bool :=
  match floatFmt fmt with
  | some f => f.narrow r sat rand x
  | none =>
    let w := if fmt = 0x9 then 4 else 8
    let y := toInt w r rand x
    (unsign w y.1, y.2)

/-- Conversion sites of R49. -/
inductive Site where
  | vectorRead | vectorWrite | destagger | moveConverter
  deriving DecidableEq, Repr

/-- Whether R49 lets a plain element conversion happen at a site in a rounding mode (RNE only, modes 0 to 3, or 0 to 4). -/
def convOk (site : Site) (src dst : Nat) (r : Rounding) : Bool :=
  let wide := src ≤ 0x9 && dst == 0x0
  let fp32Narrow := src == 0x0 && (dst == 0x1 || dst == 0x2 || dst == 0x3 || dst == 0x4)
  let fp32Low := src == 0x0 && (dst == 0x5 || dst == 0x6 || dst == 0x7 || dst == 0x8 || dst == 0x9)
  let half8 := (src == 0x1 || src == 0x2) && (dst == 0x3 || dst == 0x4)
  let halves := ((src == 0x1 && dst == 0x2) || (src == 0x2 && dst == 0x1)) && r != .sr
  match site with
  | .vectorRead => wide
  | .vectorWrite => dst == src || fp32Narrow || fp32Low
  | .destagger => dst == src || fp32Narrow || half8
  | .moveConverter => wide || fp32Narrow || fp32Low || half8 || halves

/-- Whether the tile-move converter forms MX data of `dst` from plain data of `src`: BF16 or FP16 to any MX form, or a plain stream of
the same element type (R49). -/
def mxConvOk (src dst : Nat) : Bool := mxFmt dst && (src == 0x1 || src == 0x2 || src == dst)

/-- `emax` of R54. -/
def mxEmax : Nat → Int
  | 0x3 => 8
  | 0x4 => 15
  | 0x5 => 4
  | 0x6 => 2
  | 0x7 => 2
  | _ => 0

/-- A number times 2^k, exactly. -/
def scaleNum (x : Num) (k : Int) : Num :=
  match x with
  | .fin s m e => .fin s m (e + k)
  | x => x

/-- ⌊log₂⌋ of the magnitude of a finite non-zero number. -/
def expOf : Num → Option Int
  | .fin _ m e => if m = 0 then none else some ((Nat.log2 m : Int) + e)
  | _ => none

/-- Draws of the generator for `n` elements when the mode is SR, else zeros; one draw for each element (log entry 33). -/
def draws (r : Rounding) : Nat → BitVec 32 → List Nat × BitVec 32
  | 0, x => ([], x)
  | n + 1, x =>
    if r == .sr then
      let y := xorshift x
      let t := draws r n y
      (y.toNat :: t.1, t.2)
    else
      let t := draws r n x
      (0 :: t.1, t.2)

/-- One MX block of 32 elements: scale byte and element patterns (R54, R55). -/
def mxBlock (fmt : Nat) (r : Rounding) (rands : List Nat) (v : List Num) : Nat × List Nat :=
  let bad := v.any fun x => match x with
    | .fin _ _ _ => false
    | _ => true
  if bad then (0xFF, v.map fun _ => 0)
  else
    match (v.filterMap expOf).max? with
    | none => (0x00, v.map fun _ => 0)
    | some top =>
      let x := max (-127) (min 127 (top - mxEmax fmt))
      let lift : Int := if fmt = 0x8 then 6 else 0
      ((x + 127).toNat, List.zipWith (fun y k => (encodeElem fmt r true k (scaleNum y (lift - x))).1) v rands)

/-- The value of an MX element under its scale byte (R53, R55). -/
def mxValue (fmt scale raw : Nat) : Num :=
  if scale = 0xFF then .nan
  else scaleNum (decodeElem fmt raw) ((scale : Int) - 127 - (if fmt = 0x8 then 6 else 0))

/-! ### Packing of elements (R38 to R40) -/

/-- The codes of the five trits of one byte; a byte of 243 or more reads as five zeros of code 3 (R38, R39). -/
def trits (b : Nat) : List Nat :=
  if 243 ≤ b then [3, 3, 3, 3, 3] else [b % 3, b / 3 % 3, b / 9 % 3, b / 27 % 3, b / 81 % 3]

/-- Element patterns of a packed stream of `n` elements; ternary groups of 64 take 13 bytes (R38, R40). -/
def unpack (fmt n : Nat) (l : List Byte) : List Nat :=
  if fmt = 0xA then
    (List.range n).map fun i =>
      let g := i / 64
      let j := i % 64
      (trits (byteAt l (13 * g + j / 5))).getD (j % 5) 1
  else
    let v := ofLe l
    let w := elemBits fmt
    (List.range n).map fun i => v / 2 ^ (w * i) % 2 ^ w

/-- The number whose digits in base 2^w are the listed patterns, least significant first. -/
def packNat (w : Nat) : List Nat → Nat
  | [] => 0
  | x :: r => x % 2 ^ w + 2 ^ w * packNat w r

/-- The packed bytes of element patterns; not used for ternary, which no conversion makes (R49). -/
def pack (fmt : Nat) (l : List Nat) : List Byte := leBytes (cdiv (elemBits fmt * l.length) 8) (packNat (elemBits fmt) l)

/-- Bytes that `n` elements take plain (R33, R38). -/
def plainBytes (fmt n : Nat) : Nat := if fmt = 0xA then cdiv n 64 * 13 else cdiv (elemBits fmt * n) 8

/-! ### Gust coding (R62 to R67) -/

/-- Exponent bits, mantissa bits and offset bits of a variant. -/
def gustShape : Nat → Nat × Nat × Nat
  | 1 => (8, 7, 3)
  | 2 => (5, 10, 3)
  | 3 => (4, 3, 2)
  | _ => (5, 2, 2)

/-- Bytes of one block (R62). -/
def gustBytes : Nat → Nat
  | 1 => 45
  | 2 => 57
  | 3 => 25
  | 4 => 21
  | _ => 0

/-- The block of 32 element patterns (R64, R65). -/
def gustEncode (g : Nat) (v : List Nat) : List Byte :=
  let (eb, mb, w) := gustShape g
  let top := 2 ^ w - 1
  let ex := v.map fun x => x / 2 ^ mb % 2 ^ eb
  let big := ex.foldl max 0
  let code := ex.map fun e => min top (big - e)
  let sign := v.map fun x => x / 2 ^ (eb + mb) % 2
  let man := List.zipWith (fun x c => if c < top then x % 2 ^ mb else 0) v code
  leBytes 1 big ++ leBytes 4 (packNat 1 sign) ++ leBytes (4 * w) (packNat w code) ++ leBytes (4 * mb) (packNat mb man)

/-- The 32 element patterns of a block, and whether it has a coding error (R66, R67). No encoder writes a code above E below the largest
code, and the source states no exponent for it: a free value (log entry 34). -/
def gustDecode (g : Nat) (l : List Byte) : List Nat × Bool :=
  let (eb, mb, w) := gustShape g
  let top := 2 ^ w - 1
  let big := byteAt l 0
  let sign := ofLe ((l.drop 1).take 4)
  let codes := ofLe ((l.drop 5).take (4 * w))
  let mans := ofLe ((l.drop (5 + 4 * w)).take (4 * mb))
  let err := decide (2 ^ eb ≤ big)
  ((List.range 32).map fun i =>
    let s := sign / 2 ^ i % 2 * 2 ^ (eb + mb)
    let c := codes / 2 ^ (w * i) % 2 ^ w
    if err || c == top then s
    else s + (if big < c then Config.gustBelow g big c % 2 ^ eb else big - c) * 2 ^ mb + mans / 2 ^ (mb * i) % 2 ^ mb, err)

end Sys2Proof.Machine
end

