-- ==== Sys2Proof/Machine/Descriptor.lean ====
section
/-!
DEFINITION. The descriptor of a tile move (05, R133 to R135) and the fetch legs that a move begins with (06, R168).
-/
namespace Sys2Proof.Machine

/-! ### Fields of a descriptor (R133) -/

namespace Desc
/-- src_kind. -/
def srcKind (d : BitVec 512) : Nat := bits d 1 0
/-- dst_kind. -/
def dstKind (d : BitVec 512) : Nat := bits d 3 2
/-- unit: count in lines. -/
def lines (d : BitVec 512) : Bool := bit d 4
/-- count. -/
def count (d : BitVec 512) : Nat := bits d 63 48
/-- src_off in bytes. -/
def srcOff (d : BitVec 512) : Nat := bits d 79 64 * 64
/-- dst_off in bytes. -/
def dstOff (d : BitVec 512) : Nat := bits d 95 80 * 64
/-- src_obj. -/
def srcObj (d : BitVec 512) : Nat := bits d 112 96
/-- dst_obj. -/
def dstObj (d : BitVec 512) : Nat := bits d 144 128
/-- src_tile. -/
def srcTile (d : BitVec 512) : Nat := bits d 223 192
/-- dst_tile. -/
def dstTile (d : BitVec 512) : Nat := bits d 255 224
/-- src_fmt. -/
def srcFmt (d : BitVec 512) : Nat := bits d 259 256
/-- src_mx. -/
def srcMx (d : BitVec 512) : Bool := bit d 260
/-- src_gust. -/
def srcGust (d : BitVec 512) : Nat := bits d 263 261
/-- dst_fmt. -/
def dstFmt (d : BitVec 512) : Nat := bits d 267 264
/-- dst_mx. -/
def dstMx (d : BitVec 512) : Bool := bit d 268
/-- dst_gust. -/
def dstGust (d : BitVec 512) : Nat := bits d 271 269
/-- sat. -/
def sat (d : BitVec 512) : Bool := bit d 275
/-- wait_en. -/
def waitEn (d : BitVec 512) : Bool := bit d 304
/-- wait_latch. -/
def waitL (d : BitVec 512) : Nat := bits d 303 288
/-- sig_en. -/
def sigEn (d : BitVec 512) : Bool := bit d 336
/-- sig_latch. -/
def sigL (d : BitVec 512) : Nat := bits d 335 320
/-- sig_val. -/
def sigVal (d : BitVec 512) : Nat := bits d 383 352
/-- tag. -/
def tag (d : BitVec 512) : Nat := bits d 399 384
/-- rec_en. -/
def recEn (d : BitVec 512) : Bool := bit d 400

/-- The move copies bytes unchanged: formats, MX flags and Gust variants agree (R134). -/
def plain (d : BitVec 512) : Bool := srcFmt d == dstFmt d && srcMx d == dstMx d && srcGust d == dstGust d
/-- Bytes of one unit at the source: a tile of its form, or a line. -/
def srcUnit (d : BitVec 512) : Nat := if lines d then 64 else tileBytes (srcFmt d) (srcMx d) (srcGust d)
/-- Bytes of one unit at the destination. -/
def dstUnit (d : BitVec 512) : Nat := if lines d then 64 else tileBytes (dstFmt d) (dstMx d) (dstGust d)

/-- The rounding mode. -/
def rnd (d : BitVec 512) : Option Rounding := rndOf (bits d 274 272)

/-- Whether the conversion stage does nothing or makes a conversion of R49. -/
def convertible (d : BitVec 512) : Bool :=
  (srcFmt d == dstFmt d && srcMx d == dstMx d) ||
  (!srcMx d && dstMx d && mxConvOk (srcFmt d) (dstFmt d)) ||
  (!srcMx d && !dstMx d && (rnd d).any fun r => convOk .moveConverter (srcFmt d) (dstFmt d) r)

/-- The rules of R135 that the descriptor alone decides: reserved bits and codes, count, signal value, line units only for a plain copy,
the conversion, and the Gust rules, with the whole blocks of R71. -/
def wellFormed (d : BitVec 512) : Bool :=
  bits d 7 5 == 0 && bits d 31 30 == 0 && bits d 47 38 == 0 && bits d 127 113 == 0 && bits d 191 145 == 0 && bits d 287 276 == 0 &&
  bits d 319 305 == 0 && bits d 351 337 == 0 && bits d 407 401 == 0 && bits d 415 414 == 0 && bits d 511 432 == 0 &&
  srcKind d != 3 && dstKind d != 3 && (rnd d).isSome &&
  fmtOk (srcFmt d) && fmtOk (dstFmt d) && (!srcMx d || mxFmt (srcFmt d)) && (!dstMx d || mxFmt (dstFmt d)) &&
  srcGust d ≤ 4 && dstGust d ≤ 4 && gustOk (srcGust d) (srcFmt d) (srcMx d) && gustOk (dstGust d) (dstFmt d) (dstMx d) &&
  count d != 0 && (!sigEn d || sigVal d != 0) && (!lines d || plain d) && convertible d &&
  (!lines d || srcGust d == 0 || count d * 64 % gustBytes (srcGust d) == 0)
end Desc

/-- The objects that a descriptor names. -/
def descObjs (d : BitVec 512) : List Nat :=
  (if Desc.srcKind d = 2 then [Desc.srcObj d] else []) ++ (if Desc.dstKind d = 2 then [Desc.dstObj d] else [])

namespace State

/-- The legs for the tiles that a move of engine `e` touches at object `o`, from tile `first` on, with numbers from `id` on. -/
def legsAt (s : State) (e : Nat) (m : Move) (o first : Nat) (write : Bool) (id : Nat) : List Leg :=
  let x := (s.obj o).e
  let k := if Desc.lines m.desc then cdiv (Desc.count m.desc * 64) x.tile else Desc.count m.desc
  (List.range k).map fun i =>
    { id := id + i, engine := e, move := m.id, obj := o, tile := first + i, write, tier := x.home,
      port := if x.home = 3 then s.t3Port x else noPort, rest := 0, bad := false }

/-- The fetch legs of a move (R168): one for each tile that it reads in T2 or T3, and one for each that it writes in T3. What it writes to a moving
object the tier engine holds instead (R165). -/
def legsFor (s : State) (e : Nat) (m : Move) : List Leg :=
  let d := m.desc
  let src := if Desc.srcKind d = 2 ∧ (s.obj (Desc.srcObj d)).e.home ≠ 1 then
      s.legsAt e m (Desc.srcObj d) (Desc.srcTile d) false s.tier.nextLeg
    else []
  let o := (s.obj (Desc.dstObj d)).e
  let dst := if Desc.dstKind d = 2 ∧ o.home = 3 ∧ o.st ≠ stMoving then
      s.legsAt e m (Desc.dstObj d) (Desc.dstTile d) true (s.tier.nextLeg + src.length)
    else []
  src ++ dst

/-- Move `id` of engine `e` begins: its wait, if any, is met, and its fetch legs ask for their slots (R142, R168). -/
def startMove (s : State) (e id : Nat) : State :=
  match (s.movesOf e).find? fun m => m.id == id with
  | none => s
  | some m =>
    let legs := s.legsFor e m
    let s := s.modMoves e fun l => l.map fun x => if x.id == id then { x with waiting := false, legs := legs.length } else x
    (s.modTier fun t => { t with nextLeg := t.nextLeg + legs.length, legWait := t.legWait ++ legs }).pumpLegs

end State
end Sys2Proof.Machine
end

