-- ==== Sys2Proof/Machine/Mailboxes.lean ====
section
/-!
DEFINITION. Mailboxes, doorbells and management messages (14, R418 to R428).
-/
namespace Sys2Proof.Machine
namespace State

/-- A protocol error in the writer's view (`MBX_PERR`): bit 0 send_full, 1 send_locked, 2 send_denied, 3 take_denied, 4 release_bad. -/
def mbxError (s : State) (w b : Nat) : State :=
  if isPort w then s.setReg .mbxPerr (w - 1) 0 (s.reg .mbxPerr (w - 1) ||| BitVec.ofNat 64 (2 ^ b))
  else s.modMbx fun x => { x with intPerr := SMap.put 0 x.intPerr w (SMap.get 0 x.intPerr w ||| 2 ^ b) }

/-- Doorbell (`taken` false) or taken bit `m` of identity `w` set (R421, R427): a port's vector 17 + m fires on the rising edge of
either bit while its mask bit is 0. -/
def ring (s : State) (w m : Nat) (taken : Bool) : State :=
  if isPort w then
    let p := w - 1
    let was := (s.rd Fld.mbxDb_bits p ||| s.rd Fld.mbxTaken_bits p).testBit m
    let s := s.setBit (if taken then Fld.mbxTaken_bits else Fld.mbxDb_bits) m p
    if !was && !(s.rd Fld.mbxDbMask_mask p).testBit m then s.fire p (17 + m) else s
  else if taken then s.modMbx fun x => { x with intTaken := SMap.put 0 x.intTaken w (SMap.get 0 x.intTaken w ||| 2 ^ m) }
  else s.modMbx fun x => { x with intDb := SMap.put 0 x.intDb w (SMap.get 0 x.intDb w ||| 2 ^ m) }

/-- The staging buffer of identity `w` for mailbox `m`: 64 bytes, the first 8 never written (R419). -/
def staging (s : State) (w m : Nat) : List Byte := slice (SMap.get [] s.mbx.staging (w * 32 + m)) 0 64

/-- Lock owner of mailbox `m`; 0 is free. -/
def lockOwner (s : State) (m : Nat) : Nat := s.rd Fld.mbxLock_owner 0 m
/-- Receiver of mailbox `m`. -/
def receiver (s : State) (m : Nat) : Nat := s.rd Fld.mbxCfg_receiver 0 m

/-- Whether `MBX_CFG[m].senders` allows identity `w` (R420). -/
def mayMail (s : State) (w m : Nat) : Bool :=
  match senderClass w with
  | some c => (s.rd Fld.mbxCfg_senders 0 m).testBit c
  | none => false

/-- The message that `w` would deliver: bytes 0x00 to 0x07 from hardware, the payload from the staging buffer (R418). -/
def mailOf (s : State) (w m : Nat) : List Byte :=
  leBytes 1 w ++ leBytes 1 m ++ leBytes 6 s.stamp ++ (s.staging w m).drop 8

/-- The send of R420; the first condition that fails, in the rule's order, names the error. -/
def mail (s : State) (w m : Nat) : State :=
  if s.receiver m = 0 || !s.mayMail w m then s.mbxError w 2
  else if (s.box m).full then s.mbxError w 0
  else if s.lockOwner m ≠ 0 && s.lockOwner m ≠ w then s.mbxError w 1
  else
    let msg := s.mailOf w m
    (s.modBox m fun b => { b with full := true, msg, sender := w, orphan := false }).ring (s.receiver m) m false

/-- Mailbox `m` empties with an outcome (1 taken, 2 discarded), and its sender's taken bit is set unless the sender has gone down
(R421, R422). -/
def empty (s : State) (m outcome : Nat) : State :=
  let b := s.box m
  let s := s.modBox m fun b => { b with full := false, msg := [], outcome }
  if b.orphan then s else s.ring b.sender m true

/-- The payload placed in steward core 0's staging buffer and sent to mailbox `p` under the lock, which is given back at once
(R428, log entry 31): `none` when the mailbox is full or locked by another. -/
def trySend (s : State) (p : Nat) (payload : List Byte) : Option State :=
  if (s.box p).full || (s.lockOwner p ≠ 0 && s.lockOwner p ≠ 0x10) || s.receiver p = 0 || !s.mayMail 0x10 p then none
  else
    some ((s.modMbx fun x => { x with staging := SMap.put [] x.staging (0x10 * 32 + p) (slice (List.replicate 8 0 ++ payload) 0 64) }).mail
      0x10 p)

/-- Management answers that wait are sent, oldest first, where they now can be (R428). -/
def sendOwed (s : State) : State :=
  forEach s.mbx.owed (fun o t =>
    match t.trySend o.port o.payload with
    | some u => u.modMbx fun x => { x with owed := x.owed.erase o }
    | none => t) s

/-- A management answer: sent at once when it can be, else kept with its time (R428). -/
def answer (s : State) (p : Nat) (payload : List Byte) : State :=
  match s.trySend p payload with
  | some t => t
  | none => s.modMbx fun x => { x with owed := x.owed ++ [{ port := p, payload, since := s.cadNow }] }

/-- A lock broken by keystone (R426): freed, counted and logged; 1 fence, 2 port down, 3 hold_max. -/
def breakLock (s : State) (m cause : Nat) : State :=
  let o := s.lockOwner m
  if o = 0 then s
  else
    let s := s.wr Fld.mbxLock_owner 0 0 m
    (s.logFirst Fld.mbxBreakCnt_count .mbxBreakLog (m * 2 ^ 48 + o * 2 ^ 40 + cause % 256 * 2 ^ 32 + s.stamp16)).sendOwed

/-- Every lock that identity `w` holds broken, with the forced-release record of R500. -/
def breakLocksOf (s : State) (w cause : Nat) : State :=
  forEach (List.range 32) (fun m t =>
    if t.lockOwner m = w then (t.breakLock m cause).forceRelease 1 w m noSpan else t) s

/-- The take of R421. -/
def take (s : State) (w m : Nat) : State :=
  if s.receiver m ≠ w then s.mbxError w 3
  else if (s.box m).full then (s.empty m 1).sendOwed
  else s

/-- The lock read of R424: the value read and the state after it. -/
def lockRead (s : State) (w m : Nat) : Nat × State :=
  let o := s.lockOwner m
  if o = 0 then (0, (s.wr Fld.mbxLock_owner w 0 m).modBox m fun b => { b with since := s.cadNow })
  else if o = w then (0, s)
  else (o, s)

/-- The lock write of R425. -/
def lockWrite (s : State) (w m v : Nat) : State :=
  if s.lockOwner m = w && v = w then (s.wr Fld.mbxLock_owner 0 0 m).sendOwed else s.mbxError w 4

/-- What a read returned, for a port to see. -/
def deliver (s : State) (w : Nat) (v : Nat) : State :=
  if isPort w then s.modPort (w - 1) fun h => { h with readData := BitVec.ofNat 64 v } else s

/-- A mask write of R427: clearing a mask bit over a set doorbell or taken bit fires its vector. -/
def maskWrite (s : State) (p : Nat) (mask : Nat) : State :=
  let old := s.rd Fld.mbxDbMask_mask p
  let pend := s.rd Fld.mbxDb_bits p ||| s.rd Fld.mbxTaken_bits p
  forEach (List.range 32) (fun m t => if old.testBit m && !mask.testBit m && pend.testBit m then t.fire p (17 + m) else t)
    (s.wr Fld.mbxDbMask_mask mask p)

/-- `MBX_STATE[m]`. -/
def mbxState (s : State) (m : Nat) : Nat :=
  let b := s.box m
  b2n b.full * 2 ^ 31 + b.outcome % 4 * 2 ^ 29 + s.lockOwner m * 2 ^ 16 + b.sender % 256 * 2 ^ 8 + s.receiver m

/-- What a port that goes down leaves behind in the mailboxes (R422): full mailboxes addressed to it are emptied as discarded, and
senders' messages stay without an owed interrupt. -/
def mbxDown (s : State) (p : Nat) : State :=
  forEach (List.range 32) (fun m t =>
    let t := if (t.box m).full && t.receiver m = portIdent p then t.empty m 2 else t
    if (t.box m).full && (t.box m).sender = portIdent p then t.modBox m fun b => { b with orphan := true } else t) s

/-- The message type of the management message of port `p` that waits in mailbox 4 + p, with its payload (R428). -/
def mgmtMessage (s : State) (p : Nat) : Option (Nat × List Byte) :=
  let b := s.box (4 + p)
  if b.full && b.sender = portIdent p && s.receiver (4 + p) = 0x10 && s.running && !s.lull then some (byteAt b.msg 8, b.msg.drop 8)
  else none

/-- Steward core 0 takes the management message of port `p` and answers it (R428). -/
def mgmtReply (s : State) (p : Nat) (payload : List Byte) : State := (s.empty (4 + p) 1).answer p payload

/-- Active cells: the members of `KEY_SPARE` (R31). -/
def activeCells (s : State) : Nat := popCount (s.rd Fld.keySpare_cells) 56

/-- The hottest junction temperature in °C, signed 16 bits (R428, `PWR_THERM`). -/
def hottestC (s : State) : Nat :=
  ((BitVec.ofNat 16 (s.rd Fld.pwrTherm_temp)).sshiftRight 4).toNat

end State

/-- MBX_SEND (R420). -/
def execMbxSend (w : Ident) (m : MbxId) (s : State) : Out := .next (s.mail w.toNat m)
/-- MBX_TAKE (R421). -/
def execMbxTake (w : Ident) (m : MbxId) (s : State) : Out := .next (s.take w.toNat m)
/-- MBX_LOCK read (R424). -/
def execMbxLockRead (w : Ident) (m : MbxId) (s : State) : Out :=
  let r := s.lockRead w.toNat m
  .next (r.2.deliver w.toNat r.1)
/-- MBX_LOCK write (R425). -/
def execMbxLockRelease (w : Ident) (m : MbxId) (v : BitVec 8) (s : State) : Out := .next (s.lockWrite w.toNat m v.toNat)
/-- MBX_LOCK_BREAK, which only keystone writes (R426). -/
def execMbxLockBreak (m : MbxId) (cause : Nat) (s : State) : Out := .next (s.breakLock m cause)
/-- A lock held for more than hold_max periods (R426), by one phase unit; 0 means never. -/
def execMbxHoldExpiry (m : MbxId) (s : State) : Out :=
  let h := s.rd Fld.mbxCfg_holdMax 0 m
  if h ≠ 0 ∧ s.lockOwner m ≠ 0 then .next (s.whenPassed ((s.box m).since + 1) h fun s => s.breakLock m 3) else .next s
/-- MBX_DB_MASK (R427). -/
def execMbxDbMaskWrite (p : PortId) (mask : BitVec 32) (s : State) : Out := .next (s.maskWrite p mask.toNat)

/-- PING (R428): the payload bytes after the type come back. -/
def execPing (p : PortId) (s : State) : Out :=
  match s.mgmtMessage p with
  | some (0x01, pl) => .next (s.mgmtReply p (leBytes 1 0x81 ++ pl.drop 1))
  | _ => .next s
/-- STATE (R428). -/
def execState (p : PortId) (s : State) : Out :=
  match s.mgmtMessage p with
  | some (0x02, _) =>
    .next (s.mgmtReply p (leBytes 1 0x82 ++ leBytes 1 (s.rd Fld.pwrStatus_state) ++ leBytes 1 (s.rd Fld.hptStatus_ready p) ++
      leBytes 1 s.activeCells ++ leBytes 2 s.hottestC ++ leBytes 2 0 ++ leBytes 8 s.cadNow))
  | _ => .next s
/-- A management message of any other type (R428). -/
def execUnknownMessageType (p : PortId) (s : State) : Out :=
  match s.mgmtMessage p with
  | some (t, _) => if t = 0x01 ∨ t = 0x02 then .next s else .next (s.mgmtReply p (leBytes 1 0xFF ++ leBytes 1 t))
  | none => .next s
/-- A management answer that could not be sent within 16 periods is dropped (R428). -/
def execMgmtAnswerTimeout (p : PortId) (s : State) : Out :=
  .next (s.modMbx fun x => { x with owed := x.owed.filter fun o => !(o.port == p.val && o.since + 16 * 65536 ≤ s.cadNow) })

end Sys2Proof.Machine
end

