-- ==== Sys2Proof/Machine/CellMem.lean ====
section
/-!
DEFINITION. Cell memory, the handle table and the read modes (04, R103 to R123), and the cell fault (R100, R120, R493).
-/
namespace Sys2Proof.Machine

/-- A handle's memory code: the memory that holds its lines, its first line there, and its lines (R103, R106). -/
def memPlace : Nat → Option (Nat × Nat × Nat)
  | 0 => some (0, 0, 49152)
  | 1 => some (1, 0, 4096)
  | 2 => some (1, 4096, 4096)
  | 3 => some (1, 0, 8192)
  | 4 => some (4, 0, 4096)
  | 5 => some (5, 0, 4096)
  | _ => none

/-- Elements on a side and bytes of an element of a transposed tile; T8 and T64 cover 1- and 2-byte elements (R111). -/
def tileSide (rmode : Nat) : Nat := if rmode = 1 then 8 else 64
/-- Lines of a T8 or T64 tile. -/
def tileLines (rmode fmt : Nat) : Nat := tileSide rmode * tileSide rmode * (elemBits fmt / 8) / 64

/-- The view that the two words of an entry spell (R106). -/
def viewOf (lo hi : Word) : View :=
  { mem := bits lo 3 1, fmt := bits lo 7 4, mx := bit lo 8, gust := bits lo 11 9, rmode := bits lo 14 12, wp := bit lo 15,
    base := bits lo 31 16, size := bits lo 47 32, cnt0 := bits hi 15 0, stride0 := bits hi 31 16, stride1 := bits hi 47 32 }

/-- The last physical line of a view (R108). -/
def View.last (v : View) : Nat :=
  if v.rmode = 3 then v.base + (min v.cnt0 v.size - 1) * v.stride0 + (v.size - 1) / v.cnt0 * v.stride1 else v.base + v.size - 1

/-- The checks of R108 on the two words of an entry with valid = 1. -/
def handleOk (lo hi : Word) : Bool :=
  let v := viewOf lo hi
  match memPlace v.mem with
  | none => false
  | some (_, _, lines) =>
    bits lo 63 48 == 0 && bits hi 63 48 == 0 && fmtOk v.fmt && v.gust ≤ 4 && v.rmode ≤ 3 && (!v.mx || mxFmt v.fmt) &&
    v.size != 0 && (v.rmode != 3 || v.cnt0 != 0) && decide (v.last < lines) && gustOk v.gust v.fmt v.mx &&
    ((v.rmode != 1 && v.rmode != 2) ||
      ((v.fmt == 1 || v.fmt == 2 || v.fmt == 3 || v.fmt == 4 || v.fmt == 8) && !v.mx && v.gust == 0 &&
        v.size % tileLines v.rmode v.fmt == 0))

namespace View

/-- The byte of its memory at which byte `j` of the view lies, in the view's read mode (R111). -/
def byteOf (v : View) (j : Nat) : Nat :=
  match v.rmode with
  | 0 => v.base * 64 + j
  | 3 =>
    let i := j / 64
    (v.base + i % v.cnt0 * v.stride0 + i / v.cnt0 * v.stride1) * 64 + j % 64
  | _ =>
    let es := elemBits v.fmt / 8
    let side := tileSide v.rmode
    let tile := side * side * es
    let e := j % tile / es
    v.base * 64 + j / tile * tile + (e % side * side + e / side) * es + j % es

/-- The key in `Cell.mem` of byte `j` of the view. -/
def key (v : View) (j : Nat) : Nat :=
  match memPlace v.mem with
  | some (m, first, _) => m * 2 ^ 24 + first * 64 + v.byteOf j
  | none => 0

/-- The keys of the lines that bytes `off` to `off + n - 1` of the view touch, in order, without repeats in a row. -/
def lineKeys (v : View) (off n : Nat) : List Nat :=
  ((List.range n).map fun j => v.key (off + j) / 64).eraseDups

/-- The bytes of the view in a cell. -/
def bytes (v : View) (c : Cell) (off n : Nat) : List Byte := (List.range n).map fun j => SMap.get 0 c.mem (v.key (off + j))

/-- Whether bytes `off` to `off + n - 1` lie within the view. -/
def holds (v : View) (off n : Nat) : Bool := off + n ≤ v.size * 64

end View

/-- Rows M of a shape code (R88). -/
def shapeM : Nat → Nat
  | 0 => 64
  | 1 => 32
  | 2 => 16
  | _ => 8
/-- Columns N of a shape code, doubled for 4-bit and ternary weights (R88, R91). -/
def shapeN (shape wfmt : Nat) : Nat := (if shape = 1 then 32 else 64) * (if doubleW wfmt then 2 else 1)

/-! Fields of a matrix instruction (R85). -/

namespace Mx
/-- Stationarity mode. -/
def mode (w : Inst256) : Nat := bits w 10 8
/-- Shape. -/
def shape (w : Inst256) : Nat := bits w 13 11
/-- Weight-side format. -/
def wfmt (w : Inst256) : Nat := bits w 19 16
/-- Activation-side format. -/
def afmt (w : Inst256) : Nat := bits w 23 20
/-- Weight side carries MX scales. -/
def wmx (w : Inst256) : Bool := bit w 24
/-- Activation side carries MX scales. -/
def amx (w : Inst256) : Bool := bit w 25
/-- Output enabled. -/
def outEn (w : Inst256) : Bool := bit w 30
/-- Output format. -/
def ofmt (w : Inst256) : Nat := bits w 35 32
/-- Output carries MX scales. -/
def omx (w : Inst256) : Bool := bit w 36
/-- Valid rows. -/
def mRows (w : Inst256) : Nat := bits w 46 40
/-- K ÷ 64. -/
def kBlocks (w : Inst256) : Nat := bits w 57 48
/-- Scales applied. -/
def sEn (w : Inst256) : Bool := bit w 102
/-- The shape's rows. A side-path instruction has the full shape's regions, of which it fills one row (R97, R99). -/
def rows (w : Inst256) : Nat := shapeM (shape w)
/-- The columns of the output. -/
def cols (w : Inst256) : Nat := shapeN (shape w) (wfmt w)
/-- Bytes of one weight tile of 64 × N elements with its scale bytes, in whole lines (R56, R91; log entry 38). -/
def wTile (w : Inst256) : Nat := cdiv (plainBytes (wfmt w) (64 * cols w) + (if wmx w then 2 * cols w else 0)) 64 * 64
/-- Bytes of one activation tile of M × 64 elements with its scale bytes, in whole lines. -/
def aTile (w : Inst256) : Nat := cdiv (plainBytes (afmt w) (rows w * 64) + (if amx w then 2 * rows w else 0)) 64 * 64
/-- Bytes of the weight region. -/
def wBytes (w : Inst256) : Nat := kBlocks w * wTile w
/-- Bytes of the activation region. -/
def aBytes (w : Inst256) : Nat := kBlocks w * aTile w
/-- Bytes of the partial-sum region: M × N entries of 4 bytes. -/
def pBytes (w : Inst256) : Nat := rows w * cols w * 4
/-- Bytes of the output region with its scale bytes. -/
def oBytes (w : Inst256) : Nat := plainBytes (ofmt w) (rows w * cols w) + (if omx w then rows w * cols w / 32 else 0)
/-- Bytes of the scale region: one FP32 for each output channel (R61). -/
def sBytes (w : Inst256) : Nat := cols w * 4
/-- Byte offset of the weight region. -/
def wOff (w : Inst256) : Nat := bits w 143 128 * 64
/-- Byte offset of the activation region. -/
def aOff (w : Inst256) : Nat := bits w 159 144 * 64
/-- Byte offset of the partial-sum region. -/
def pOff (w : Inst256) : Nat := bits w 175 160 * 64
/-- Byte offset of the output region. -/
def oOff (w : Inst256) : Nat := bits w 191 176 * 64
/-- Byte offset of the scale region. -/
def sOff (w : Inst256) : Nat := bits w 119 104 * 64
end Mx

/-- The line keys of the partial-sum region that a prepared matrix instruction claims (R89, R118). -/
def MatrixJob.claims (j : MatrixJob) : List Nat :=
  match j.prep with
  | some p => (List.range (cdiv (Mx.pBytes j.w) 64)).map fun i => p.vp.key (Mx.pOff j.w + i * 64) / 64
  | none => []

/-- A cell with bytes written from byte `off` of a linear view; the lines written carry valid check bits from then on. -/
def Cell.store (c : Cell) (v : View) (off : Nat) (l : List Byte) : Cell :=
  let touched := v.lineKeys off l.length
  { c with mem := writeBytes 0 c.mem (v.key off) l, poison := c.poison.filter fun k => !touched.contains k,
           reported := c.reported.filter fun k => !touched.contains k }

/-- A cell with lines poisoned (R120). -/
def Cell.poisonLines (c : Cell) (ks : List Nat) : Cell := { c with poison := (c.poison ++ ks).eraseDups }

/-- The first poisoned line among bytes `off` to `off + n - 1` of a view. -/
def Cell.poisoned (c : Cell) (v : View) (off n : Nat) : Option Nat := (v.lineKeys off n).find? fun k => c.poison.contains k

/-- Data of the landing buffer written to their half (R116). -/
def Cell.land (c : Cell) (d : Landed) : Cell :=
  let c := c.store d.view d.off d.bytes
  if d.poison.isEmpty then c
  else { c.poisonLines d.poison with reported := if d.told then (c.reported ++ d.poison).eraseDups else c.reported }

/-- Memory and line of a line key, coded as `HND_LO.mem` 0, 1, 2, 4 or 5 (`POOL_ECC_ADDR`). -/
def lineName (k : Nat) : Nat × Nat :=
  let m := k / 2 ^ 18
  let l := k % 2 ^ 18
  if m = 1 ∧ 4096 ≤ l then (2, l - 4096) else (m, l)

/-- Lines of a memory by its code. -/
def memLines (m : Nat) : Nat := match memPlace m with
  | some (_, _, n) => n
  | none => 0

namespace State

/-- The span that cell `n` belongs to under the committed map; 0xF is none (R18, `CEL_ID.span`). -/
def cellSpan (s : State) (n : Nat) : Nat := s.rd Fld.celId_span n
/-- Whether the module is ACTIVE or in GUST. -/
def active (s : State) : Bool := s.rd Fld.pwrStatus_state == 0 || s.rd Fld.pwrStatus_state == 3
/-- Whether the memory domain of cell `n` is powered: the cell belongs to a span while the module is ACTIVE or GUST (R447). -/
def cellOn (s : State) (n : Nat) : Bool := s.cellSpan n != 0xF && s.active && s.running
/-- Whether the array domain of cell `n` is fenced. -/
def arrayFenced (s : State) (n : Nat) : Bool := s.flag Fld.celStatus_arrayFenced n
/-- Whether the whole cell is fenced. -/
def cellFenced (s : State) (n : Nat) : Bool := s.flag Fld.celStatus_cellFenced n

/-- Whether span `sp` owns latch `l` (R21, R77). -/
def ownsLatch (s : State) (sp l : Nat) : Bool :=
  if l < 57344 then sp != 0xF && s.cellSpan (l / 1024) == sp
  else
    let r := (s.span sp).cfg
    r.on && r.latch0 ≤ l && l < r.latch0 + r.latchN

/-- The entry `h` of the handle table of cell `n`, when valid (R106, R110). -/
def resolve (s : State) (n h : Nat) : Option View :=
  let lo := s.reg .hndLo n h
  if bit lo 0 then some (viewOf lo (s.reg .hndHi n h)) else none

/-- The install of R107 with the check of R108. -/
def installHandle (s : State) (n h : Nat) (lo : Word) : State :=
  let hi := (SMap.get none (s.cell n).hiStage h).getD (s.reg .hndHi n h)
  let ok := !bit lo 0 || handleOk lo hi
  let lo' := if ok then lo else setBits lo 0 0 0
  let s := (s.setReg .hndHi n h hi).setReg .hndLo n h lo'
  if ok then s
  else if s.flag Fld.poolStatus_hndBad n then s
  else (s.wr Fld.poolStatus_hndBad 1 n).wr Fld.poolStatus_hndIdx h n

/-- The spare that takes the place of cell `c` (R485), none of those in `ban`: the lowest of its column, else the lowest anywhere. -/
def spareFor (s : State) (c : Nat) (ban : List Nat) : Option Nat :=
  let l := (bitList (s.rd Fld.keySpareFree_cells) 56).filter fun d => !ban.contains d && !(s.rd Fld.keyFenced_cells).testBit d
  match l.find? fun d => d % 8 == c % 8 with
  | some d => some d
  | none => l.head?

/-- Spares that go to cells whose faults came before (R32), with those in `ban`. -/
def sparesTaken (s : State) (ban : List Nat) : List Nat → List Nat
  | [] => ban
  | c :: r => match s.spareFor c ban with
    | some d => s.sparesTaken (d :: ban) r
    | none => s.sparesTaken ban r

/-- Cell `c` leaves the active set, and spare `d`, if there is one, takes its place in it (R31). -/
def takeOver (s : State) (c : Nat) (d : Option Nat) : State :=
  let s := s.clrBit Fld.keySpare_cells c
  match d with
  | some d => (s.clrBit Fld.keySpareFree_cells d).setBit Fld.keySpare_cells d
  | none => s

/-- Issued matrix instructions of cell `n` from the k-th on dropped, with their waits. -/
def dropJobs (s : State) (n k : Nat) : State :=
  let gone := ((s.cell n).jobs.drop k).map (·.id)
  let of := fun (b : WaitFor) => match b with
    | .job i => gone.contains i
    | _ => false
  let s := s.modCell n fun c => { c with jobs := c.jobs.take k, clock := if k = 0 then none else c.clock, dual := none, waits := c.waits.filter fun w => !of w.by_ }
  { s with waiters := s.waiters.filter fun w => !(w.engine == n && of w.by_) }

/-- The clock of cell `n` in units of 10 MHz: that of the profile, or what its array keeps until its next boundary (R102). -/
def cellClock (s : State) (n : Nat) : Nat := (s.cell n).clock.getD (s.rd Fld.pwrProfile_clock)

/-- A fence (R493): array or whole cell, the cell out of the spares, and the fault logged; a failed trestle link is logged as the link. A
cell fence stops the whole cell, what its array runs included. -/
def fence (s : State) (n kind : Nat) (whole : Bool) : State :=
  let s := s.wr Fld.celStatus_arrayFenced 1 n
  let s := if whole then
      ((((s.wr Fld.celStatus_cellFenced 1 n).wr Fld.celStatus_running 0 n).wr Fld.celStatus_halted 1 n).dropJobs n 0).wr
        Fld.celStatus_arrayBusy 0 n
    else s
  let s := (s.setBit Fld.keyFenced_cells n).clrBit Fld.keySpareFree_cells n
  if kind = 0x05 then s.keyFault kind 0 (n / 8) else s.keyFault kind (cellIdent n) 0

/-- Cell `n` joins the cells that wait for a spare: in the order of their faults, and by ascending span number when they fault at the same
time (R32). -/
def awaitSpare (s : State) (n : Nat) : State :=
  let first := fun (e : Nat × Nat) => !(e.2 == s.now && s.cellSpan n < s.cellSpan e.1)
  s.modKey fun k => if k.faulted.any (fun e => e.1 == n) then k
    else { k with faulted := k.faulted.takeWhile first ++ [(n, s.now)] ++ k.faulted.dropWhile first }

/-- A cell fault raised to keystone (R493, R494, R500): the fence, its log, the notice, and the release of the cell's mailbox locks.
`whole` fences the cell, else the array alone. The span handles the fault at its next step boundary; an active cell of no span is
replaced at once (log entry 88). -/
def cellFault (s : State) (n kind : Nat) (whole : Bool) : State :=
  let sp := s.cellSpan n
  let s := s.fence n kind whole
  let s := (s.noticeDev 0x28 (if sp = 0xF then noSpan else sp) (kind * 256 + n)).aerAll .correctedInternal
  let s := s.breakLocksOf (cellIdent n) 1
  if sp = 0xF then (if (s.rd Fld.keySpare_cells).testBit n then s.takeOver n (s.spareFor n (s.sparesTaken [] (s.key.faulted.map (·.1)))) else s)
  else
    s.awaitSpare n |>.modSpan sp fun x => { x with faults := if x.faults.contains (n, whole) then x.faults else x.faults ++ [(n, whole)] }

/-- An uncorrectable error met at a line of cell `n` (R120): counted, and its place kept when the flag was clear. The rule does not
give the syndrome of a poisoned word; it is a free value (log entry 35). -/
def poolUe (s : State) (n k word : Nat) (syn : Option Nat) : State :=
  let (m, l) := lineName k
  let (f, s) := match syn with
    | some x => (x % 256, s)
    | none => s.fresh 8
  let s := s.bump Fld.poolEccUe_count n
  if s.flag Fld.poolStatus_ue n then s
  else (s.wr Fld.poolStatus_ue 1 n).setReg .poolEccAddr n 0
    (BitVec.ofNat 64 (m * 2 ^ 32 + f * 2 ^ 24 + word % 8 * 2 ^ 16 + l))

/-- An uncorrectable error of the memory met at word `word` of line `k` (R120): the line stays bad until it is written. -/
def meetUe (s : State) (n k word syn : Nat) : State := (s.modCell n fun c => c.poisonLines [k]).poolUe n k word (some syn)

/-- A memory fault at a line (R120): a cell fault, but on a line that a reported status-0x02 move poisoned keystone does not fence the
cell; its stream stops and the span repeats the step (R182). -/
def memFault (s : State) (n k : Nat) : State :=
  if (s.cell n).reported.contains k then
    let s := (s.wr Fld.celStatus_running 0 n).wr Fld.celStatus_halted 1 n
    if s.cellSpan n = 0xF then s else s.repeatStep (s.cellSpan n)
  else s.cellFault n 0x02 true

/-- Single-bit errors that reads of cell `n` met (R119): the words are corrected and counted. -/
def corrected (s : State) (n k : Nat) : State := if k = 0 then s else s.bump Fld.poolEccCe_count n 0 k

/-- A handle-table parity error at a resolution (R121): a cell fault beside the illegal instruction. -/
def handleParity (s : State) (n : Nat) : State := (s.wr Fld.poolStatus_hndPar 1 n).cellFault n 0x03 true

/-- The end of initialisation (R123): the command that powers the memory domain stands for the 8,192 cycles in which every access waits
(log entry 58). -/
def initDone (s : State) (n : Nat) : State := s.wr Fld.poolStatus_initBusy 0 n

/-- The sequencer of cell `n` reset (R475): what it runs, holds and waits for, `CEL_PC` and the running bits. -/
def seqReset (s : State) (n : Nat) : State :=
  let s := s.dropJobs n 0
  let s : State := { s with waiters := s.waiters.filter fun w => !(w.engine == n && w.by_ == .seq) }
  let s := s.modCell n fun c =>
    { c with loops := [], stream := none, waitL := none, sideMet := none, stopReq := false, stall := none,
             waits := c.waits.filter fun w => w.by_ != .seq }
  ((((((s.setReg .celPc n 0 0).wr Fld.celStatus_running 0 n).wr Fld.celStatus_halted 0 n).wr Fld.celStatus_waiting 0 n).wr
    Fld.celStatus_waitLatch 0 n).wr Fld.celStatus_arrayBusy 0 n)

/-- A cell reset, by steward firmware during recovery (R475, R106, R529): the handle table, the sequencer, its flags and counts; the
memories, the latches and the moves in flight stay. -/
def cellReset (s : State) (n : Nat) : State :=
  let base := 0x100000 + n * 0x10000
  let cleared := fun (k : Nat) =>
    (base + 0x8 ≤ k && k < base + 0x18) || (base + 0x20 ≤ k && k < base + 0x48) || (base + 0x100 ≤ k && k < base + 0x200) || k == base + 0x228 ||
      (base + 0x400 ≤ k && k < base + 0x800)
  let s := s.seqReset n
  ({ s with regs := s.regs.filter fun e => !cleared e.1 } : State).modCell n fun c => { c with rng := 0x9E3779B9, hiStage := [] }

/-- The bytes that an instruction or move reads of a view: lines that an incomplete matrix instruction claims in the partial-sum
buffer are indeterminate (R118), a free value each (log entry 36). -/
def readView (s : State) (n : Nat) (v : View) (off len : Nat) : List Byte × State :=
  let c := s.cell n
  let taken := fun (k : Nat) => c.jobs.any fun j => j.claims.contains k
  ((List.range len).map fun j =>
      let k := v.key (off + j)
      if taken (k / 64) then (Config.freeValue (s.free + j)).setWidth 8 else SMap.get 0 c.mem k,
    if (v.lineKeys off len).any taken then { s with free := s.free + len } else s)

/-- The next line for the scrubber, pool first, then weight buffer, activation buffer and partial-sum buffer (R122). -/
def nextScrub (m l : Nat) : Nat × Nat :=
  if l + 1 < memLines m then (m, l + 1)
  else match m with
    | 0 => (1, 0)
    | 1 => (2, 0)
    | 2 => (4, 0)
    | 4 => (5, 0)
    | _ => (0, 0)

end State

/-- HND_HI (R107): the value is staged. -/
def execHndHiWrite (w : Ident) (n : CellId) (h : Fin 64) (v : Word) (s : State) : Out :=
  .next (s.byFirmware w.toNat fun s => onlyIf (s.cellOn n)
    (fun s => s.modCell n fun c => { c with hiStage := SMap.put none c.hiStage h (some v) }) s)
/-- HND_LO (R107, R108): both words are installed together after the check. -/
def execHndLoWrite (w : Ident) (n : CellId) (h : Fin 64) (v : Word) (s : State) : Out :=
  .next (s.byFirmware w.toNat fun s => onlyIf (s.cellOn n) (fun s => s.installHandle n h v) s)

/-- The scrubber's next line (R122): corrected and counted, or a cell fault. -/
def execPoolScrubRead (n : CellId) (ecc : EccOutcome) (s : State) : Out :=
  if !(s.cellOn n && s.flag Fld.poolCfg_scrubEn n) then .next s
  else
    let m := s.rd Fld.poolScrubPos_mem n
    let l := s.rd Fld.poolScrubPos_line n
    let k := (if m = 2 then 1 * 2 ^ 18 + 4096 + l else m * 2 ^ 18 + l)
    let nx := State.nextScrub m l
    let s := (s.wr Fld.poolScrubPos_mem nx.1 n).wr Fld.poolScrubPos_line nx.2 n
    if (s.cell n).poison.contains k then .next ((s.poolUe n k 0 none).memFault n k)
    else match ecc with
      | .clean => .next s
      | .corrected => .next (s.corrected n 1)
      | .uncorrectable wd syn => .next ((s.meetUe n k wd syn).memFault n k)

end Sys2Proof.Machine
end

