-- ==== Sys2Proof/Machine/Prepare.lean ====
section
/-!
DEFINITION. Illegal instructions (03, R76, R78) and the preparation of matrix instructions (03, R74, R86 to R90, R97, R109, R110; 11, R338).
-/
namespace Sys2Proof.Machine

/-- Halves of 64 elements in a head. -/
def ImageHdr.halves (h : ImageHdr) : Nat := h.headDim / 64
/-- Pieces of a page (R317). -/
def ImageHdr.pieces (h : ImageHdr) : Nat := 2 * h.kvHeads * h.halves

namespace Mx

/-- Whether a reserved bit or code is set (R34, R85). The MX flag of one side does not depend on the other side's format (log entry 83). -/
def reserved (w : Inst256) : Bool :=
  bit w 31 || bits w 39 37 != 0 || bit w 47 || bits w 63 58 != 0 || bits w 71 70 != 0 || bits w 79 78 != 0 ||
  bits w 87 86 != 0 || bits w 95 94 != 0 || bit w 103 || bits w 127 120 != 0 || bits w 255 226 != 0 ||
  2 < mode w || 3 < shape w || (bit w 14 && shape w != 1) || !fmtOk (wfmt w) || !fmtOk (afmt w) ||
  (wmx w && !mxFmt (wfmt w)) || (amx w && !mxFmt (afmt w)) || 4 < bits w 28 26 ||
  (outEn w && (!fmtOk (ofmt w) || (omx w && !mxFmt (ofmt w))))

/-- Whether the sums are INT32 (R58, R60). -/
def intAcc (w : Inst256) : Bool := pairInt (wfmt w) (afmt w) && !wmx w && !amx w

/-- Whether the output conversion is one of R87. -/
def outOk (w : Inst256) : Bool :=
  let o := ofmt w
  if intAcc w then !omx w && (o == 0x8 || o == 0x0 || o == 0x1)
  else if omx w then o == 0x3 || o == 0x4
  else o == 0x0 || o == 0x1 || o == 0x2 || o == 0x3 || o == 0x4

/-- Whether scales are missing (R86). -/
def noScales (w : Inst256) : Bool := outEn w && !sEn w && (wfmt w == 0x9 || wfmt w == 0xA) && !wmx w

/-- Rounding mode of the output conversion; integer sums convert with RNE (R87). -/
def rnd (w : Inst256) : Rounding := if intAcc w then .rne else (rndOf (bits w 28 26)).getD .rne

/-- Handles that a matrix instruction reads (R74): weights, activations, scales, and the partial sums it adds to. -/
def reads (w : Inst256) : List Nat :=
  [bits w 69 64, bits w 77 72] ++ (if sEn w then [bits w 101 96] else []) ++ (if bit w 15 then [bits w 85 80] else [])
/-- Handles that a matrix instruction writes (R74): partial sums and output. -/
def writes (w : Inst256) : List Nat := bits w 85 80 :: (if outEn w then [bits w 93 88] else [])
/-- Handles that a matrix instruction resolves. -/
def handles (w : Inst256) : List Nat := reads w ++ writes w

/-- The word with its opcode byte set. -/
def withOp (w : Inst256) (op : Nat) : Inst256 := w &&& ~~~(0xFF#256) ||| BitVec.ofNat 256 op

/-- Whether two dual instructions agree under R90 in what their words alone decide: halves, mode, formats, MX flags of both sides and of the
output, and k_blocks. -/
def dualAgree (a b : Inst256) : Bool :=
  let same := fun (hi lo : Nat) => bits a hi lo == bits b hi lo
  shape b == 1 && !bit a 14 && bit b 14 && same 10 8 && same 25 16 && same 36 32 && same 57 48

end Mx

/-- Whether an instruction that reads and writes the listed handles must wait for an incomplete one (R74). -/
def hazard (jobs : List MatrixJob) (rds wrs : List Nat) : Bool :=
  jobs.any fun j => rds.any (Mx.writes j.w).contains || wrs.any (Mx.reads j.w).contains

/-- Whether an opcode is a reserved one of R73, R139 or R144: in the latch, tile-move and matrix rows, or outside every class. -/
def reservedOp (op : Nat) : Bool :=
  (0x14 ≤ op && op ≤ 0x1F) || (0x21 ≤ op && op ≤ 0x3F) || (0x42 ≤ op && op ≤ 0x4F) || 0x80 ≤ op

/-- Whether a view may be written by a unit of the cell (R110). -/
def View.writable (v : View) : Bool := !v.wp && v.rmode == 0 && v.gust == 0

namespace State

/-! ### The sequencer's place -/

/-- Whether the sequencer of cell `n` can issue an instruction now. -/
def issues (s : State) (n : Nat) : Bool :=
  s.cellOn n && !s.cellFenced n && s.flag Fld.celStatus_running n && !s.flag Fld.celStatus_waiting n && (s.cell n).stall.isNone

/-- The address of the instruction at which the sequencer stands. -/
def pc (s : State) (n : Nat) : Word := s.reg .celPc n

/-- The sequencer advanced by one instruction, 32 bytes (R73). -/
def advance (s : State) (n : Nat) : State := s.wr Fld.celPc_offset (s.rd Fld.celPc_offset n + 32) n

/-- The sequencer halted (R76). -/
def halt (s : State) (n : Nat) : State := (s.wr Fld.celStatus_running 0 n).wr Fld.celStatus_halted 1 n

/-- The first illegal instruction recorded (R78; log entry 63). -/
def recordIllegal (s : State) (n : Nat) (pc : Word) (cause : Nat) : State :=
  let s := onlyIf (!s.flag Fld.celFlags_illegal n) (fun s => (s.setReg .celFaultPc n 0 pc).wr Fld.celFaultCause_cause cause n) s
  s.wr Fld.celFlags_illegal 1 n

/-- The sequencer met an illegal instruction at `pc` (R78): it halts before it, records the first one and tells steward firmware; a latch
outside the span's ranges also sets its flag (R77). -/
def illegal (s : State) (n : Nat) (pc : Word) (cause : Nat) : State :=
  let s := onlyIf (cause == 0x07) (fun s => s.wr Fld.celFlags_latchRange 1 n) s
  (((s.recordIllegal n pc cause).setReg .celPc n 0 pc).halt n).noteFw 1 n

/-- One instruction of cell `n` issues when the sequencer can issue. A first dual instruction that is not followed at once by its second
breaks the rule of R90 and is the illegal one (log entry 37). -/
def issue (s : State) (n : Nat) (f : State → State) : State :=
  if !s.issues n then s
  else match (s.cell n).dual with
    | some (_, pc, _) => (s.modCell n fun c => { c with dual := none }).illegal n pc 0x05
    | none => f s

/-! ### Handles of a matrix instruction -/

/-- The copy whose step the span runs. -/
def runningCopy (s : State) (sp : Nat) : Option ModelCopy :=
  match (s.span sp).batch with
  | some b => if b.old then (s.span sp).old else (s.span sp).cur
  | none => (s.span sp).cur

/-- Whether a matrix instruction of cell `n` appends: its output handle is the append handle of the cell's span (R338). -/
def appends (s : State) (n : Nat) (w : Inst256) : Bool :=
  s.cellSpan n != 0xF && bits w 93 88 == s.rd Fld.kvwCfg_appHandle 0 (s.cellSpan n)

/-- Whether the piece number of an appending instruction is in range (R338). -/
def pieceOk (s : State) (n : Nat) (w : Inst256) : Bool :=
  match s.runningCopy (s.cellSpan n) with
  | some c => bits w 191 176 < c.hdr.pieces
  | none => false

/-- Whether an appending instruction has the output that R338 asks for. -/
def appendForm (s : State) (n : Nat) (w : Inst256) : Bool :=
  match s.runningCopy (s.cellSpan n) with
  | some c => Mx.outEn w && !Mx.omx w && Mx.ofmt w == c.hdr.kvFmt
  | none => false

/-- The resolved operands of a matrix or side-path instruction, when every handle rule and region holds (R86, R97, R104, R110): the
weight side maps the weight buffer (the pool on the side path), the activation side the activation buffer or the pool (the pool),
the partial sums their buffer, the output the pool or the activation buffer (the pool), the scales the pool. Handles of operands that
the instruction does not use are not resolved. -/
def matrixViews (s : State) (n : Nat) (w : Inst256) (side : Bool) : Option Prep :=
  let app := !side && s.appends n w
  match s.resolve n (bits w 69 64), s.resolve n (bits w 77 72), s.resolve n (bits w 85 80) with
  | some vw, some va, some vp =>
    let vo := if Mx.outEn w || app then s.resolve n (bits w 93 88) else some vp
    let vs := if Mx.sEn w then s.resolve n (bits w 101 96) else some vp
    match vo, vs with
    | some vo, some vs =>
      let wMem := if side then vw.mem == 0 else 1 ≤ vw.mem && vw.mem ≤ 3
      let aMem := va.mem == 0 || (va.mem == 4 && !side)
      let fits := vw.holds (Mx.wOff w) (Mx.wBytes w) && va.holds (Mx.aOff w) (Mx.aBytes w) && vp.holds (Mx.pOff w) (Mx.pBytes w)
      let formats := vw.fmt == Mx.wfmt w && vw.mx == Mx.wmx w && vw.gust == 0 && va.fmt == Mx.afmt w && va.mx == Mx.amx w && va.gust == 0
      let out := !Mx.outEn w || app || ((vo.mem == 0 || (vo.mem == 4 && !side)) && vo.writable && vo.fmt == Mx.ofmt w && vo.mx == Mx.omx w &&
        vo.holds (Mx.oOff w) (Mx.oBytes w))
      let scl := !Mx.sEn w || (vs.mem == 0 && vs.gust == 0 && vs.holds (Mx.sOff w) (Mx.sBytes w))
      if wMem && aMem && vp.mem == 5 && vp.writable && fits && formats && out && scl then
        some { vw, va, vp, vo, vs, app, wOld := [], aOld := [], sOld := [] }
      else none
    | _, _ => none
  | _, _, _ => none

/-- The bytes that an instruction reads of its weight, activation and scale regions, as the memory holds them (R75, R85). -/
def operandBytes (s : State) (n : Nat) (w : Inst256) (p : Prep) : List Nat × List Nat × List Nat :=
  let c := s.cell n
  let nat := fun (v : View) (off len : Nat) => (v.bytes c off len).map (·.toNat)
  (nat p.vw (Mx.wOff w) (Mx.wBytes w), nat p.va (Mx.aOff w) (Mx.aBytes w), if Mx.sEn w then nat p.vs (Mx.sOff w) (Mx.sBytes w) else [])

/-- The preparation of an instruction (R89): its operands, with what they hold from now on, or the cause that makes it illegal. -/
def prepare (s : State) (n : Nat) (w : Inst256) (side : Bool) (errs : ReadErrs) : Sum Nat Prep :=
  if (errs.parity.any (Mx.handles w).contains) then .inl 0x06
  else match s.matrixViews n w side with
    | none => .inl 0x06
    | some p =>
      if p.app && !s.pieceOk n w then .inl 0x06
      else if p.app && !s.appendForm n w then .inl 0x0B
      else
        let b := s.operandBytes n w p
        .inr { p with wOld := b.1, aOld := b.2.1, sOld := b.2.2 }

/-- The first cause of R86 (or R97, R98) that the word, the mode of the cell, the span's latches (R77) and the fence decide at issue; `none`
when there is none (log entry 60; the causes of `m_rows`, `k_blocks` and R97 are log entry 89's). -/
def matrixCause (s : State) (n : Nat) (w : Inst256) (side : Bool) : Option Nat :=
  if Mx.reserved w then some 0x02
  else if side && !(s.flag Fld.celCtrl_spEn n && (s.rd Fld.celCtrl_mode n == 1 || s.rd Fld.celCtrl_mode n == 2)) then some 0x08
  else if !Sys2Proof.Machine.pairOk (Mx.wfmt w) (Mx.afmt w) then some 0x03
  else if side && (Mx.mode w != 0 || Mx.shape w != 0 || bit w 14 || bit w 15 || Mx.mRows w != 1) then some 0x04
  else if Mx.shape w != 0 && Mx.mode w != 0 then some 0x04
  else if Mx.mRows w == 0 || Mx.rows w < Mx.mRows w || Mx.kBlocks w == 0 then some 0x04
  else if Mx.outEn w && !Mx.outOk w then some 0x0B
  else if Mx.noScales w then some 0x0A
  else if (bit w 224 && !s.ownsLatch (s.cellSpan n) (bits w 207 192)) ||
      (bit w 225 && !s.ownsLatch (s.cellSpan n) (bits w 223 208)) then some 0x07
  else if !side && s.arrayFenced n then some 0x09
  else none

/-! ### The order on the array (R89, R90) -/

/-- Jobs of the group at the head of a list: a dual pair, or one instruction. -/
def groupLen : List MatrixJob → Nat
  | [] => 0
  | j :: r => if Mx.shape j.w = 1 ∧ !bit j.w 14 ∧ !r.isEmpty then 2 else 1

/-- Whether the memories of a prepared dual pair are those of R90: weight halves 0 and 1, and different activation memories. -/
def pairMems (a b : Prep) : Bool :=
  a.vw.mem == 1 && b.vw.mem == 2 && ((a.va.mem == 4 && b.va.mem == 0) || (a.va.mem == 0 && b.va.mem == 4))

/-- The jobs of a group prepared, or the first that fails with its cause. -/
def prepareAll (s : State) (n : Nat) : List MatrixJob → Sum (MatrixJob × Nat) (List MatrixJob)
  | [] => .inr []
  | j :: r =>
    match s.prepare n j.w false j.errs, s.prepareAll n r with
    | .inl c, _ => .inl (j, c)
    | .inr _, .inl e => .inl e
    | .inr p, .inr l => .inr ({ j with prep := some p } :: l)

/-- Whether a prepared group is a dual pair whose memories break R90. -/
def pairBroken : List MatrixJob → Bool
  | [a, b] => match a.prep, b.prep with
    | some p, some q => !pairMems p q
    | _, _ => false
  | _ => false

/-- An instruction that proves illegal at its preparation (R109, R110): it and the instructions behind it leave the array, and the sequencer
halts before it (log entry 60). -/
def failJob (s : State) (n k : Nat) (j : MatrixJob) (cause : Nat) : State :=
  let s := (s.dropJobs n k).illegal n j.pc cause
  onlyIf (cause == 0x06 && j.errs.parity.any (Mx.handles j.w).contains) (fun s => s.handleParity n) s

/-- The group that begins at job `k` prepared, when it waits on no latch and is not prepared yet. -/
def prepareGroup (s : State) (n k : Nat) : State :=
  let l := (s.cell n).jobs.drop k
  let g := l.take (groupLen l)
  if g.isEmpty || g.any (·.waiting) || g.all (·.prep.isSome) then s
  else match s.prepareAll n g with
    | .inl (j, cause) => s.failJob n k j cause
    | .inr g' =>
      match pairBroken g', g with
      | true, a :: _ => s.failJob n k a 0x05
      | _, _ => s.modCell n fun c => { c with jobs := c.jobs.take k ++ g' ++ c.jobs.drop (k + g'.length) }

/-- What the array does next (R89): the oldest group prepares once its wait is met, and the group behind it once the oldest has started. -/
def arrayGo (s : State) (n : Nat) : State :=
  let s := s.prepareGroup n 0
  let k := groupLen (s.cell n).jobs
  let s := if ((s.cell n).jobs.take k).any (·.prep.isNone) then s else s.prepareGroup n k
  s.wr Fld.celStatus_arrayBusy (b2n ((s.cell n).jobs.any (·.prep.isSome))) n

/-- Whether a dual pair runs on the array of cell `n` (R90, R116). -/
def dualRuns (s : State) (n : Nat) : Bool := (s.cell n).jobs.any fun j => Mx.shape j.w == 1 && j.prep.isSome

end State
end Sys2Proof.Machine
end

