-- ==== Sys2Proof/Machine/Sequencer.lean ====
section
/-!
DEFINITION. The cell sequencer (03, R73 to R79) and the latches (05, R144 to R150): control and latch instructions, starting and
stopping a stream.
-/
namespace Sys2Proof.Machine

namespace State

/-! ### The sequencer -/

/-- A stream handle: valid, in the pool, linear and not Gust-coded (R110). -/
def streamView (s : State) (n h : Nat) : Option View :=
  match s.resolve n h with
  | some v => if v.mem = 0 ∧ v.rmode = 0 ∧ v.gust = 0 then some v else none
  | none => none

/-- An offset as the sequencer takes it, down to a multiple of 32 (R73; log entry 19). -/
def streamOff (o : Nat) : Nat := o % 2 ^ 24 / 32 * 32

/-- The write of `CEL_START` (R76, R110). -/
def startStream (s : State) (n v : Nat) : State :=
  if !(s.flag Fld.celCtrl_run n) || s.flag Fld.celStatus_running n then s.wr Fld.celFlags_startBusy 1 n
  else
    let pc : Word := BitVec.ofNat 64 (streamOff (nbits v 31 8) * 256 + nbits v 5 0)
    match s.streamView n (nbits v 5 0) with
    | none => s.recordIllegal n pc 0x06
    | some view =>
      let s := s.modCell n fun c => { c with stream := some view, loops := [], dual := none, stopReq := false }
      ((s.setReg .celPc n 0 pc).wr Fld.celStatus_running 1 n).wr Fld.celStatus_halted 0 n

/-- The stop request of R76: it halts at the next instruction boundary, which a wait or a stalled MOVE still has before it. A dual pair
issues as one, so a held first half is given up and the sequencer stands before it. -/
def requestStop (s : State) (n : Nat) : State :=
  if !s.flag Fld.celStatus_running n then s
  else if s.flag Fld.celStatus_waiting n || (s.cell n).stall.isSome then s.modCell n fun c => { c with stopReq := true }
  else match (s.cell n).dual with
    | some (_, pc, _) => ((s.modCell n fun c => { c with dual := none }).setReg .celPc n 0 pc).halt n
    | none => s.halt n

/-- The instruction boundary after a wait or a stalled MOVE: a stop requested meanwhile takes effect. -/
def boundary (s : State) (n : Nat) : State :=
  if (s.cell n).stopReq then (s.modCell n fun c => { c with stopReq := false }).halt n else s

/-- A move that ended with status 0x10 or above is counted, recorded and told to steward firmware (R138). -/
def descError (s : State) (ident tag status : Nat) : State :=
  let s := if s.flag Fld.mshStatus_descErr then s
    else s.setReg .mshDescErr 0 0 (BitVec.ofNat 64 (tag * 2 ^ 48 + status * 2 ^ 40 + ident * 2 ^ 32 + s.stamp16))
  (((s.wr Fld.mshStatus_descErr 1).bump Fld.mshDescErrCnt_count).noteFw 2 ident)

/-! ### Latches -/

/-- The register that holds latch `l`, with block instance and index (R21). -/
def latchPlace (l : Nat) : Reg × Nat × Nat :=
  if l < 57344 then (.latState, l / 1024, l % 1024) else (.latStateAbut, 0, l - 57344)

/-- Counter of latch `l`. -/
def counter (s : State) (l : Nat) : Nat :=
  let p := latchPlace l
  bits (s.reg p.1 p.2.1 p.2.2) 31 0
/-- Target of latch `l`. -/
def target (s : State) (l : Nat) : Nat :=
  let p := latchPlace l
  bits (s.reg p.1 p.2.1 p.2.2) 63 32
/-- Latch `l` set to a counter and a target. -/
def setLatch (s : State) (l c t : Nat) : State :=
  let p := latchPlace l
  s.setReg p.1 p.2.1 p.2.2 (BitVec.ofNat 64 (t % 2 ^ 32 * 2 ^ 32 + c % 2 ^ 32))
/-- Whether a wait on latch `l` is met. -/
def met (s : State) (l : Nat) : Bool := s.target l ≤ s.counter l

/-- The wait of the sequencer of cell `n` completes; a side-path instruction that waited may then run. -/
def endWait (s : State) (n : Nat) : State :=
  let s := s.modCell n fun c => { c with waitL := none, sideMet := c.sideMet.map fun _ => true }
  ((s.wr Fld.celStatus_waiting 0 n).wr Fld.celStatus_waitLatch 0 n).boundary n

/-- Home of latch `l`: its cell, or 56 for the Abutment die. -/
def latchHome (l : Nat) : Nat := if l < 57344 then l / 1024 else 56

/-- The wait of a matrix instruction of cell `n` is met (R85): it prepares when its turn comes. -/
def wakeJob (s : State) (n id : Nat) : State :=
  (s.modCell n fun c => { c with jobs := c.jobs.map fun j => if j.id == id then { j with waiting := false } else j }).arrayGo n

/-- A wait of engine `e` is met. -/
def wake (s : State) (e : Nat) : WaitFor → State
  | .seq => s.endWait e
  | .job i => s.wakeJob e i
  | .move i => s.startMove e i

/-- The waits on latch `l` that its own home's engine `h` holds: they need no registration. -/
def localWaits (s : State) (h l : Nat) : List WaitFor :=
  (if (s.cell h).waitL = some l ∧ h < 56 then [.seq] else []) ++
  (if h < 56 then ((s.cell h).jobs.filter fun j => j.waiting && bits j.w 207 192 == l).map (fun j => .job j.id) else []) ++
  ((s.movesOf h).filter fun m => m.waiting && bits m.desc 303 288 == l).map fun m => .move m.id

/-- A remote wait of engine `e` on latch `l` marked: the state that its registration has (R148). -/
def markWait (s : State) (e l : Nat) (b : WaitFor) (st : WaitSt) : State :=
  s.modWaits e fun ws => ws.filter (fun w => !(w.latch == l && w.by_ == b)) ++ [{ latch := l, by_ := b, st }]

/-- The evaluation of waits on latch `l` after a change (R146): the home's own waits end, and registered waiters are notified (R148). -/
def evalLatch (s : State) (l : Nat) : State :=
  if !s.met l then s
  else
    let h := latchHome l
    let s := forEach (s.localWaits h l) (fun b t => t.wake h b) s
    let s := forEach (s.waiters.filter fun w => w.latch == l) (fun w t => t.markWait w.engine l w.by_ .notified) s
    { s with waiters := s.waiters.filter fun w => !(w.latch == l) }

/-- A latch error (R145): 1 saturation, 2 rearm below target. -/
def latchError (s : State) (l cause who : Nat) : State :=
  s.logFirst Fld.latErrCnt_count .latErrLog (l * 2 ^ 48 + cause * 2 ^ 40 + who * 2 ^ 32 + s.stamp16)

/-- One operation on a latch without the evaluation of its waits (R144, R145): SIGNAL adds and holds at 0xFFFF_FFFF, RESET zeroes the counter
and sets the target, REARM subtracts the target and holds at 0. -/
def applyLatch (s : State) (l : Nat) (k : LatchOpKind) (who v : Nat) : State :=
  match k with
  | .reset => s.setLatch l 0 v
  | .signal =>
    let c := s.counter l + v
    if 0xFFFFFFFF < c then (s.setLatch l 0xFFFFFFFF (s.target l)).latchError l 1 who else s.setLatch l c (s.target l)
  | .rearm =>
    if s.counter l < s.target l then (s.setLatch l 0 (s.target l)).latchError l 2 who
    else s.setLatch l (s.counter l - s.target l) (s.target l)

/-- The RESET of a cycle that stands: the one of the highest identity (R146). -/
def topReset (l : List LatchOp) : Option LatchOp :=
  l.foldl (fun (a : Option LatchOp) o => match a with
    | some x => if o.who < x.who then some x else some o
    | none => some o) none

/-- The operations that one cycle brought to latch `l` applied in the order of R146: every RESET, the highest identity last; the sum of every
SIGNAL; every REARM. -/
def settleLatch (s : State) (l : Nat) : State :=
  let mine := s.latchOps.filter fun (o : LatchOp) => o.latch == l
  let s : State := { s with latchOps := s.latchOps.filter fun o => !(o.latch == l) }
  let pick := fun (k : LatchOpKind) => mine.filter fun (o : LatchOp) => o.kind == k
  let s := match topReset (pick .reset) with
    | some o => s.applyLatch l .reset o.who o.value
    | none => s
  let s := match (pick .signal).getLast? with
    | some o => s.applyLatch l .signal o.who (((pick .signal).map fun (o : LatchOp) => o.value).sum)
    | none => s
  forEach (pick .rearm) (fun (o : LatchOp) (t : State) => t.applyLatch l .rearm o.who 0) s

/-- The end of a cycle at latch `l`: its operations, then the waits (R146). -/
def closeCycle (s : State) (l : Nat) : State := (s.settleLatch l).evalLatch l

/-- The cycle of latch `l` closed when one is open. -/
def closeOpen (s : State) (l : Nat) : State := if s.latchOps.any fun o => o.latch == l then s.closeCycle l else s

/-- An operation reaches latch `l`: `more` holds its cycle open for the next one (R146; log entry 59). -/
def latchOp (s : State) (l : Nat) (k : LatchOpKind) (who v : Nat) (more : Bool) : State :=
  let s : State := { s with latchOps := s.latchOps ++ [{ latch := l, kind := k, who, value := v }] }
  if more then s else s.closeCycle l

/-- SIGNAL: counter ← counter + v, holding at 0xFFFF_FFFF (R144, R145). -/
def signal (s : State) (who l v : Nat) : State := s.latchOp l .signal who v false

/-- Whether the home of latch `l` has no room for a waiter: 512 at a cell, 4,096 at the Abutment die (R148). -/
def homeFull (s : State) (l : Nat) : Bool :=
  (if l < 57344 then 512 else 4096) ≤ (s.waiters.filter fun w => latchHome w.latch == latchHome l).length

/-- A wait of engine `e` entered at the home of latch `l`, or refused there (R148). -/
def enroll (s : State) (e l : Nat) (b : WaitFor) : State :=
  if s.homeFull l then s.markWait e l b .refused
  else ({ s with waiters := s.waiters ++ [{ latch := l, engine := e, by_ := b }] } : State).markWait e l b .registered

/-- Registration of a wait of engine `e` at the home of latch `l`, which evaluates it (R148; log entry 66). -/
def register (s : State) (e l : Nat) (b : WaitFor) : State :=
  if s.homeFull l then s.enroll e l b else (s.enroll e l b).evalLatch l

/-- A wait of engine `e` on latch `l` begins (R147, R148): one at its own home is evaluated, one elsewhere registers there. -/
def startWait (s : State) (e l : Nat) (b : WaitFor) : State :=
  if latchHome l = e then (if s.met l then s.wake e b else s) else s.register e l b

/-- The sequencer of cell `n` shown waiting on latch `l` (R147). -/
def seqWaits (s : State) (n l : Nat) : State :=
  ((s.modCell n fun c => { c with waitL := some l }).wr Fld.celStatus_waiting 1 n).wr Fld.celStatus_waitLatch l n

/-- WAIT of the sequencer of cell `n` on latch `l` (R147, R148): one that its own home finds met goes on. In a cycle that is held open it is
evaluated when the cycle closes (R146). -/
def waitOn (s : State) (n l : Nat) (more : Bool) : State :=
  let s := if more then s else s.closeOpen l
  if latchHome l ≠ n then (if more then (s.seqWaits n l).enroll n l .seq else (s.seqWaits n l).register n l .seq)
  else if s.met l && !more then s
  else s.seqWaits n l

/-- A latch instruction (R144): a reserved opcode, reserved bits and values, then the span's ranges (R77), then its effect. -/
def latchInst (s : State) (n : Nat) (w : Inst256) (noValue noZero : Bool) (f : Nat → Nat → State → State) : State :=
  s.issue n fun s =>
    let l := bits w 31 16
    let v := bits w 63 32
    if reservedOp (bits w 7 0) then s.illegal n (s.pc n) 0x01
    else if bits w 15 8 ≠ 0 ∨ bits w 255 64 ≠ 0 ∨ (noValue ∧ v ≠ 0) ∨ (noZero ∧ v = 0) then s.illegal n (s.pc n) 0x02
    else if !s.ownsLatch (s.cellSpan n) l then s.illegal n (s.pc n) 0x07
    else f l v (s.advance n)

end State

/-- NOP (R73). -/
def execNop (n : CellId) (s : State) : Out := .next (s.issue n fun s => s.advance n)
/-- STOP (R76). -/
def execStop (n : CellId) (s : State) : Out := .next (s.issue n fun s => (s.advance n).halt n)
/-- Branch to an offset of a stream handle (R73, R110). -/
def execBranch (n : CellId) (h off : Nat) (s : State) : Out :=
  .next (s.issue n fun s =>
    match s.streamView n (h % 64) with
    | none => s.illegal n (s.pc n) 0x06
    | some v =>
      (s.modCell n fun c => { c with stream := some v }).setReg .celPc n 0
        (BitVec.ofNat 64 (State.streamOff off * 256 + h % 64)))
/-- Counted loop: the instruction closes a body that begins at `start` and runs it `count` times in all (R73; log entry 19). -/
def execCountedLoop (n : CellId) (start count : Nat) (s : State) : Out :=
  .next (s.issue n fun s =>
    let here := s.rd Fld.celPc_offset n
    let left := match (s.cell n).loops.find? fun e => e.1 == here with
      | some e => e.2
      | none => count - 1
    let s := s.modCell n fun c => { c with loops := c.loops.filter fun e => !(e.1 == here) }
    if left = 0 then s.advance n
    else (s.modCell n fun c => { c with loops := (here, left - 1) :: c.loops }).wr Fld.celPc_offset (State.streamOff start) n)
/-- SIGNAL (R144): value 0 is illegal with cause 0x02. -/
def execSignal (n : CellId) (c : LatchCmd) (s : State) : Out :=
  .next (s.latchInst n c.word false true fun l v s => s.latchOp l .signal (cellIdent n) v c.more)
/-- WAIT (R144, R147). -/
def execWait (n : CellId) (c : LatchCmd) (s : State) : Out :=
  .next (s.latchInst n c.word true false fun l _ s => s.waitOn n l c.more)
/-- RESET (R144). -/
def execReset (n : CellId) (c : LatchCmd) (s : State) : Out :=
  .next (s.latchInst n c.word false false fun l v s => s.latchOp l .reset (cellIdent n) v c.more)
/-- REARM (R144). -/
def execRearm (n : CellId) (c : LatchCmd) (s : State) : Out :=
  .next (s.latchInst n c.word true false fun l _ s => s.latchOp l .rearm (cellIdent n) 0 c.more)

/-- CEL_START (R76). -/
def execCelStart (w : Ident) (n : CellId) (v : BitVec 32) (s : State) : Out :=
  .next (s.byFirmware w.toNat fun s => onlyIf (s.cellOn n) (fun s => s.startStream n v.toNat) s)
/-- `CEL_CTRL.stop_req` (R76). -/
def execStopReq (w : Ident) (n : CellId) (s : State) : Out :=
  .next (s.byFirmware w.toNat fun s => onlyIf (s.cellOn n) (fun s => s.requestStop n) s)
/-- CEL_RNG_SEED (R529). -/
def execCelRngSeedWrite (w : Ident) (n : CellId) (seed : BitVec 32) (s : State) : Out :=
  .next (s.byFirmware w.toNat fun s => onlyIf (s.cellOn n) (fun s => s.modCell n fun c => { c with rng := seedRng seed }) s)

/-- The home's notification reaches a remote waiter (R148): the i-th of the engine's waits, when the home has notified it. -/
def execWaitNotification (r : WaitRef) (s : State) : Out :=
  match (s.waitsOf r.engine)[r.index]? with
  | none => .next s
  | some w =>
    if w.st = .notified then .next ((s.modWaits r.engine fun l => l.filter fun x => !(x == w)).wake r.engine w.by_) else .next s
/-- A refused registration is repeated after 64 cycles (R148): that of the i-th of the engine's waits. -/
def execWaiterRegistrationRetry (r : WaitRef) (s : State) : Out :=
  match (s.waitsOf r.engine)[r.index]? with
  | none => .next s
  | some w => if w.st = .refused then .next (s.register r.engine w.latch w.by_) else .next s

end Sys2Proof.Machine
end

