-- ==== Sys2Proof/Machine/Flash.lean ====
section
/-!
DEFINITION. The weight-flash controller (07): operations, plane states, program and erase, reads, bad blocks and relocation, cuts and the
interface clock. The completions of operations that a long operation issues stand in `FLC_DONE` for `Images.lean` to take.
-/
namespace Sys2Proof.Machine

/-- Fields of an operation descriptor (R196). -/
def Fop.code (w : Inst256) : Nat := bits w 7 0
/-- Die. -/
def Fop.die (w : Inst256) : Nat := bits w 8 8
/-- Row, or physical block. -/
def Fop.row (w : Inst256) : Nat := bits w 24 16
/-- Page, or parameter unit. -/
def Fop.page (w : Inst256) : Nat := bits w 41 32
/-- Tag. -/
def Fop.tag (w : Inst256) : Nat := bits w 63 48
/-- T1 address of the data. -/
def Fop.buf (w : Inst256) : Nat := bits w 191 128

/-- A descriptor with its operation code set: a row of the table queues its own operation. -/
def Fop.withCode (w : Inst256) (c : Nat) : Inst256 := BitVec.ofNat 256 (w.toNat - bits w 7 0 + c)

/-- Whether an operation acts on the parameter array. -/
def Fop.isParam (w : Inst256) : Bool := Fop.code w == 0x30 || Fop.code w == 0x31 || Fop.code w == 0x32

/-- Whether the descriptor's code and the fields that its operation uses are those of R186, R190, R196 and R197. `rows` bounds the row: a REBUILD
erases reserve blocks as the rows after the last logical one. Reserved fields are ignored (R4). -/
def Fop.wellFormed (w : Inst256) (rows : Nat) : Bool :=
  let c := Fop.code w
  let known := c == 0x01 || c == 0x02 || c == 0x03 || c == 0x10 || c == 0x20 || Fop.isParam w || c == 0x40 || c == 0x7F
  let page := c == 0x01 || c == 0x02 || c == 0x10
  let data := page || c == 0x03 || c == 0x30 || c == 0x31
  let place := if bit w 25 then c == 0x03 && Fop.row w < Config.physBlocks else Fop.row w < rows
  known && (Fop.isParam w || c == 0x7F || place) && (!page || bits w 41 41 == 0) &&
    (!data || (bits w 139 128 == 0 && Fop.buf w < 8 * Config.sliceBytes)) && (c != 0x40 || (selected w).length == 1)

/-- Whether a writer may program or erase a parameter sector (R190, R191); `active` is the active firmware image, `upd` tells that FW_UPDATE
runs. -/
def sectorWriter (active : Nat) (upd : Bool) (w sector : Nat) : Bool :=
  if sector ≤ 3 then isSteward w && upd && active == 1
  else if sector ≤ 7 then isSteward w && upd && active == 0
  else if sector = 8 then isKeystone w
  else (sector == 11 || sector == 12) && isSteward w

/-- The least legal rd_cycles at a frequency code and supply, `none` where the frequency is not allowed (R193, R194). -/
def minWait (freq vccq : Nat) : Option Nat :=
  if 6 < freq ∨ (vccq = 0 ∧ 4 < freq) then none
  else some (cdiv ((800 + 200 * freq) * (if vccq = 1 then 10 else 15)) 1000)

namespace State

/-! ### Completion (R199) -/

/-- An operation in the controller. -/
def flashOp (s : State) (id : Nat) : Option FlashOp := s.flash.ops.find? fun o => o.id == id
/-- An operation changed by `f`. -/
def modFlashOp (s : State) (id : Nat) (f : FlashOp → FlashOp) : State :=
  s.modFlash fun x => { x with ops := x.ops.map fun o => if o.id == id then f o else o }

/-- Operations queued (`FLC_QUEUE.ops`); the page reads of fetch legs are not among them. -/
def flashQueued (s : State) : Nat := (s.flash.ops.filter fun o => o.leg.isNone).length

/-- A completed operation leaves the controller: a leg's read tells its leg; any other signals its latch and enters `FLC_DONE`, where a long
operation's stands for it to take. The latch operation bears the identity of the descriptor's writer (log entry 81). -/
def flashComplete (s : State) (o : FlashOp) : State :=
  let s := s.modFlash fun x => { x with ops := x.ops.filter fun y => !(y.id == o.id) }
  let s := if o.status = 3 then s.wr Fld.flcStatus_noReserve 1 else s
  match o.leg with
  | some l =>
    s.modTier fun t => { t with legs := t.legs.map fun y =>
      if y.id == l then { y with rest := y.rest - 1, bad := y.bad || o.status == 4 } else y }
  | none =>
    let d : Word := BitVec.ofNat 64 (2 ^ 63 + o.status * 2 ^ 48 + o.badPl * 2 ^ 42 + Fop.die o.w * 2 ^ 41 + Fop.tag o.w)
    let s := s.modFlash fun x => { x with done := x.done ++ [{ word := d, job := o.job.map fun j => (j, o.status) }] }
    if bit o.w 208 then s.signal o.writer (bits o.w 207 192) 1 else s

/-- The record that follows an operation some of whose planes have verified (R218): ROW_DONE after page 511, ER_DONE after an erase. -/
def doneRecord (s : State) (o : FlashOp) : State :=
  let ok := (selected o.w).filter fun k => !o.left.contains k && !o.fails.contains k
  if ok.isEmpty then s
  else if Fop.code o.w = 0x10 ∧ Fop.page o.w = 511 then s.journalWrite (Fop.die o.w) recRowDone (Fop.row o.w) 511 (maskOf ok)
  else if Fop.code o.w = 0x20 then s.journalWrite (Fop.die o.w) recErDone (Fop.row o.w) 0 (maskOf ok)
  else s

/-- Plane `k` of an operation is done with a status, and the last plane completes it. Of several failures the plane of the first is told, and status
0x03 goes before 0x02 (R199, R201). -/
def planeDone (s : State) (id k st : Nat) : State :=
  match s.flashOp id with
  | none => s
  | some o =>
    let o := { o with left := o.left.erase k, status := if o.status ≤ 1 then max o.status st else if st = 3 then 3 else o.status,
                      badPl := if o.status ≤ 1 ∧ 2 ≤ st then k else o.badPl, fails := if 2 ≤ st then k :: o.fails else o.fails }
    let s := s.modFlashOp id fun _ => o
    if o.left.isEmpty then (s.doneRecord o).flashComplete o else s

/-- The journal record that goes before an operation's first upper-page program or erase (R218). -/
def openRecord (s : State) (o : FlashOp) (type page : Nat) : State :=
  if o.opened then s
  else (s.journalWrite (Fop.die o.w) type (Fop.row o.w) page (bits o.w 127 64)).modFlashOp o.id fun o => { o with opened := true }

/-! ### Bad blocks (R201, R211, R212, R214) -/

/-- A block entered in the grown bad-block table, and the table written (R212). -/
def markBad (s : State) (d k phys cause : Nat) : State :=
  (s.modFlash fun x => { x with
    bad := x.bad ++ [{ die := d, plane := k, phys, cause, period := s.periods }]
    spare := SMap.put none x.spare (planeKey d k) (some ((s.spareOf d k).filter (· != phys))) }).writeTable d

/-- Logical block `row` of a plane mapped to another block, in one write of the table (R212, R214). -/
def switchMap (s : State) (d k row phys : Nat) : State := (s.mapBlock d k row phys).writeTable d

/-- Block `phys` erased by the controller itself for logical block `row`, with its records (R201, R218). -/
def eraseBlock (s : State) (d k row phys : Nat) : State :=
  let s := s.journalWrite d recErOpen row 0 (2 ^ k)
  ((s.blockWipe d k phys).modBlock d k phys fun _ => {}).journalWrite d recErDone row 0 (2 ^ k)

/-- A reserve block taken for logical block `row` (log entry 41): one that is not blank is erased first. -/
def takeSpare (s : State) (d k row : Nat) : Option (Nat × State) :=
  match s.spareOf d k with
  | [] => none
  | b :: r =>
    let x := s.block d k b
    let s := s.setSpare d k r
    some (b, if x.erased && x.next == 0 then s else s.eraseBlock d k row b)

/-- Logical block `row` of a plane mapped to a reserve block; none left retires the unit (R201). -/
def replaceBlock (s : State) (d k row : Nat) : Bool × State :=
  match s.takeSpare d k row with
  | some (b, s) => (true, s.switchMap d k row b)
  | none =>
    (false, (((s.modFlash fun x => { x with retired := if x.retired.contains row then x.retired else x.retired ++ [row] }).wr
      Fld.flcStatus_unitRetired 1).wr Fld.flcStatus_noReserve 1).writeTable d)

/-- The factory scan before a die's first erase (R211): every marked block is recorded, then each that is in use is replaced, and the table is
scanned. -/
def scanDie (s : State) (d : Nat) : State :=
  if s.flash.scanned.contains d then s
  else
    let l := s.flash.marks.filter fun m => m.1 == d
    let s := forEach l (fun m (t : State) => t.markBad d m.2.1 m.2.2 0) s
    let s := s.modFlash fun x => { x with scanned := x.scanned ++ [d] }
    let s := s.writeTable d
    forEach l (fun m (t : State) =>
      match (List.range Config.flashUnits).find? fun r => t.physOf d m.2.1 r == m.2.2 with
      | some r => (t.replaceBlock d m.2.1 r).2
      | none => t) s

/-- The first error since fail and ue were last both clear (`FLC_ERR_LOG`). -/
def flashLog (s : State) (kind d k row page : Nat) : State :=
  if s.flag Fld.flcStatus_fail || s.flag Fld.flcStatus_ue then s
  else s.setReg .flcErrLog 0 0
    (BitVec.ofNat 64 (kind * 2 ^ 60 + d * 2 ^ 59 + k * 2 ^ 53 + row * 2 ^ 44 + page * 2 ^ 35 + s.stamp16))

/-! ### The plane scheduler (R205, R208, R209) -/

/-- Whether the controller may start programs and erases: not under sag_hold (R222), restart checks done (R220). -/
def flashStarts (s : State) : Bool := !s.flag Fld.flcStatus_sagHold && !s.flag Fld.flcStatus_restartBusy

/-- Whether an erase or an upper-page program of die `d` waits for the erase of the journal's next sector (R219). -/
def journalWaits (s : State) (d : Nat) : Bool := s.flash.jErase.contains d

/-- A program begins on a plane: the UP_OPEN record of an upper page stands first (R218). -/
def startProgram (s : State) (d k id : Nat) (st : PlaneSt) : State :=
  match s.flashOp id with
  | none => s
  | some o =>
    let s := if upperPage (Fop.page o.w) then s.openRecord o recUpOpen (Fop.page o.w) else s
    s.modPlane d k fun p => { p with st, prog := some id, waitP := p.waitP.erase id, pulses := 0 }

/-- An erase begins on a plane, or a RELOCATE begins its copy (R211, R214, R218). -/
def startErase (s : State) (d k id : Nat) : State :=
  match s.flashOp id with
  | none => s
  | some o =>
    if Fop.code o.w = 0x40 then
      let s := (s.modPlane d k fun p => { p with waitE := p.waitE.erase id }).scanDie d
      match s.takeSpare d k (Fop.row o.w) with
      | none => s.planeDone id k 3
      | some (b, s) =>
        (s.modFlashOp id fun o => { o with target := b, page := 0 }).modPlane d k fun p =>
          { p with st := .programming, prog := some id, pulses := 0 }
    else
      let s := s.scanDie d
      (s.openRecord o recErOpen 0).modPlane d k fun p => { p with st := .erasing, ers := some id, waitE := p.waitE.erase id, segs := 0 }

/-- The logical block that an operation of a plane works on. -/
def opRowOf (s : State) (id : Nat) : Option Nat := (s.flashOp id).map fun o => Fop.row o.w

/-- A queued program for another block than the one being erased (R208, R209). -/
def otherProgram (s : State) (p : Plane) : Option Nat :=
  p.waitP.find? fun id => s.opRowOf id != (p.ers.bind s.opRowOf)

/-- Whether a queued operation may start on die `d` (R219). -/
def journalOk (s : State) (d id : Nat) : Bool :=
  !s.journalWaits d || (s.flashOp id).any fun o => Fop.code o.w == 0x10 && !upperPage (Fop.page o.w)

/-- What a plane starts next: reads go first; then a new program; then a new erase. -/
def planeGo (s : State) (d k : Nat) : State :=
  let p := s.plane d k
  if !p.reads.isEmpty || !s.flashStarts then s
  else match p.st with
    | .idle =>
      match p.waitP, p.waitE with
      | id :: _, _ => if s.journalOk d id then s.startProgram d k id .programming else s
      | [], id :: _ => if s.journalOk d id then s.startErase d k id else s
      | [], [] => s
    | .eraseSuspended =>
      match s.otherProgram p with
      | some id => if s.journalOk d id then s.startProgram d k id .eraseSuspProg else s
      | none => s
    | _ => s

/-- Every plane of both dies looks for work. -/
def planesGo (s : State) : State :=
  forEach s.flash.planes (fun e t => t.planeGo (e.1 / 64) (e.1 % 64)) s

/-! ### Submission (R190, R191, R197, R198) -/

/-- Programs of a block that stand before a new one on a plane. -/
def programsAhead (s : State) (d k row : Nat) : Nat :=
  let p := s.plane d k
  ((p.waitP ++ p.prog.toList).filter fun id => s.opRowOf id == some row).length

/-- The refusals of R198 for one plane; a block marked needs_erase is erased before any use (R220). -/
def programRefused (s : State) (d k row page : Nat) : Bool :=
  let b := s.block d k (s.physOf d k row)
  !b.erased || s.flash.needs.contains (d, row, k) || page != b.next + s.programsAhead d k row

/-- A parameter operation carried out; the array has no row of its own for its end (log entry 4). -/
def paramOp (s : State) (o : FlashOp) : State :=
  let d := Fop.die o.w
  let sec := bits o.w 19 16
  let s := match Fop.code o.w with
    | 0x30 => s.dramWrite (Fop.buf o.w) (s.unitBytes d sec (Fop.page o.w))
    | 0x31 => s.programUnit d sec (Fop.page o.w) (readBytes 0 s.tier.dram (Fop.buf o.w) 120)
    | _ => s.wipeParam d sec
  s.flashComplete o

/-- Every plane state after the running program or erase of operation `id` has left it. -/
def Plane.without (p : Plane) (id : Nat) : Plane :=
  let p := { p with reads := p.reads.erase id, waitR := p.waitR.erase id, waitP := p.waitP.erase id, waitE := p.waitE.erase id }
  if p.prog = some id then
    { p with prog := none, pulses := 0, st := if p.st = .eraseSuspProg then .eraseSuspended else if p.ers.isSome then p.st else .idle }
  else if p.ers = some id then { p with ers := none, segs := 0, st := if p.st = .eraseSuspProg then .programming else .idle }
  else p

/-- The planes that run an operation. -/
def runningOn (s : State) (o : FlashOp) : List Nat :=
  o.left.filter fun k => (s.plane (Fop.die o.w) k).prog == some o.id || (s.plane (Fop.die o.w) k).ers == some o.id

/-- The blocks that an operation runs on as its end before its time leaves them (R216): they take no page until an erase or a restart
check; the new block of a RELOCATE goes back to the reserve. -/
def markCut (s : State) (o : FlashOp) : State :=
  let d := Fop.die o.w
  forEach (s.runningOn o) (fun k t =>
    if Fop.code o.w = 0x40 then t.setSpare d k (t.spareOf d k ++ [o.target])
    else t.modBlock d k (t.physOf d k (Fop.row o.w)) fun b => { b with erased := false }) s

/-- The data of plane `k` of a program: its part of the buffer, in plane order; a long operation's comes from its source object. -/
def programData (s : State) (o : FlashOp) (k : Nat) : List Byte :=
  let i := ((selected o.w).takeWhile (· != k)).length
  match o.job.map fun j => (s.op j).job with
  | some (.flash j) => s.objRead j.src (((Fop.row o.w - j.first) * 2 ^ 30) + (Fop.page o.w * 128 + k * 2 + Fop.die o.w) * 16384) pageData
  | _ => readBytes 0 s.tier.dram (Fop.buf o.w + i * pageData) pageData

/-- What the pulses of a cut program leave in its page: a later read that decodes finds the data (log entry 43). -/
def cutPage (s : State) (o : FlashOp) (k : Nat) : State :=
  let d := Fop.die o.w
  let phys := s.physOf d k (Fop.row o.w)
  if (s.plane d k).prog != some o.id then s
  else if Fop.code o.w = 0x40 then s.pageCopy d k phys o.target o.page
  else s.pageWrite d k phys (Fop.page o.w) (s.programData o k)

/-- An operation ended as a cut (R216, R218, R222): status 0x06, the record of what had verified unless sag_hold forbids it, and a CUT record when
it had begun. The block under program takes no more pages until an erase or a restart check; whether a later read decodes its page is that read's (log entry 43). -/
def cutOp (s : State) (id : Nat) : State :=
  match s.flashOp id with
  | none => s
  | some o =>
    let d := Fop.die o.w
    let row := Fop.row o.w
    let on := s.runningOn o
    let prog := on.any fun k => (s.plane d k).prog == some id
    let copy := Fop.code o.w == 0x40
    let s := forEach on (fun k t => t.cutPage o k) s
    let s := if Fop.isParam o.w || s.flag Fld.flcStatus_sagHold then s else s.doneRecord o
    let s := s.markCut o
    let s := if on.isEmpty then s
      else (s.journalWrite d recCut row (if prog then (if copy then o.page else Fop.page o.w) else 0) (maskOf on)).wr Fld.flcStatus_cut 1
    let s := forEach o.left (fun k t => t.modPlane d k fun p => Plane.without p id) s
    s.flashComplete { o with status := 6 }

/-- DIE_RESET (R197): every operation on the die ends as a cut, parameter operations that sag_hold holds back among them. -/
def dieReset (s : State) (d : Nat) : State :=
  forEach (s.flash.ops.filter fun o => Fop.die o.w == d && Fop.code o.w != 0x7F) (fun o t => t.cutOp o.id) s

/-- Whether FW_UPDATE runs (R190, R492). -/
def updating (s : State) : Bool := s.ops.any fun e => e.2.live && match e.2.job with
  | .fw _ => true
  | _ => false

/-- The rows that an operation of a job may name: a REBUILD also erases the reserve (R213). -/
def rowLimit (s : State) (job : Option Nat) : Nat :=
  match job.map fun j => (s.op j).job with
  | some (.flash j) => if j.kind = .rebuild then 512 else Config.flashUnits
  | _ => Config.flashUnits

/-- An operation accepted (R197, R198): refused ones complete with 0x05 at once, the others join their planes' queues. -/
def flashAccept (s : State) (writer : Nat) (w : Inst256) (job : Option Nat) : State :=
  let id := s.flash.nextId
  let d := Fop.die w
  let row := Fop.row w
  let ks := selected w
  let o : FlashOp := { id, writer, w, left := ks, status := 0, badPl := 0, job, leg := none, opened := false, page := 0, target := 0 }
  let s := s.modFlash fun x => { x with nextId := id + 1, ops := x.ops ++ [o] }
  let c := Fop.code w
  let refused :=
    !Fop.wellFormed w (s.rowLimit job) || (!s.dieServes d && !(Fop.isParam w) && c != 0x7F && job.isNone) ||
    ((c == 0x31 || c == 0x32) && !sectorWriter s.key.active s.updating writer (bits w 19 16)) ||
    (c == 0x10 && (s.rowValid row || ks.any fun k => s.programRefused d k row (Fop.page w)))
  let go := fun (t : State) => forEach ks (fun k t => t.planeGo d k) t
  if refused then s.flashComplete { o with status := 5 }
  else if c = 0x7F then (s.dieReset d).flashComplete o
  else if Fop.isParam w then
    if c ≠ 0x30 ∧ s.flag Fld.flcStatus_sagHold then s else s.paramOp o
  else if ks.isEmpty then s.flashComplete o
  else if c ≤ 0x03 then forEach ks (fun k t => t.queueRead d k id) s
  else if c = 0x10 then go (forEach ks (fun k t => t.modPlane d k fun p => { p with waitP := p.waitP ++ [id] }) s)
  else go (forEach ks (fun k t => t.modPlane d k fun p => { p with waitE := p.waitE ++ [id] }) s)

/-- The write of `FLC_OP_GO` (R196): 64 operations queued drop it. -/
def flashGo (s : State) (writer : Nat) (w : Inst256) : State :=
  if 64 ≤ s.flashQueued then s.wr Fld.flcStatus_opFull 1 else s.flashAccept writer w none

/-- A descriptor written to `FLC_OP[0]` to `FLC_OP[3]` and started, by steward firmware or keystone. -/
def flashSubmit (s : State) (writer : Nat) (w : Inst256) (code : Nat) : State :=
  s.byFirmware writer fun s =>
    let w := Fop.withCode w code
    let s := forEach (List.range 4) (fun i t => t.setReg .flcOp 0 i (BitVec.ofNat 64 (bits w (64 * i + 63) (64 * i)))) s
    s.flashGo writer w

/-- What sag_hold held back goes on when the flag clears (R222). -/
def flashRelease (s : State) : State :=
  let s := s.paramRelease
  let s := forEach (s.flash.ops.filter fun o => Fop.isParam o.w) (fun o t => t.paramOp o) s
  s.planesGo

/-! ### Reads (R203, R204, R206, R214) -/

/-- The bytes of a slot's requests of a copy that streams an object end (R204): reason LOST, status 0x52, at the next boundary. -/
def endStreamers (s : State) (o : Nat) : State :=
  forEach s.slots (fun e t =>
    let sp := t.span e.2.span
    let copy := if e.2.old then sp.old else sp.cur
    if e.2.st ≠ 0 ∧ (copy.any fun c => c.objs.contains o) then
      t.modSpan e.2.span fun x => { x with forced := x.forced ++ [{ slot := e.1, reason := 9, status := 0x52 }] }
    else t) s

/-- A valid image becomes DAMAGED (R204, R231): notice, its objects in the extents that hold one of the failed codewords LOST, loads that read it
ended. While a die is out of service no image is damaged. -/
def damageImage (s : State) (i a : Nat) (bad : List Nat) : State :=
  if (s.lib i).st ≠ 2 ∨ !s.libServes then s
  else
    let s := (s.setLibState i 3).wr Fld.imgStatus_damaged 1
    let s := s.noticeAll 0x06 noSpan noSlot 0 noObject i
    let hit := fun (x : DirEntry) => bad.any fun c => x.addr < a + (c + 1) * 2048 && a + c * 2048 < x.addr + x.bytes
    let s := forEach s.tier.objs (fun e t => if e.2.e.home = 2 ∧ hit e.2.e then (t.endStreamers e.1).loseObj e.1 else t) s
    forEach s.ops (fun e t =>
      match e.2.job with
      | .load j => if e.2.live ∧ j.image = i then t.modFlash fun x => { x with jobDone := x.jobDone ++ [(e.1, 0x53)] } else t
      | _ => t) s

/-- Codewords of a page stayed uncorrectable (R203, R204, R501). -/
def flashUe (s : State) (d k row page : Nat) (bad : List Nat) : State :=
  let s := ((s.flashLog 3 d k row page).bump Fld.flcEccUe_count 0 d bad.length).wr Fld.flcStatus_ue 1
  let s := s.aerAll .correctedInternal
  match s.imageOfRow row with
  | some i => s.damageImage i (row * 2 ^ 30 + (page * 128 + k * 2 + d) * 16384) bad
  | none => s

/-- A page read counted for its block (R214): a count past the limit calls for a refresh, once until the block's count starts again. -/
def countRead (s : State) (d k row : Nat) (phys : Nat) : State :=
  let s := s.modBlock d k phys fun b => { b with reads := b.reads + 1 }
  let b := s.block d k phys
  if s.rd Fld.flcRdLimit_limit * 2 ^ 20 < b.reads ∧ !b.due then
    let s := s.modBlock d k phys fun b => { b with due := true }
    ((s.wr Fld.flcStatus_refreshDue 1).noticeDev 0x0D noSpan (d * 2 ^ 31 + k * 2 ^ 24 + row)).noteFw 4 (d * 2 ^ 31 + k * 2 ^ 24 + row)
  else s

/-- The codewords of a page that stayed uncorrectable. -/
def PageOutcome.bad : PageOutcome → List Nat
  | .uncorrectable c l _ => (c :: l).dedup.map (·.val)
  | _ => []

/-- What an array read of one plane gives its operation: the status of its plane and the state after the data has been delivered. -/
def readResult (s : State) (o : FlashOp) (d k : Nat) (out : PageOutcome) : Nat × State :=
  let row := Fop.row o.w
  let phys := if bit o.w 25 then row else s.physOf d k row
  let page := Fop.page o.w
  let at_ := ((selected o.w).takeWhile (· != k)).length
  let own := o.leg.isNone && o.job.isNone
  let put := fun (off : Nat) (l : List Byte) (t : State) => if own then t.dramWrite (Fop.buf o.w + off) l else t
  let s := s.countRead d k row phys
  match Fop.code o.w with
  | 0x03 =>
    let s := s.countRead d k row phys
    (0, put at_ [if s.flash.marks.contains (d, k, phys) then (s.spareRead d k phys 0).headD 0xFF else 0xFF] s)
  | 0x02 =>
    match out with
    | .corrected 0 => (0, put (at_ * pageBytes) (s.pageRead d k phys page 0 pageData ++ s.spareRead d k phys page) s)
    | _ =>
      let (f, s) := s.freeBytes pageBytes
      (0, put (at_ * pageBytes) f s)
  | _ =>
    let l := s.pageRead d k phys page 0 pageData
    match out with
    | .corrected n => (0, put (at_ * pageData) l (s.bump Fld.flcEccCe_count 0 d n))
    | .retried n => (1, put (at_ * pageData) l (s.bump Fld.flcEccCe_count 0 d n))
    | .uncorrectable _ _ n =>
      let s := (s.flashUe d k row page (PageOutcome.bad out)).bump Fld.flcEccCe_count 0 d n
      let (f, s) := if own then s.freeBytes pageData else ([], s)
      (4, put (at_ * pageData) f s)

/-- The array read at the head of a plane ends (R203, R206, R208). -/
def readDone (s : State) (d k : Nat) (out : PageOutcome) : State :=
  let p := s.plane d k
  if s.flag Fld.flcClk_changing || p.st == .programming || p.st == .erasing || p.st == .eraseSuspProg then s
  else match p.reads with
    | [] => s
    | id :: r =>
      let s := (s.modPlane d k fun p => { p with reads := r }).fillReads d k 2
      match s.flashOp id with
      | none => s.planeGo d k
      | some o =>
        let (st, s) := s.readResult o d k out
        (s.planeDone id k st).planeGo d k

/-! ### Program and erase events (R201, R208, R214) -/

/-- Pulse limits of a program, and of an erase in its segments of ten to a pulse (R200). -/
def pulseMax (s : State) (prog : Bool) : Nat :=
  if prog then s.rd Fld.keyFlashLim_progPulses else 10 * s.rd Fld.keyFlashLim_erasePulses

/-- Pulses, or segments of an erase, that the running operation of a plane has had. -/
def Plane.applied (p : Plane) (prog : Bool) : Nat := if prog then p.pulses else p.segs

/-- The running operation of a plane has had `n` more pulses, or segments. -/
def addPulses (s : State) (d k n : Nat) (prog : Bool) : State :=
  s.modPlane d k fun p => if prog then { p with pulses := p.pulses + n } else { p with segs := p.segs + n }

/-- A RELOCATE's page copied and verified: after the last the map switches and the old block is erased (R214). Under sag_hold nothing further
starts, and it ends as a cut (R222). -/
def relocateStep (s : State) (o : FlashOp) (d k : Nat) : State :=
  let row := Fop.row o.w
  let old := s.physOf d k row
  let s := (s.countRead d k row old).pageCopy d k old o.target o.page
  let s := (s.modBlock d k o.target fun b => { b with next := o.page + 1 }).modPlane d k fun p => { p with pulses := 0 }
  if s.flag Fld.flcStatus_sagHold then s.cutOp o.id
  else if o.page < 511 then
    let s := s.modFlashOp o.id fun o => { o with page := o.page + 1 }
    if upperPage (o.page + 1) then s.journalWrite d recUpOpen row (o.page + 1) (2 ^ k) else s
  else
    let s := (s.modBlock d k o.target fun b => { b with next := (s.block d k old).next }).switchMap d k row o.target
    let s := s.journalWrite d recErOpen row 0 (2 ^ k)
    (s.modFlashOp o.id fun o => { o with target := old, page := 512 }).modPlane d k fun p =>
      { p with st := .erasing, prog := none, ers := some o.id, segs := 0 }

/-- A plane's program verifies after `n` more pulses (R200, R208). -/
def programPass (s : State) (d k n : Nat) : State :=
  let p := s.plane d k
  match p.st == .programming || p.st == .eraseSuspProg, p.prog with
  | true, some id =>
    match s.flashOp id with
    | none => s
    | some o =>
      if n = 0 ∨ s.pulseMax true < p.pulses + n then s
      else if Fop.code o.w = 0x40 then s.relocateStep o d k
      else
        let phys := s.physOf d k (Fop.row o.w)
        let s := s.pageWrite d k phys (Fop.page o.w) (s.programData o k)
        let s := s.modBlock d k phys fun b => { b with next := Fop.page o.w + 1 }
        let s := s.modPlane d k fun p => Plane.without p id
        (s.planeDone id k 0).planeGo d k
  | _, _ => s

/-- A plane's erase verifies after `n` more segments, at the end of a pulse (R200, R208). -/
def erasePass (s : State) (d k n : Nat) : State :=
  let p := s.plane d k
  match p.st == .erasing, p.ers with
  | true, some id =>
    match s.flashOp id with
    | none => s
    | some o =>
      if n = 0 ∨ s.pulseMax false < p.segs + n ∨ (p.segs + n) % 10 ≠ 0 then s
      else
        let copy := Fop.code o.w == 0x40
        let phys := if copy then o.target else s.physOf d k (Fop.row o.w)
        let s := (s.blockWipe d k phys).modBlock d k phys fun _ => {}
        let s := if copy then s
          else s.modFlash fun x => { x with needs := x.needs.filter fun n => !(n == (d, Fop.row o.w, k)) }
        let s := if copy then
            ((s.setSpare d k (s.spareOf d k ++ [phys])).writeTable d).journalWrite d recErDone (Fop.row o.w) 0 (2 ^ k)
          else s
        let s := s.modPlane d k fun p => Plane.without p id
        (s.planeDone id k 0).planeGo d k
  | _, _ => s

/-- A pulse limit is reached (R200, R201): the block is grown-bad and a reserve block takes its place, or the unit is retired. After an erase fail
the controller erases the new block. A RELOCATE whose copy fails goes on with another reserve block, or ends with 0x03; a REBUILD's reserve
block leaves the reserve and has none in its place. -/
def pulseLimit (s : State) (d k : Nat) : State :=
  let p := s.plane d k
  match p.prog.isSome, (if p.prog.isSome then p.prog else p.ers) with
  | prog, some id =>
    match s.flashOp id with
    | none => s
    | some o =>
      let row := Fop.row o.w
      let copy := Fop.code o.w == 0x40
      let phys := if copy then o.target else s.physOf d k row
      let page := if copy then o.page % 512 else Fop.page o.w
      let s := (s.flashLog (if prog then 1 else 2) d k row page).wr Fld.flcStatus_fail 1
      let s := (s.scanDie d).markBad d k phys (if prog then 1 else 2)
      if copy && prog then
        match s.takeSpare d k row with
        | some (b, s) => (s.modFlashOp id fun o => { o with target := b, page := 0 }).modPlane d k fun p => { p with pulses := 0 }
        | none => ((s.modPlane d k fun p => Plane.without p id).planeDone id k 3).planeGo d k
      else if copy || Config.flashUnits ≤ row then ((s.modPlane d k fun p => Plane.without p id).planeDone id k 2).planeGo d k
      else
        let (ok, s) := s.replaceBlock d k row
        let s := if ok && !prog then
            (s.eraseBlock d k row (s.physOf d k row)).modFlash fun x => { x with needs := x.needs.filter fun n => !(n == (d, row, k)) }
          else s
        ((s.modPlane d k fun p => Plane.without p id).planeDone id k (if ok then 2 else 3)).planeGo d k
  | _, none => s

/-- A queued read of another block than the one being erased (R208). -/
def otherRead (s : State) (p : Plane) : Bool := p.reads.any fun id => s.opRowOf id != (p.ers.bind s.opRowOf)

/-- A running operation suspends after `n` more pulses or segments, one at least (R210), for a queued read, or an erase for a read or program of
another block (R208). -/
def planeSuspend (s : State) (d k n : Nat) : State :=
  let p := s.plane d k
  let prog := p.prog.isSome
  if n = 0 ∨ s.pulseMax prog ≤ Plane.applied p prog + n then s
  else match p.st with
    | .programming =>
      if p.reads.isEmpty then s
      else ((s.addPulses d k n true).modPlane d k fun p => { p with st := .progSuspended }).bump Fld.flcSuspCnt_count
    | .erasing =>
      if !s.otherRead p && (s.otherProgram p).isNone then s
      else (((s.addPulses d k n false).modPlane d k fun p => { p with st := .eraseSuspended }).bump Fld.flcSuspCnt_count).planeGo d k
    | _ => s

/-- A suspended operation resumes when nothing is queued before it (R208, R210). -/
def planeResume (s : State) (d k : Nat) : State :=
  let p := s.plane d k
  if !p.reads.isEmpty then s
  else match p.st with
    | .progSuspended => s.modPlane d k fun p => { p with st := .programming }
    | .eraseSuspended => if (s.otherProgram p).isNone then s.modPlane d k fun p => { p with st := .erasing } else s
    | _ => s

/-! ### The interface clock (R193 to R195, R207) -/

/-- `FLC_WCLAT` of R207, and `TIE_T2_WCLAT` that steward firmware derives from it; `TIE_T3_WCLAT` keeps its floor of 20 µs (R170, log entry 56). -/
def setWclat (s : State) : State :=
  let us := s.rd Fld.keyFlashLim_progPulses * 75 + 92 + cdiv (2304 + s.rd Fld.flcWait_rdCycles) (800 + 200 * s.rd Fld.flcClk_freq)
  let s := s.wr Fld.flcWclat_us us
  if s.running then (s.wr Fld.tieT2Wclat_ns ((us + 5) * 1000)).wr Fld.tieT3Wclat_ns (max 20000 (s.rd Fld.tieT3Wclat_ns)) else s

/-- A write of `FLC_CLK` (R193 to R195). -/
def writeClk (s : State) (v : Nat) : State :=
  let f := nbits v 2 0
  let q := nbits v 4 4
  match minWait f q with
  | none => s.wr Fld.flcStatus_waitBad 1
  | some m =>
    if s.rd Fld.flcWait_rdCycles < m then s.wr Fld.flcStatus_waitBad 1
    else (((s.wr Fld.flcClk_freq f).wr Fld.flcClk_vccq q).wr Fld.flcClk_changing 1).modFlash fun x => { x with clkTo := some (f, q) }

/-- A write of `FLC_WAIT` (R194, R195). -/
def writeWait (s : State) (v : Nat) : State :=
  match minWait (s.rd Fld.flcClk_freq) (s.rd Fld.flcClk_vccq) with
  | none => s.wr Fld.flcStatus_waitBad 1
  | some m => if nbits v 5 0 < m then s.wr Fld.flcStatus_waitBad 1 else (s.wr Fld.flcWait_rdCycles (nbits v 5 0)).setWclat

/-- The clock change takes effect when the transfers have finished (R195). -/
def clockSwitch (s : State) : State :=
  match s.flash.clkTo with
  | none => s
  | some _ => ((s.modFlash fun x => { x with clkTo := none }).wr Fld.flcClk_changing 0).setWclat

/-- The read counts saved with the block maps (R214). -/
def saveReads (s : State) : State := (s.writeTable 0).writeTable 1

/-- A read of `FLC_DONE`: the oldest completion, removed. -/
def popDone (s : State) : Nat × State :=
  match s.flash.done with
  | [] => (0, s)
  | c :: r => (c.word.toNat, s.modFlash fun x => { x with done := r })

/-- Whether a program or erase is in progress (`FLC_STATUS.busy`). -/
def flashBusy (s : State) : Bool := s.flash.planes.any fun e => e.2.prog.isSome || e.2.ers.isSome

end State
end Sys2Proof.Machine
end

