-- ==== Sys2Proof/Machine/Firmware.lean ====
section
/-!
DEFINITION. Key slots, and firmware images: their place, their checks (16, R480, R481) and their update (R492).
-/
namespace Sys2Proof.Machine

/-- ASCII "RHOFWIM1" (R480). -/
def fwMagic : List Byte := [0x52, 0x48, 0x4F, 0x46, 0x57, 0x49, 0x4D, 0x31]
/-- Bytes of the four sectors of an image (R480). -/
def fwBytes : Nat := 491520
/-- Header bytes. -/
def fwHeader : Nat := 512
/-- Bytes of the units 0 to 4, which hold the header and are programmed last (R480, R492). -/
def fwHead : Nat := 600

namespace FwHdr
/-- Version. -/
def version (l : List Byte) : Nat := leAt l 8 2
/-- Security version. -/
def svn (l : List Byte) : Nat := leAt l 0x0A 2
/-- Payload bytes. -/
def payload (l : List Byte) : Nat := leAt l 0x0C 4
/-- The interface levels accepted for die kinds 1 to 4: lowest, highest. -/
def levels (l : List Byte) : List (Nat × Nat) := (List.range 4).map fun k => (leAt l (0x10 + 4 * k) 2, leAt l (0x12 + 4 * k) 2)
end FwHdr

namespace State

/-! ### Keys and signatures (R229, R468) -/

/-- Whether key slot `k` is enabled: its six words burned, its revoke word not. -/
def slotEnabled (s : State) (k : Nat) : Bool :=
  ((List.range 6).all fun w => s.reg .keySlot 0 (k * 8 + w) != 0) && s.reg .keySlotRev 0 k == 0
/-- Whether key slot `k` is enabled and holds the hash of a public key. -/
def slotMatches (s : State) (k : Nat) (key : List Byte) : Bool :=
  let d := sha384 key
  s.slotEnabled k && (List.range 6).all fun w => (s.reg .keySlot 0 (k * 8 + w)).toNat == leAt d (8 * w) 8
/-- Whether one of the slots `lo` to `hi` matches. -/
def keyIn (s : State) (lo hi : Nat) (key : List Byte) : Bool := (List.range (hi + 1)).any fun k => lo ≤ k && s.slotMatches k key

/-- Whether a firmware header verifies (R481), the payload digest left out. -/
def fwHeaderOk (s : State) (l : List Byte) : Bool :=
  let key := slice l 0x50 97
  slice l 0 8 == fwMagic && decide (FwHdr.payload l ≤ fwBytes - fwHeader) && s.keyIn 0 1 key &&
    signatureOk (sha384 (slice l 0 0xB4)) key (slice l 0xB4 96) && decide (s.key.minSvn ≤ FwHdr.svn l)

/-- Whether a firmware image verifies (R481). -/
def fwOk (s : State) (l : List Byte) : Bool :=
  s.fwHeaderOk l && sha384 (slice l fwHeader (FwHdr.payload l)) == slice l 0x20 48

/-- The bytes of image `img` (0 A, 1 B) in the parameter array of die `d`, in order (R480). -/
def fwCopy (s : State) (d img : Nat) : List Byte := readBytes 0xFF s.flash.param (paramKey d (4 * img) 0) fwBytes

/-- The image as the ROM reads it (R481): the F0 copy, and the F1 copy for units that fail their code. -/
def fwRom (s : State) (img : Nat) (bad : List Nat) : List Byte :=
  if bad.isEmpty then s.fwCopy 0 img
  else (List.range fwBytes).map fun i =>
    SMap.get 0xFF s.flash.param (paramKey (if bad.contains (img * 4096 + i / 120) then 1 else 0) (4 * img) 0 + i)

/-- Whether die `d` is in service (R213, R489). -/
def dieIn (s : State) (d : Nat) : Bool := s.dieServing (4 + d) && s.dieServes d
/-- The flash dies in service. -/
def diesIn (s : State) : List Nat := [0, 1].filter s.dieIn

/-- The version of image `img` set in `KEY_FW`. -/
def setFwVersion (s : State) (img v : Nat) : State := s.wr (if img = 0 then Fld.keyFw_verA else Fld.keyFw_verB) v

/-- Bytes `off` to `off + n - 1` of the source written into image `img` on every die in service. -/
def fwProgram (s : State) (j : FwJob) (off n : Nat) : State :=
  let l := s.objRead j.src off n
  forEach s.diesIn (fun d t => t.modFlash fun x =>
    { x with param := writeBytes 0xFF x.param (paramKey d (4 * j.image) 0 + off) l, shipped := x.shipped.filter fun i => i != j.image }) s

/-- Whether an object can still be reached by a job. -/
def srcAlive (s : State) (o : Nat) : Bool :=
  let e := (s.obj o).e
  (e.st == stResident || e.st == stMoving) && (e.home != 3 || s.portUp (s.t3Port e))

/-- A firmware update goes on by one of its steps (R492); none that programs or erases begins under sag_hold (R222), and a suspended one
waits (R409). -/
def fwStep (s : State) (i : Nat) (j : FwJob) : State :=
  let on := fun (d : Nat) (t : State) => t.modOp i fun o => { o with done := d, job := .fw { j with phase := j.phase + 1 } }
  if (s.op i).st ≠ 0 ∨ (s.flag Fld.flcStatus_sagHold ∧ j.phase ≠ 3) then s
  else if !s.srcAlive j.src then s.endOp i 0x51 []
  else match j.phase with
    | 0 =>
      let s := forEach s.diesIn (fun d t => forEach (List.range 4) (fun k t => t.wipeParam d (4 * j.image + k)) t) s
      on 0 (s.setFwVersion j.image 0)
    | 1 => on (j.bytes - fwHead) (s.fwProgram j fwHead (j.bytes - fwHead))
    | 2 => on j.bytes (s.fwProgram j 0 (min fwHead j.bytes))
    | 3 => if s.diesIn.all fun d => s.fwOk (s.fwCopy d j.image) then on j.bytes s else s.endOp i 0x54 []
    | _ =>
      let v := FwHdr.version (s.fwCopy (s.diesIn.headD 0) j.image)
      let s := s.modKey fun k => { k with active := j.image, attempts := 0 }
      (((s.setFwVersion j.image v).wr Fld.keyFw_active j.image).wr Fld.keyFw_attempts 0).endOp i 0x00 []

end State
end Sys2Proof.Machine
end

