-- ==== Sys2Proof/Machine/Kv.lean ====
section
/-!
DEFINITION. The KV pages and the walker (11, R316 to R354): frames, page tables, the look-aside buffer, the pieces it
delivers, what a row attends (R334, R335), page masses (R343), appends, scores and eviction.
-/
namespace Sys2Proof.Machine

/-- Pages reserved for one request and layer (R306, R321). -/
def reservedPages (budget : Nat) : Nat := cdiv budget 16
/-- The live limit of R321. -/
def liveLimit (budget : Nat) : Nat := budget / 16 - 1
/-- Pages that begin among `n` positions from `p`. -/
def newPages (p n : Nat) : Nat := cdiv (p + n) 16 - cdiv p 16

/-- Page-table entry states of R325. -/
def pteLive : Nat := 1
/-- EVICTING. -/
def pteEvicting : Nat := 2

/-- The 8 bytes of an entry (R325). -/
def Pte.encode (e : Pte) : List Byte :=
  leBytes 8 (e.st + e.tier * 2 ^ 2 + b2n e.coded * 2 ^ 3 + e.pool * 2 ^ 4 + e.frame % 2 ^ 24 * 2 ^ 8 + e.firstPos % 2 ^ 24 * 2 ^ 32 +
    e.fill * 2 ^ 56)

/-- Bytes of a layer block for `r` entries (R324). -/
def blockBytes (r : Nat) : Nat := 64 + cdiv r 8 * 64 + cdiv r 4 * 64

/-- What a row does with a key position (R335). -/
inductive KeyOutcome where
  | attended | masked | absent
  deriving DecidableEq, Repr

namespace LayerBlock

/-- The LIVE entries. -/
def live (b : LayerBlock) : List Pte := b.entries.filter fun e => e.st == pteLive

/-- The bytes of a layer block for `r` entries (R324). -/
def encode (r : Nat) (b : LayerBlock) : List Byte :=
  let ev := (b.entries.findIdx? fun e => e.st == pteEvicting).getD 0xFFFF
  let hdr := leBytes 2 b.live.length ++ leBytes 2 ev ++ leBytes 4 b.evictPos ++ leBytes 4 b.nextPos
  slice hdr 0 64 ++ slice (b.entries.flatMap Pte.encode) 0 (cdiv r 8 * 64) ++
    slice (b.entries.flatMap fun e => leBytes 4 e.score.toNat ++ leBytes 4 e.a0.toNat ++ leBytes 4 e.a1.toNat ++ leBytes 4 0) 0
      (cdiv r 4 * 64)

/-- The fold of R345 before the append of position `p`. -/
def fold (b : LayerBlock) (p : Nat) : LayerBlock :=
  { b with entries := b.entries.map fun e =>
      if p / 16 % 2 = 0 then { e with score := addF32 .rne e.score e.a0, a0 := 0 }
      else { e with score := addF32 .rne e.score e.a1, a1 := 0 } }

/-- First positions that eviction spares (R346): 0 and the four highest LIVE pages. -/
def spared (b : LayerBlock) : List Nat := 0 :: (b.live.map (·.firstPos)).reverse.take 4

/-- LIVE pages that eviction may take, in ascending position. -/
def evictable (b : LayerBlock) : List Pte := b.live.filter fun e => !b.spared.contains e.firstPos

/-- The page that eviction takes: the smallest S, the lowest position on ties (R346). -/
def victim (b : LayerBlock) : Option Pte :=
  b.evictable.foldl (fun a e => match a with
    | none => some e
    | some x => if ltF32 e.score x.score then some e else some x) none

/-- The entry that holds position `p`. -/
def holder (b : LayerBlock) (p : Nat) : Option Pte := b.entries.find? fun e => e.firstPos ≤ p && p < e.firstPos + 16

/-- The mass of a row at position `p` added to the page at `first` (R344). -/
def addMass (b : LayerBlock) (p first : Nat) (m : F32) : LayerBlock :=
  { b with entries := b.entries.map fun e =>
      if e.firstPos ≠ first then e
      else if p / 16 % 2 = 0 then { e with a0 := addF32 .rne e.a0 m } else { e with a1 := addF32 .rne e.a1 m } }

end LayerBlock

namespace State

/-- The model copy that slot `i` is bound to. -/
def copyOf (s : State) (i : Nat) : Option ModelCopy :=
  let x := s.slot i
  if x.old then (s.span x.span).old else (s.span x.span).cur

/-- Layers of the model of slot `i`. -/
def layersOf (s : State) (i : Nat) : Nat := ((s.copyOf i).map (·.hdr.layers)).getD 0

/-- Whether the pages of a model in span `sp` are G8M-coded (R316, R355). -/
def kvCoded (s : State) (sp : Nat) (h : ImageHdr) : Bool :=
  h.kvFmt == 0x3 && h.flags.testBit 1 && s.flag Fld.kvwCfg_gust 0 sp && !s.flag Fld.kvwCfg_train 0 sp

/-- Bytes of a row of 64 elements in a piece (R317, R340). -/
def halfBytes (s : State) (sp : Nat) (h : ImageHdr) : Nat :=
  if s.kvCoded sp h then 50 else if h.kvFmt = 0x3 then 64 else 128

/-- Bytes of a frame (R319). -/
def frameBytes (s : State) (sp : Nat) (h : ImageHdr) : Nat := cdiv (h.pieces * (16 * s.halfBytes sp h)) 64 * 64

/-- Layer block `l` of slot `i`. -/
def kvBlock (s : State) (i l : Nat) : LayerBlock := SMap.get {} s.kv.blocks (i * 1024 + l)

/-- Layer block `l` of slot `i` set, and written through to the page table in T1 (R330). -/
def putKvBlock (s : State) (i l : Nat) (b : LayerBlock) : State :=
  let x := s.slot i
  let r := reservedPages x.par.kvBudget
  let s := s.modKv fun k => { k with blocks := SMap.put {} k.blocks (i * 1024 + l) b }
  if x.tabObj = 0 then s else s.dramWrite (x.pageRoot + l * blockBytes r) (b.encode r)

/-- Pages that slot `i` holds. -/
def kvPages (s : State) (i : Nat) : Nat := ((List.range (s.layersOf i)).map fun l => (s.kvBlock i l).entries.length).sum

/-! ### Frames (R320) -/

/-- A frame of copy `copy` of span `sp`: of the pool object with the most free frames, the lowest index on ties; its lowest free one. -/
def takeFrame (s : State) (sp copy : Nat) : Option (Nat × Nat × State) :=
  let ps := (s.span sp).pools.filter fun e => e.1 / 8 == copy && e.2.used.length < e.2.total
  match argMin (fun e => 2 ^ 32 - (e.2.total - e.2.used.length)) ps with
  | none => none
  | some (k, p) =>
    match (List.range p.total).find? fun f => !p.used.contains f with
    | none => none
    | some f => some (k, f, s.modSpan sp fun x => { x with pools := SMap.put {} x.pools k { p with used := f :: p.used } })

/-- A frame given back to its pool object. -/
def giveFrame (s : State) (sp k f : Nat) : State :=
  s.modSpan sp fun x =>
    let p := SMap.get {} x.pools k
    { x with pools := SMap.put {} x.pools k { p with used := p.used.erase f } }

/-- The lowest frame of slot `i`'s T3 page object that no entry uses. -/
def takeT3Frame (s : State) (i : Nat) : Nat :=
  let n := reservedPages (s.slot i).par.kvBudget * s.layersOf i
  let used := (List.range (s.layersOf i)).flatMap fun l => (s.kvBlock i l).entries.map (·.frame)
  ((List.range n).find? fun f => !used.contains f).getD 0

/-- A new page at position `p` of layer `l`, LIVE with fill 0 (R341); a page that already stands is kept. -/
def allocPage (s : State) (i p l : Nat) : State :=
  let x := s.slot i
  let b := s.kvBlock i l
  match s.copyOf i with
  | none => s
  | some c =>
    if (b.holder p).isSome then s
    else
      let e : Pte := { st := pteLive, tier := b2n x.t3, coded := s.kvCoded x.span c.hdr, pool := 0, frame := 0, firstPos := p, fill := 0,
                       score := 0, a0 := 0, a1 := 0 }
      if x.t3 then s.putKvBlock i l { b with entries := b.entries ++ [{ e with frame := s.takeT3Frame i }] }
      else match s.takeFrame x.span c.copyNo with
        | none => s
        | some (k, f, t) => t.putKvBlock i l { b with entries := b.entries ++ [{ e with pool := k, frame := f }] }

/-- The entries of layer `l` that `f` picks freed with their frames; the rest move down (R326). -/
def freePagesIf (s : State) (i l : Nat) (f : Pte → Bool) : State :=
  let b := s.kvBlock i l
  if b.entries.any f then
    let s := forEach (b.entries.filter fun e => f e && e.tier == 0) (fun e t => t.giveFrame (s.slot i).span e.pool e.frame) s
    s.putKvBlock i l { b with entries := b.entries.filter fun e => !f e }
  else s

/-- A state function applied for every layer of slot `i`. -/
def eachLayer (s : State) (i : Nat) (f : Nat → State → State) : State := forEach (List.range (s.layersOf i)) f s

/-! ### The look-aside buffer (R328, R329) -/

/-- The line of slot `i` with page-table line `k` of layer `l`. -/
def labLine (s : State) (i l k : Nat) : LabLine := { slot := i, gen := (s.slot i).gen, layer := l, line := k }
/-- The set of a line. -/
def labSetOf (x : LabLine) : Nat := Config.labSet x.slot x.gen x.layer x.line % 64

/-- One translation through the buffer of span `sp`: a hit moves its line to the front; a miss joins one outstanding or is noted. -/
def labAccess (s : State) (sp : Nat) (x : LabLine) : State :=
  let l := SMap.get [] s.kv.lab sp
  if l.contains x then
    (s.modKv fun k => { k with lab := SMap.put [] k.lab sp (x :: l.erase x) }).bump64 Fld.kvwLabHit_count 0 sp
  else if (SMap.get [] s.kv.misses sp).contains x then s
  else
    (s.modKv fun k => { k with misses := SMap.put [] k.misses sp (SMap.get [] k.misses sp ++ [x]) }).bump64 Fld.kvwLabMiss_count 0 sp

/-- A line that lands takes the place of the least recently used line of a full set (R328). -/
def labInsert (s : State) (sp : Nat) (x : LabLine) : State :=
  let l := SMap.get [] s.kv.lab sp
  let same := l.filter fun y => labSetOf y == labSetOf x
  let l := if 8 ≤ same.length then (match same.getLast? with | some y => l.erase y | none => l) else l
  s.modKv fun k => { k with lab := SMap.put [] k.lab sp (x :: l) }

/-- The lines of a slot leave the buffer of its span (R330). -/
def labDrop (s : State) (i : Nat) : State :=
  let sp := (s.slot i).span
  s.modKv fun k => { k with lab := SMap.put [] k.lab sp ((SMap.get [] k.lab sp).filter fun y => y.slot != i),
                            misses := SMap.put [] k.misses sp ((SMap.get [] k.misses sp).filter fun y => y.slot != i) }

/-- The walk of layer `l` for the running step: one translation for every page of every request in it (R329, R342). -/
def walk (s : State) (sp l : Nat) : State :=
  match (s.span sp).batch with
  | none => s
  | some b =>
    forEach (b.rows.map (·.slot)).dedup (fun i t =>
      forEach (List.range (t.kvBlock i l).entries.length) (fun j u => u.labAccess sp (u.labLine i l (j / 8))) t) s

/-! ### What a row sees (R335, R342, R343) -/

/-- What a row at position `p` does with key position `q` of a delivered page (R335). -/
def keyOutcome (b : LayerBlock) (p q : Nat) (e : Pte) : KeyOutcome :=
  if e.st = pteEvicting ∧ b.evictPos ≤ p then .masked else if q ≤ p then .attended else .masked

/-- Rows of segment `seg` of the running step. -/
def segRows (s : State) (sp seg : Nat) : List RowEntry := ((s.span sp).batch.elim [] (·.rows)).filter fun r => r.seg == seg

/-- The pages of layer `l` that a segment may see, in ascending first position (R334, R335, R342): those of its own request. -/
def seenPages (s : State) (sp seg l : Nat) : List Pte :=
  let rows := s.segRows sp seg
  match rows.head? with
  | none => []
  | some r =>
    let b := s.kvBlock r.slot l
    let seen := b.entries.filter fun e => rows.any fun x => e.firstPos ≤ x.pos && !(e.st == pteEvicting && b.evictPos ≤ x.pos)
    sortBy (fun (e : Pte) => e.firstPos) seen

/-- What step row `row` does in layer `l` with `n` key positions from the delivered page `page` on (R335). A place that no delivered page
fills is absent. -/
def rowKeys (s : State) (sp row l page n : Nat) : List KeyOutcome :=
  match ((s.span sp).batch.elim [] (·.rows))[row]? with
  | none => List.replicate n .absent
  | some r =>
    let ps := s.seenPages sp r.seg l
    (List.range n).map fun i => match ps[page + i / 16]? with
      | some e => keyOutcome (s.kvBlock r.slot l) r.pos (e.firstPos + i % 16) e
      | none => .absent

/-- Page sums of one step row and query head as an attention cell sends them (R343). -/
def holdMasses (s : State) (sp row l kvHead qHead page : Nat) (sums : List F32) : State :=
  match ((s.span sp).batch.elim [] (·.rows))[row]? with
  | none => s
  | some r =>
    let ps := s.seenPages sp r.seg l
    let new := sums.zipIdx.filterMap fun e => (ps[page + e.2]?).map fun p =>
      ({ row, layer := l, firstPos := p.firstPos, kvHead, qHead, mass := e.1 } : HeadMass)
    s.modKv fun k => { k with masses := SMap.put [] k.masses sp (SMap.get [] k.masses sp ++ new) }

/-- A sum in the order of the list, with RNE; +0 when it is empty. -/
def sumInOrder : List F32 → F32
  | [] => 0
  | x :: r => r.foldl (addF32 .rne) x

/-- The masses of the running step (R343): for each row, layer and page, the query heads of a KV head in ascending order, then the KV heads in
ascending order. -/
def rowMasses (s : State) (sp : Nat) : List RowMass :=
  let l := SMap.get [] s.kv.masses sp
  let keys := (l.map fun m => (m.row, m.layer, m.firstPos)).eraseDups
  keys.map fun (row, layer, firstPos) =>
    let mine := l.filter fun m => m.row == row && m.layer == layer && m.firstPos == firstPos
    let heads := sortBy id (mine.map (·.kvHead)).eraseDups
    { row, layer, firstPos
      mass := sumInOrder (heads.map fun h =>
        sumInOrder ((sortBy (fun (m : HeadMass) => m.qHead) (mine.filter fun m => m.kvHead == h)).map (·.mass))) }

/-- The page sums that the walker holds for the running step dropped (R344, R353). -/
def dropMasses (s : State) (sp : Nat) : State :=
  s.modKv fun k => { k with masses := SMap.put [] k.masses sp [] }

/-! ### Piece moves (R140, R169, R342) -/

/-- The cell that runs role `r` of span `sp` (R233). -/
def roleCell (s : State) (sp r : Nat) : Nat := (s.span sp).cfg.roles.getD r 56
/-- The latch with number `rel` relative to the first latch of a role's cell (R495). -/
def roleLatch (s : State) (sp r rel : Nat) : Nat := s.roleCell sp r * 1024 + rel % 1024

/-- Moves in flight that count against cell `n` (R140): its own, and the pieces that walkers deliver to it. -/
def inFlight (s : State) (n : Nat) : Nat :=
  (s.cell n).moves.length + (s.kv.pieces.filter fun p => p.cell == n && !p.early).length

/-- The model whose step the span runs: id and generation. -/
def runningModel (s : State) (sp : Nat) : Nat × Nat := ((s.runningCopy sp).map fun c => (c.hdr.modelId, c.hdr.generation)).getD (0, 0)

/-- The header of the model whose step the span runs. -/
def runningHdr (s : State) (sp : Nat) : ImageHdr := ((s.runningCopy sp).map (·.hdr)).getD default

/-- Bytes of a piece in the pool: 16 rows of 64 elements, decoded (R317, R342). -/
def pieceBytes (h : ImageHdr) : Nat := 1024 * (elemBits h.kvFmt / 8)

/-- Where a piece lies within its frame (R317). -/
def pieceOff (s : State) (sp : Nat) (h : ImageHdr) (piece : Nat) : Nat := piece * (16 * s.halfBytes sp h)

/-- The issuer's identity of a piece move (R10): the span's walker, or for an early move steward core 0 (log entry 73). -/
def pieceIdent (sp : Nat) (early : Bool) : Nat := if early then 0x10 else 0x38 + sp

/-- The entry of the page at `first` in layer `l` of slot `i`. -/
def pageAt (s : State) (i l first : Nat) : Option Pte := (s.kvBlock i l).entries.find? fun e => e.firstPos == first

/-- A piece's move taken by the engine (R135, R140): its handle resolved, a fetch leg for a T3 page. -/
def acceptPiece (s : State) (h : HeldPiece) : State :=
  let n := pieceBytes (s.runningHdr h.span)
  match (if s.cellSpan h.cell = h.span ∧ s.ownsLatch h.span h.latch then s.resolve h.cell (h.handle % 64) else none) with
  | none => s.descError (pieceIdent h.span h.early) 0 0x10
  | some v =>
    if v.wp ∨ v.rmode ≠ 0 ∨ !v.holds (h.off * 64) n then s.descError (pieceIdent h.span h.early) 0 0x10
    else
      let id := s.tier.nextMove
      let t3 := (s.pageAt h.slot h.layer h.firstPos).any fun e => e.tier == 1
      let p : PieceMove := { id, span := h.span, slot := h.slot, layer := h.layer, firstPos := h.firstPos, piece := h.piece, cell := h.cell,
                             view := v, off := h.off * 64, latch := h.latch, leg := t3, lost := false, early := h.early }
      let o := (s.slot h.slot).pageObj - 1
      let leg : List Leg := if t3 then [{ id := s.tier.nextLeg, engine := 58, move := id, obj := o, tile := 0, write := false, tier := 3,
                                          port := s.t3Port (s.obj o).e, rest := 0, bad := false }] else []
      let s := s.modTier fun t => { t with nextMove := id + 1, nextLeg := t.nextLeg + leg.length, legWait := t.legWait ++ leg }
      (s.modKv fun k => { k with pieces := k.pieces ++ [p] }).pumpLegs

/-- Whether the engine has room for a piece: 256 moves in its cell, or a slot of the issued-move pool for an early one (R140, R142). -/
def pieceRoom (s : State) (h : HeldPiece) : Bool := if h.early then s.issuedUsed < 512 else s.inFlight h.cell < 256

/-- Held pieces go on, in order, as their engines have room (R140). -/
def pumpPieces (s : State) : State :=
  forEach s.kv.held (fun h t =>
    if t.pieceRoom h then (t.modKv fun k => { k with held := k.held.erase h }).acceptPiece h else t) s

/-- The pieces of layer `l` that a segment needs (R342): the key pieces of its pages in ascending first position, then the value pieces, each to
the attention cell of its KV head. `early` picks the pages in T3 that were complete before the step (R169), else the others. -/
def segPieces (s : State) (sp seg l : Nat) (early : Bool) : List HeldPiece :=
  let h := s.runningHdr sp
  let m := s.runningModel sp
  match (s.segRows sp seg).head? with
  | none => []
  | some r =>
    let pages := (s.seenPages sp seg l).zipIdx.filter fun e => (e.1.tier == 1 && e.1.firstPos + 16 ≤ r.pos) == early
    (List.range 2).flatMap fun kind => pages.flatMap fun e => (List.range (h.kvHeads * h.halves)).map fun j =>
      let piece := kind * (h.kvHeads * h.halves) + j
      let d := Config.pieceDest m.1 m.2 l piece seg e.2
      { span := sp, slot := r.slot, layer := l, firstPos := e.1.firstPos, piece, cell := s.roleCell sp d.role, handle := d.handle, off := d.line,
        latch := s.roleLatch sp d.role d.latch, early }

/-- Segments of the running step. -/
def segments (s : State) (sp : Nat) : List Nat := (((s.span sp).batch.elim [] (·.rows)).map (·.seg)).eraseDups

/-- The walker issues the attention moves of layer `l` (R342), and holds what its cells have no room for. -/
def issuePieces (s : State) (sp l : Nat) : State :=
  (s.modKv fun k => { k with held := k.held ++ (s.segments sp).flatMap fun g => s.segPieces sp g l false }).pumpPieces

/-- The early moves of a step's T3-homed pages (R169). -/
def earlyPieces (s : State) (sp : Nat) : State :=
  let layers := List.range (s.runningHdr sp).layers
  (s.modKv fun k => { k with held := k.held ++ (s.segments sp).flatMap fun g => layers.flatMap fun l => s.segPieces sp g l true }).pumpPieces

/-! ### Eviction (R345 to R349) -/

/-- The evicted-page count of a span moved. -/
def countEvict (s : State) (sp : Nat) : State := s.bump Fld.kvwEvictCnt_count 0 sp

/-- Fold and eviction of layer `l` at a decode row whose position `p` begins a page (R345, R346); a training span never evicts (R355). -/
def evictDecode (s : State) (i p l : Nat) : State :=
  let x := s.slot i
  let b := (s.kvBlock i l).fold p
  match (if b.live.length = liveLimit x.par.kvBudget ∧ !s.flag Fld.kvwCfg_train 0 x.span then b.victim else none) with
  | none => s.putKvBlock i l b
  | some v =>
    (s.putKvBlock i l { b with
      evictPos := p
      entries := b.entries.map fun e => if e.firstPos = v.firstPos then { e with st := pteEvicting } else e }).countEvict x.span

/-- `n` pages of layer `l` freed one after the other at the start of a turn's prefill (R346). -/
def evictPrefill (s : State) (i l : Nat) : Nat → State
  | 0 => s
  | n + 1 =>
    match (s.kvBlock i l).victim with
    | none => s
    | some v => ((s.freePagesIf i l fun e => e.firstPos == v.firstPos).countEvict (s.slot i).span).evictPrefill i l n

/-- The start of a turn's prefill at position `p` with `n` positions (R345, R346). -/
def startPrefill (s : State) (i p n : Nat) : State :=
  s.eachLayer i fun l s =>
    let s := s.putKvBlock i l ((s.kvBlock i l).fold p)
    if s.flag Fld.kvwCfg_train 0 (s.slot i).span then s
    else s.evictPrefill i l ((s.kvBlock i l).live.length + newPages p n - liveLimit (s.slot i).par.kvBudget)

/-- Whether the walker can carry a turn of `n` positions from `p` (R347). -/
def turnFits (s : State) (i p n : Nat) : Bool :=
  let lp := liveLimit (s.slot i).par.kvBudget
  let b := s.kvBlock i 0
  newPages p n ≤ lp - 5 && b.live.length + newPages p n - lp ≤ b.evictable.length

/-- What a row at position `p` does before its step (R341, R345, R346). -/
def beginRow (s : State) (i p : Nat) (decode : Bool) : State :=
  if p % 16 ≠ 0 then s
  else s.eachLayer i fun l s => (if decode then s.evictDecode i p l else s).allocPage i p l

/-- The EVICTING entries of a slot freed (R348). -/
def freeEvicting (s : State) (i : Nat) : State := s.eachLayer i fun l s => s.freePagesIf i l fun e => e.st == pteEvicting

/-- The truncation of R349: a slot's pages are cut to its first `n` positions. -/
def truncatePages (s : State) (i n : Nat) : State :=
  s.eachLayer i fun l s =>
    let s := s.freePagesIf i l fun e => n ≤ e.firstPos
    let b := s.kvBlock i l
    let back := b.evictPos ≥ n && b.entries.any fun e => e.st == pteEvicting
    let sp := (s.slot i).span
    let s := if back then s.wr Fld.kvwEvictCnt_count (s.rd Fld.kvwEvictCnt_count 0 sp - 1) 0 sp else s
    s.putKvBlock i l
      { evictPos := if back then 0 else b.evictPos, nextPos := n,
        entries := b.entries.map fun e =>
          let e := if back && e.st == pteEvicting then { e with st := pteLive } else e
          if n ≤ e.firstPos + 16 then { e with fill := n - e.firstPos } else e }

/-- The masses of an accepted row at position `p` (R344). -/
def addMasses (s : State) (i p : Nat) (l : List RowMass) : State :=
  forEach l (fun m s => if m.layer < s.layersOf i then s.putKvBlock i m.layer ((s.kvBlock i m.layer).addMass p m.firstPos m.mass) else s) s

/-- A slot's pages, page table and T3 page object given back (R271). -/
def freePages (s : State) (i : Nat) : State :=
  let s := s.eachLayer i fun l s => s.freePagesIf i l fun _ => true
  let x := s.slot i
  let s := s.modKv fun k => { k with blocks := k.blocks.filter fun e => e.1 / 1024 != i }
  let s := if x.tabObj ≠ 0 then s.freeObj (x.tabObj - 1) else s
  let s := if x.pageObj ≠ 0 then s.freeObj (x.pageObj - 1) else s
  (s.labDrop i).modSlot i fun x => { x with tabObj := 0, pageObj := 0, pageRoot := 0, t3 := false }

/-- An entry of `KVW_ERR_LOG`: 1 parity, 2 poison, 3 T3 lost. -/
def kvError (s : State) (kind sp i layer : Nat) : State :=
  s.logFirst Fld.kvwErrCnt_count .kvwErrLog (kind * 2 ^ 60 + sp * 2 ^ 57 + i * 2 ^ 45 + layer * 2 ^ 35 + s.stamp16)

/-- What a span reset clears in the walker (R353); the pages stay. -/
def resetWalker (s : State) (sp : Nat) : State :=
  let s := s.modKv fun k => { k with lab := SMap.put [] k.lab sp [], misses := SMap.put [] k.misses sp [] }
  let s := (s.wr Fld.kvwLabHit_count 0 0 sp).wr Fld.kvwLabMiss_count 0 0 sp
  let s := s.clrBit Fld.kvwStatus_busy sp
  forEach ((List.range 56).filter fun n => s.cellSpan n == sp) (fun n t => t.setReg .kvwAppend 0 n 0)
    ((s.dropMasses sp).modSpan sp fun x => { x with batch := none, appended := [] })

/-! ### The append path (R336 to R341) -/

/-- cos and sin of pair `k` at position `p` from the rope table (R336). -/
def ropePair (s : State) (sp d p k : Nat) : F32 × F32 :=
  let l := s.objRead (s.rd Fld.kvwRope_object 0 sp) ((p * (d / 2) + k) * 8) 8
  (BitVec.ofNat 32 (leAt l 0 4), BitVec.ofNat 32 (leAt l 4 4))

/-- A half of 64 elements rotated (R336), or rotated back with sin negated (R356); half `j` of its head, position `p`. -/
def rotateHalf (s : State) (sp d p j : Nat) (back : Bool) (x : List F32) : List F32 :=
  (List.range 32).flatMap fun i =>
    let (c, sn) := s.ropePair sp d p (32 * j + i)
    let sn := if back then sn ^^^ 0x80000000#32 else sn
    let a := x.getD (2 * i) 0
    let b := x.getD (2 * i + 1) 0
    [fmaF32 .rne a c (mulF32 .rne b sn ^^^ 0x80000000#32), fmaF32 .rne b c (mulF32 .rne a sn)]

/-- One row of 64 elements written to its place in its page (R339, R340). -/
def writeHalf (s : State) (i l p piece : Nat) (h : ImageHdr) (els : List Nat) : State :=
  let sp := (s.slot i).span
  match (s.kvBlock i l).holder p with
  | none => s
  | some e =>
    let n := s.halfBytes sp h
    let bytes := if e.coded then gustEncode 3 (els.take 32) ++ gustEncode 3 (els.drop 32) else pack h.kvFmt els
    let off := e.frame * s.frameBytes sp h + (piece * 16 + p % 16) * n
    if e.tier = 1 then s.objWrite s.tier.nextMove ((s.slot i).pageObj - 1) off bytes
    else s.dramWrite ((s.obj (SMap.get {} (s.span sp).pools e.pool).obj).e.addr + off) bytes

/-- The rows of an appending instruction sent to their pages (R339): `sum m k` is the scaled FP32 sum of row `m` and column `k`, `rand` the
random word of its conversion. -/
def appendRows (s : State) (n : Nat) (w : Inst256) (sum : Nat → Nat → F32) (rand : Nat → Nat → Nat) : State :=
  let sp := s.cellSpan n
  match s.runningCopy sp, (s.span sp).batch with
  | some c, some b =>
    if !s.flag Fld.kvwAppend_valid 0 n then s
    else
      let layer := s.rd Fld.kvwAppend_layer 0 n
      let base := s.rd Fld.kvwAppend_rowBase 0 n
      forEach (List.range (Mx.mRows w)) (fun m s =>
        match b.rows[base + m]? with
        | none => s
        | some r =>
          forEach (List.range (Mx.cols w / 64)) (fun q s =>
            let piece := bits w 191 176 + q
            if c.hdr.pieces ≤ piece then s
            else
              let x := (List.range 64).map fun k => sum m (64 * q + k)
              let key := piece < c.hdr.kvHeads * c.hdr.halves && s.flag Fld.kvwCfg_ropeEn 0 sp && s.flag Fld.kvwRope_valid 0 sp
              let x := if key then s.rotateHalf sp c.hdr.headDim r.pos (piece % c.hdr.halves) false x else x
              let els := (List.range 64).map fun k =>
                (encodeElem c.hdr.kvFmt ((rndOf (bits w 28 26)).getD .rne) (bit w 29) (rand m (64 * q + k)) (numF32 (x.getD k 0))).1
              s.writeHalf r.slot layer r.pos piece c.hdr els) s) s
  | _, _ => s

/-- All pieces of row `row` in layer `l` of the running step are acknowledged (R341): fill and the next position rise; after the last
row of the layer, its append latch rises and the walk of the next layer begins (R329). -/
def appendAcked (s : State) (sp row l : Nat) : State :=
  match (s.span sp).batch, s.runningCopy sp with
  | some b, some c =>
    match b.rows[row]? with
    | none => s
    | some r =>
      if c.hdr.layers ≤ l ∨ (s.span sp).appended.contains (row, l) then s
      else
        let k := s.kvBlock r.slot l
        let s := s.putKvBlock r.slot l { k with
          nextPos := max k.nextPos (r.pos + 1)
          entries := k.entries.map fun e =>
            if e.firstPos ≤ r.pos ∧ r.pos < e.firstPos + 16 then { e with fill := max e.fill (r.pos % 16 + 1) } else e }
        let s := s.modSpan sp fun x => { x with appended := (row, l) :: x.appended }
        if (List.range b.rows.length).all fun i => (s.span sp).appended.contains (i, l) then
          let (role, rel) := Config.appendLatch c.hdr.modelId c.hdr.generation l
          ((s.signal (0x38 + sp) (s.roleLatch sp role rel) 1).issuePieces sp l).walk sp (l + 1)
        else s
  | _, _ => s

end State

/-- All pieces of a row are acknowledged (R341). -/
def execAppendAck (sp : SpanId) (row layer : Nat) (s : State) : Out := .next (s.appendAcked sp row layer)

/-- A page-table line lands (R329): one of the first 64 misses; bad parity drops it to be read again (R331). -/
def execLabMissFill (sp : SpanId) (i : Fin 4096) (layer line : Nat) (bad : Bool) (s : State) : Out :=
  let x := s.labLine i layer line
  if !((SMap.get [] s.kv.misses sp).take 64).contains x then .next s
  else if bad then .next ((s.wr Fld.kvwStatus_labPar 1).kvError 1 sp i layer)
  else .next ((s.modKv fun k => { k with misses := SMap.put [] k.misses sp ((SMap.get [] k.misses sp).erase x) }).labInsert sp x)

end Sys2Proof.Machine
end

