-- ==== Sys2Proof/Machine/Array.lean ====
section
/-!
DEFINITION. The matrix array and the side path (03, R83 to R101; R44, R45, R58 to R61, R87). A matrix instruction is checked and issued
by its row; MATRIX_COMPLETE computes and writes its results. The order of elements within operand regions is that of log entry 38.
-/
namespace Sys2Proof.Machine

namespace State

/-- A matrix instruction put behind those of the array, with its wait begun (R85, R89, R148). -/
def putJob (s : State) (n : Nat) (w : Inst256) (pc : Word) (errs : ReadErrs) : State :=
  let id := (s.cell n).nextJob
  let s := s.modCell n fun c =>
    { c with nextJob := id + 1, jobs := c.jobs ++ [{ id, w, pc, errs, waiting := bit w 224, prep := none }] }
  if bit w 224 then s.startWait n (bits w 207 192) (.job id) else s

/-- A matrix instruction, opcode 0x40 (R85, R86, R90). A first dual instruction is held until its second follows; the pair issues as one. -/
def matrix (s : State) (n : Nat) (w : Inst256) (errs : ReadErrs) : State :=
  if !s.issues n then s
  else
    let pc := s.pc n
    match (s.cell n).dual with
    | some (a, apc, aerrs) =>
      if !Mx.dualAgree a w then (s.modCell n fun c => { c with dual := none }).illegal n apc 0x05
      else match s.matrixCause n w false with
        | some cause => (s.modCell n fun c => { c with dual := none }).illegal n pc cause
        | none =>
          if hazard (s.cell n).jobs (Mx.reads a ++ Mx.reads w) (Mx.writes a ++ Mx.writes w) then s
          else ((((s.modCell n fun c => { c with dual := none }).putJob n a apc aerrs).putJob n w pc errs).advance n).arrayGo n
    | none =>
      match s.matrixCause n w false with
      | some cause => s.illegal n pc cause
      | none =>
        if hazard (s.cell n).jobs (Mx.reads w) (Mx.writes w) then s
        else if Mx.shape w = 1 then
          if bit w 14 then s.illegal n pc 0x05
          else (s.modCell n fun c => { c with dual := some (w, pc, errs) }).advance n
        else ((s.putJob n w pc errs).advance n).arrayGo n

end State

/-! ### What an instruction computes -/

/-- Operand elements of one region: bit patterns in tile order, and MX scale bytes in block order. -/
structure Elems where
  raw   : List Nat
  scale : List Nat
  deriving DecidableEq, Repr

/-- The tiles of a region of packed bytes: `per` elements and `blocks` scale bytes to a tile of `stride` bytes. -/
def tilesOf (fmt per blocks stride : Nat) (l : List Byte) : Nat → Elems
  | 0 => ⟨[], []⟩
  | t + 1 =>
    let rest := tilesOf fmt per blocks stride (l.drop stride) t
    let tile := l.take stride
    ⟨unpack fmt per tile ++ rest.raw, (slice tile (plainBytes fmt per) blocks).map (·.toNat) ++ rest.scale⟩

/-- Each element of a read that raced with a write is the old or the new value (R75): an opaque choice for each (log entry 17). -/
def mix (base : Nat) (old new : List Nat) : List Nat :=
  (List.zip old new).zipIdx.map fun e => if e.1.1 = e.1.2 then e.1.1 else if Config.raceOld (base + e.2) then e.1.1 else e.1.2

/-- Operand elements from what they held at the start and what they hold now. -/
def mixElems (base : Nat) (o n : Elems) : Elems := ⟨mix base o.raw n.raw, mix (base + o.raw.length) o.scale n.scale⟩

/-- One 64-element pass of output (m, n), float form (R44, R60), added to `start`: products in increasing index order; with MX, each
32-element block's sum times its scales. `k` is the pass. -/
def passFloat (w : Inst256) (wt act : Elems) (start : F32) (k m n : Nat) : F32 :=
  let nc := Mx.cols w
  let mr := Mx.rows w
  let wRaw := fun r => decodeElem (Mx.wfmt w) (wt.raw.getD (k * 64 * nc + r * nc + n) 0)
  let aRaw := fun r => decodeElem (Mx.afmt w) (act.raw.getD (k * 64 * mr + m * 64 + r) 0)
  let dot := fun (acc : F32) lo len => (List.range len).foldl (fun acc i => accAdd acc (arrayProduct (aRaw (lo + i)) (wRaw (lo + i)))) acc
  if !Mx.wmx w && !Mx.amx w then dot start 0 64
  else
    (List.range 2).foldl (fun acc b =>
      let xw := if Mx.wmx w then wt.scale.getD (k * 2 * nc + b * nc + n) 0 else 127
      let xa := if Mx.amx w then act.scale.getD (k * 2 * mr + m * 2 + b) 0 else 127
      let bad := (Mx.wmx w && xw == 255) || (Mx.amx w && xa == 255)
      let lift : Int := (if Mx.wmx w && Mx.wfmt w == 8 then 6 else 0) + (if Mx.amx w && Mx.afmt w == 8 then 6 else 0)
      let d : Num := if pairInt (Mx.wfmt w) (Mx.afmt w) then
          ofInt ((List.range 32).foldl (fun (acc : Int) i =>
            match mulNum (aRaw (b * 32 + i)) (wRaw (b * 32 + i)) with
            | .fin s m e => (satAdd acc ((if s then -1 else 1) * (m : Int) * 2 ^ e.toNat)).1
            | _ => acc) 0)
        else numF32 (dot 0 (b * 32) 32)
      accAdd acc (if bad then .nan else scaleNum d ((xw : Int) - 127 + ((xa : Int) - 127) - lift))) start

/-- One 64-element pass of output (m, n), integer form (R45), added to `start`, and whether it saturated. -/
def passInt (w : Inst256) (wt act : Elems) (start : Int × Bool) (k m n : Nat) : Int × Bool :=
  let nc := Mx.cols w
  let mr := Mx.rows w
  let int := fun (fmt raw : Nat) => if fmt = 0xA then tritVal raw else if fmt = 0x9 then signed 4 raw else signed 8 raw
  (List.range 64).foldl (fun acc r =>
    let a := int (Mx.afmt w) (act.raw.getD (k * 64 * mr + m * 64 + r) 0)
    let b := int (Mx.wfmt w) (wt.raw.getD (k * 64 * nc + r * nc + n) 0)
    let t := satAdd acc.1 (a * b)
    (t.1, acc.2 || t.2)) start

/-- The sum of output (m, n) as its 32-bit pattern, and whether it saturated (R44, R83, R85). WS and IS add each pass into the partial sum,
which the first pass overwrites when acc = 0. OS holds the running sum in its MACs until the last k and then adds or overwrites once
(log entry 61). -/
def sumOf (w : Inst256) (wt act : Elems) (old : Nat) (m n : Nat) : Nat × Bool :=
  let acc := bit w 15
  let ks := List.range (Mx.kBlocks w)
  if Mx.intAcc w then
    let into := fun (p q : Int × Bool) => let t := satAdd p.1 q.1; (t.1, p.2 || q.2 || t.2)
    let r :=
      if Mx.mode w = 1 then
        let q := ks.foldl (fun p k => passInt w wt act p k m n) (0, false)
        if acc then into (signed 32 old, false) q else q
      else ks.foldl (fun p k =>
        let q := passInt w wt act (0, false) k m n
        if k = 0 ∧ ¬acc then q else into p q) (signed 32 old, false)
    (unsign 32 r.1, r.2)
  else
    let first : F32 := BitVec.ofNat 32 old
    let r :=
      if Mx.mode w = 1 then
        let q := ks.foldl (fun p k => passFloat w wt act p k m n) 0
        if acc then accAdd first (numF32 q) else q
      else ks.foldl (fun p k =>
        let q := passFloat w wt act 0 k m n
        if k = 0 ∧ ¬acc then q else accAdd p (numF32 q)) first
    (r.toNat, false)

/-- Position of output (m, n) in its region: rows of N, or transposed in IS mode (R84). -/
def outIndex (w : Inst256) (m n : Nat) : Nat := if Mx.mode w = 2 then n * Mx.rows w + m else m * Mx.cols w + n

/-- The sum at region position `i` in FP32, multiplied by its column's scale where scales apply (R87). -/
def scaledSum (w : Inst256) (sums scales : List Nat) (i : Nat) : F32 :=
  let raw := sums.getD i 0
  let x : F32 := if Mx.intAcc w then packF32 .rne (ofInt (signed 32 raw)) else BitVec.ofNat 32 raw
  if Mx.sEn w then mulF32 .rne x (BitVec.ofNat 32 (scales.getD (if Mx.mode w = 2 then i / Mx.rows w else i % Mx.cols w) 0)) else x

/-- Whether region position `i` belongs to a valid row (R85). -/
def validAt (w : Inst256) (i : Nat) : Bool := (if Mx.mode w = 2 then i % Mx.rows w else i / Mx.cols w) < Mx.mRows w

/-- Random words given in order to the positions from `i` on that `ok` accepts, and 0 to the others. -/
def spread (ok : Nat → Bool) : Nat → Nat → List Nat → List Nat
  | 0, _, _ => []
  | k + 1, i, l => if ok i then l.headD 0 :: spread ok k (i + 1) l.tail else 0 :: spread ok k (i + 1) l

/-- The converted outputs in region order (R87): element patterns, MX scale bytes, and whether a NaN of a valid row was written as zero. `sums`
gives the sum of a region position, `scales` the FP32 scale of a column. -/
def convertOut (w : Inst256) (sums : List Nat) (scales : List Nat) (rands : List Nat) : List Nat × List Nat × Bool :=
  let total := Mx.rows w * Mx.cols w
  let f32 := scaledSum w sums scales
  if Mx.omx w then
    let half := fun i => decodeElem 1 (encodeElem 1 .rne false 0 (numF32 (f32 i))).1
    let blocks := (List.range (total / 32)).map fun b =>
      mxBlock (Mx.ofmt w) (Mx.rnd w) ((rands.drop (b * 32)).take 32) ((List.range 32).map fun i => half (b * 32 + i))
    (blocks.flatMap (·.2), blocks.map (·.1), false)
  else
    let l := (List.range total).map fun i =>
      if !validAt w i then (0, false)
      else if Mx.ofmt w = 0 then ((f32 i).toNat, false)
      else encodeElem (Mx.ofmt w) (Mx.rnd w) (bit w 29) (rands.getD i 0) (numF32 (f32 i))
    (l.map (·.1), [], l.any (·.2))

namespace State

/-- The result of a matrix or side-path instruction written (R85, R87, R99): partial sums and outputs of the valid rows, the scale bytes of
the blocks that hold one, and the flags of R39, R45 and R51. Only elements of valid rows draw from the generator (log entry 33). -/
def writeResult (s : State) (n : Nat) (w : Inst256) (p : Prep) : State :=
  let now := s.operandBytes n w p
  let byte := fun (l : List Nat) => l.map fun x => BitVec.ofNat 8 x
  let wt := fun (l : List Nat) => tilesOf (Mx.wfmt w) (64 * Mx.cols w) (if Mx.wmx w then 2 * Mx.cols w else 0) (Mx.wTile w) (byte l) (Mx.kBlocks w)
  let act := fun (l : List Nat) => tilesOf (Mx.afmt w) (64 * Mx.rows w) (if Mx.amx w then 2 * Mx.rows w else 0) (Mx.aTile w) (byte l) (Mx.kBlocks w)
  let scl := fun (l : List Nat) => unpack 0 (l.length / 4) (byte l)
  let base := s.free
  let ew := mixElems base (wt p.wOld) (wt now.1)
  let ea := mixElems (base + ew.raw.length + ew.scale.length) (act p.aOld) (act now.2.1)
  let es := mix (base + ew.raw.length + ew.scale.length + ea.raw.length + ea.scale.length) (scl p.sOld) (scl now.2.2)
  let raced := decide ((p.wOld, p.aOld, p.sOld) ≠ now)
  let c := s.cell n
  let total := Mx.rows w * Mx.cols w
  let place := fun i => if Mx.mode w = 2 then (i % Mx.rows w, i / Mx.rows w) else (i / Mx.cols w, i % Mx.cols w)
  let old := unpack 0 total (p.vp.bytes c (Mx.pOff w) (Mx.pBytes w))
  let res := (List.range total).map fun i =>
    if validAt w i then sumOf w ew ea (old.getD i 0) (place i).1 (place i).2 else (0, false)
  let sums := res.map (·.1)
  let c := forEach (List.range total) (fun i c =>
    if validAt w i then c.store p.vp (Mx.pOff w + 4 * i) (leBytes 4 (sums.getD i 0)) else c) c
  let sat := res.any (·.2)
  let badTernary := Mx.wfmt w == 0xA && ew.raw.contains 3
  let dr := if Mx.outEn w then draws (Mx.rnd w) (Mx.mRows w * Mx.cols w) c.rng else ([], c.rng)
  let rands := spread (validAt w) total 0 dr.1
  let out := convertOut w sums es rands
  let ob := elemBits (Mx.ofmt w) / 8
  let c := if !Mx.outEn w || p.app then c
    else
      let c := forEach (List.range total) (fun i c =>
        if validAt w i then c.store p.vo (Mx.oOff w + ob * i) (leBytes ob (out.1.getD i 0)) else c) c
      if Mx.omx w then
        forEach (List.range (total / 32)) (fun b c =>
          if (List.range 32).any fun i => validAt w (b * 32 + i) then
            c.store p.vo (Mx.oOff w + ob * total + b) (leBytes 1 (out.2.1.getD b 0)) else c) c
      else c
  let s := s.modCell n fun _ => { c with rng := dr.2 }
  let s := if p.app && Mx.outEn w then
      s.appendRows n w (fun m k => scaledSum w sums es (outIndex w m k)) fun m k => rands.getD (outIndex w m k) 0
    else s
  let s := if raced then { s with free := s.free + 2 ^ 32 } else s
  let s := onlyIf sat (fun s => s.wr Fld.celFlags_sat 1 n) s
  onlyIf (badTernary || (Mx.outEn w && out.2.2)) (fun s => s.wr Fld.celFlags_fmtErr 1 n) s

/-- The regions that an instruction reads, by operand number: weights, activations, partial sums that it adds to, scales. -/
def operandRegion (w : Inst256) (p : Prep) : Nat → Option (View × Nat × Nat)
  | 0 => some (p.vw, Mx.wOff w, Mx.wBytes w)
  | 1 => some (p.va, Mx.aOff w, Mx.aBytes w)
  | 2 => if bit w 15 then some (p.vp, Mx.pOff w, Mx.pBytes w) else none
  | 3 => if Mx.sEn w then some (p.vs, Mx.sOff w, Mx.sBytes w) else none
  | _ => none

/-- The uncorrectable word that an instruction meets among what it reads (R119, R120), with its syndrome when the line is not one that was
poisoned: a poisoned line, or the first of the errors of its reads. -/
def operandUe (s : State) (n : Nat) (w : Inst256) (p : Prep) (errs : ReadErrs) : Option (Nat × Nat × Option Nat) :=
  let c := s.cell n
  let old := (List.range 4).filterMap fun k => (operandRegion w p k).bind fun (v, off, len) => c.poisoned v off len
  match old.head? with
  | some key => some (key, 0, none)
  | none => (errs.bad.filterMap fun (k, line, word, syn) => (operandRegion w p k).bind fun (v, off, len) =>
      if line * 64 < len then some (v.key (off + line * 64) / 64, word, some syn) else none).head?

/-- A reading instruction meets an uncorrectable word (R120): it stops without its signal, and the cell faults. -/
def readFault (s : State) (n : Nat) (e : Nat × Nat × Option Nat) : State :=
  match e.2.2 with
  | some syn => (s.meetUe n e.1 e.2.1 syn).memFault n e.1
  | none => (s.poolUe n e.1 0 none).memFault n e.1

/-- The signal of a completed instruction (R85). -/
def signalDone (s : State) (n : Nat) (w : Inst256) : State :=
  if bit w 225 then s.signal (cellIdent n) (bits w 223 208) 1 else s

/-- Streaming time in cycles: passes of 64 cycles, 34 in the dual shape, four times that at quarter rate (R82, R88, R89). -/
def streamCycles (w : Inst256) : Nat :=
  Mx.kBlocks w * (if Mx.shape w = 1 then 34 else 64) * (if pairQuarters (Mx.wfmt w) = 1 then 4 else 1)

/-- The landing buffer of cell `n` written to its halves (R116). -/
def drainLanding (s : State) (n : Nat) : State :=
  s.modCell n fun c => { forEach c.landing (fun d c => c.land d) c with landing := [] }

/-- The oldest instruction leaves the array: the landing buffer drains when no dual pair runs any more (R116), and the next instructions
prepare (R89). A change of the cell clock takes effect at this boundary (R102). -/
def leaveArray (s : State) (n : Nat) : State :=
  let s := s.modCell n fun c => { c with jobs := c.jobs.tail, clock := none }
  (if s.dualRuns n then s else s.drainLanding n).arrayGo n

/-- The oldest matrix instruction of the array ends (R85): with its results and its signal, or at an uncorrectable operand (R120). The
two halves of a dual pair stream together, so only the west half counts its cycles. -/
def completeMatrix (s : State) (n : Nat) : State :=
  match (s.cell n).jobs with
  | [] => s
  | j :: _ =>
    match j.prep with
    | none => s
    | some p =>
      let s := s.corrected n j.errs.corrected
      match s.operandUe n j.w p j.errs with
      | some e => (s.leaveArray n).readFault n e
      | none =>
        let s := (s.writeResult n j.w p).leaveArray n
        let s := s.bump64 Fld.arrInstr_count n
        let s := if bit j.w 14 then s else s.bump64 Fld.arrBusy_count n 0 (streamCycles j.w)
        s.signalDone n j.w

/-- Whether a side-path instruction still waits on its latch after its wait has begun (R97; log entry 65). -/
def sideWait (s : State) (n : Nat) (w : Inst256) : State :=
  let l := bits w 207 192
  if !bit w 224 || (s.cell n).sideMet == some true then s
  else
    let s := s.closeOpen l
    if latchHome l = n ∧ s.met l then s else (s.modCell n fun c => { c with sideMet := some false }).waitOn n l false

/-- A side-path instruction, opcode 0x41 (R97 to R99): it runs at once, after its latch. -/
def sidePath (s : State) (n : Nat) (w : Inst256) (errs : ReadErrs) : State :=
  s.issue n fun s =>
    if reservedOp (bits w 7 0) then s.illegal n (s.pc n) 0x01
    else
      let w := Mx.withOp w 0x41
      match s.matrixCause n w true with
      | some cause => s.illegal n (s.pc n) cause
      | none =>
        if hazard (s.cell n).jobs (Mx.reads w) (Mx.writes w) then s
        else
          let s := s.sideWait n w
          if (s.cell n).sideMet = some false then s
          else
            let s := s.modCell n fun c => { c with sideMet := none }
            match s.prepare n w true errs with
            | .inl cause =>
              onlyIf (errs.parity.any (Mx.handles w).contains) (fun s => s.handleParity n) (s.illegal n (s.pc n) cause)
            | .inr p =>
              let s := s.corrected n errs.corrected
              match s.operandUe n w p errs with
              | some e => (s.advance n).readFault n e
              | none => ((s.writeResult n w p).advance n).signalDone n w

/-- Free values in the partial-sum region of an instruction that an array fault stopped (R100, log entry 36). -/
def spoil (s : State) (n : Nat) (j : MatrixJob) : State :=
  match j.prep with
  | none => s
  | some p =>
    let len := Mx.pBytes j.w
    let l := (List.range len).map fun i => (Config.freeValue (s.free + i)).setWidth 8
    { (s.modCell n fun c => c.store p.vp (Mx.pOff j.w) l) with free := s.free + len }

/-- A parity error in the array (R100): the running instruction, or dual pair, stops without its signal and the array is fenced. What else
was issued to the array is dropped, and the sequencer halts (log entry 71). -/
def arrayParity (s : State) (n : Nat) : State :=
  match (s.cell n).jobs with
  | [] => s
  | j :: _ =>
    if j.prep.isNone then s
    else
      let first := !s.flag Fld.celFlags_illegal n && !s.flag Fld.celFlags_arrayPar n
      let s := onlyIf first (fun s => (s.setReg .celFaultPc n 0 j.pc).wr Fld.celFaultCause_cause 0x10 n) s
      let s := forEach ((s.cell n).jobs.take (groupLen (s.cell n).jobs)) (fun j t => t.spoil n j) (s.wr Fld.celFlags_arrayPar 1 n)
      let s := ((s.dropJobs n 0).drainLanding n).wr Fld.celStatus_arrayBusy 0 n
      (s.halt n).cellFault n 0x01 false

end State

/-- MATRIX_INSTRUCTION (R85, R86): a reserved opcode of the class is illegal, any other byte is taken as 0x40 (log entry 62). -/
def execMatrixInstruction (n : CellId) (c : ArrayCmd) (s : State) : Out :=
  .next (if reservedOp (bits c.word 7 0) then s.issue n fun s => s.illegal n (s.pc n) 0x01 else s.matrix n (Mx.withOp c.word 0x40) c.errs)
/-- A matrix instruction writes its last output and signals (R85). -/
def execMatrixComplete (n : CellId) (s : State) : Out := .next (s.completeMatrix n)
/-- SIDE_PATH_INSTRUCTION (R97 to R99). -/
def execSidePathInstruction (n : CellId) (c : ArrayCmd) (s : State) : Out := .next (s.sidePath n c.word c.errs)
/-- ARRAY_PARITY_ERROR (R100). -/
def execArrayParityError (n : CellId) (s : State) : Out := .next (s.arrayParity n)

end Sys2Proof.Machine
end

