-- ==== Sys2Proof/Machine/Moves.lean ====
section
/-!
DEFINITION. Tile moves (05, R133 to R143; 02, R49 to R56, R67; 04, R116; 06, R160, R163, R165, R168, R171; 11, R342) and the mesh links (R129).
-/
namespace Sys2Proof.Machine

/-- Element patterns of one tile in the form of its format, MX flag and Gust variant, with the scale bytes and the blocks that had a coding
error (R56, R67). -/
def tileIn (fmt : Nat) (mx : Bool) (gust : Nat) (l : List Byte) : List Nat × List Nat × Nat :=
  if gust ≠ 0 then
    let bs := (List.range 128).map fun i => gustDecode gust (slice l (i * gustBytes gust) (gustBytes gust))
    (bs.flatMap (·.1), [], (bs.filter (·.2)).length)
  else if mx then (unpack fmt 4096 l, (l.drop (plainBytes fmt 4096)).map (·.toNat), 0)
  else (unpack fmt 4096 l, [], 0)

/-- Consecutive groups of 32. -/
def groups32 {α : Type} (n : Nat) (l : List α) : List (List α) := (List.range n).map fun i => (l.drop (32 * i)).take 32

/-- The place in a 64 × 64 tile of element `i` of MX block `b` (R56): along a row, or down a column in a weight tile (log entry 69). -/
def mxPlace (weights : Bool) (b i : Nat) : Nat := if weights then (b / 64 * 32 + i) * 64 + b % 64 else b * 32 + i
/-- The block and the place within it of element `j` of the tile. -/
def mxBlockOf (weights : Bool) (j : Nat) : Nat × Nat := if weights then (j / 2048 * 64 + j % 64, j / 64 % 32) else (j / 32, j % 32)

/-- The three stages on one tile (R134): the bytes written, NaNs written as zero, coding errors, and the generator after its draws. `weights`
tells that the tile goes to the weight buffer. A zero that an MX block has under scale 0xFF is no NaN written as zero (log entry 74). -/
def convertTile (d : BitVec 512) (weights : Bool) (rng : BitVec 32) (l : List Byte) : List Byte × Nat × Nat × BitVec 32 :=
  let r := (Desc.rnd d).getD .rne
  let (els, scales, ce) := tileIn (Desc.srcFmt d) (Desc.srcMx d) (Desc.srcGust d) l
  if Desc.srcFmt d = Desc.dstFmt d ∧ Desc.srcMx d = Desc.dstMx d then
    let out := if Desc.dstGust d ≠ 0 then (groups32 128 els).flatMap (gustEncode (Desc.dstGust d))
      else pack (Desc.dstFmt d) els ++ scales.map (BitVec.ofNat 8)
    (out, 0, ce, rng)
  else
    let (rs, rng) := draws r els.length rng
    let v := els.map (decodeElem (Desc.srcFmt d))
    if Desc.dstMx d then
      let bs := (List.range 128).map fun b => mxBlock (Desc.dstFmt d) r ((List.range 32).map fun i => rs.getD (mxPlace weights b i) 0)
        ((List.range 32).map fun i => v.getD (mxPlace weights b i) .nan)
      let at_ := fun (p : Nat × Nat) => ((bs.getD p.1 (0, [])).2).getD p.2 0
      (pack (Desc.dstFmt d) ((List.range 4096).map fun j => at_ (mxBlockOf weights j)) ++ bs.map (fun b => BitVec.ofNat 8 b.1), 0, ce, rng)
    else
      let o := List.zipWith (fun x k => encodeElem (Desc.dstFmt d) r (Desc.sat d) k x) v rs
      let raw := o.map (·.1)
      (if Desc.dstGust d ≠ 0 then (groups32 128 raw).flatMap (gustEncode (Desc.dstGust d)) else pack (Desc.dstFmt d) raw,
        (o.filter (·.2)).length, ce, rng)

namespace State

/-! ### Acceptance (R135, R139 to R142, R160, R163) -/

/-- The completion record of R136, written through a resolved handle of the issuing cell. -/
def writeRecord (s : State) (n : Nat) (v : Option View) (d : BitVec 512) (status fmtExc codErr done : Nat) : State :=
  match v with
  | none => s
  | some v =>
    s.modCell n fun c => c.store v (bits d 431 416 * 64 + Desc.tag d % 4 * 16)
      (leBytes 2 (Desc.tag d) ++ leBytes 1 status ++ leBytes 2 (min 0xFFFF fmtExc) ++ leBytes 2 (min 0xFFFF codErr) ++ leBytes 1 0 ++
        leBytes 4 done ++ leBytes 4 0)

/-- The span that binds an issuer (R135): a cell's own, or that of a step sequencer; steward firmware is bound by none. -/
def issuerSpan (s : State) (e who : Nat) : Option Nat :=
  if e < 56 then some (s.cellSpan e) else if 0x30 ≤ who ∧ who ≤ 0x37 then some (who - 0x30) else none

/-- Whether cell `c` lies within what binds the issuer. -/
def inSpan (s : State) (sp : Option Nat) (c : Nat) : Bool := sp.all fun x => s.cellSpan c == x
/-- Whether latch `l` lies within what binds the issuer. -/
def latchIn (s : State) (sp : Option Nat) (l : Nat) : Bool := sp.all fun x => s.ownsLatch x l

/-- A handle endpoint of a move of engine `e` (R104, R110, R135): the cell and the view, when it lies in the issuer's span and holds the
region. A move that no cell issued has no issuing cell (log entry 67). -/
def moveView (s : State) (e : Nat) (sp : Option Nat) (kind cell h off len : Nat) (write : Bool) : Option (Nat × View) :=
  let c := if kind = 0 then e else cell
  if 56 ≤ c ∨ !s.inSpan sp c then none
  else match s.resolve c h with
    | some v => if (!write || (!v.wp && v.rmode == 0)) && v.holds off len then some (c, v) else none
    | none => none

/-- The record's view: a line of a handle of the issuing cell that a move may write. -/
def recView (s : State) (e : Nat) (d : BitVec 512) : Option View :=
  if 56 ≤ e then none
  else match s.resolve e (bits d 413 408) with
    | some v => if !v.wp && v.rmode == 0 && v.holds (bits d 431 416 * 64) 64 then some v else none
    | none => none

/-- Whether an object cannot be named now (R160): FREE, REVOKING or LOST, its die out of service, or its port down. -/
def objGone (s : State) (o : Nat) : Bool :=
  let e := (s.obj o).e
  !(e.st == stResident || e.st == stMoving) || (e.home == 2 && !s.libServes) || (e.home == 3 && !s.portUp (s.t3Port e))

/-- The rules on an object that a move names (R156, R159, R160): the grant, the tiles, and for a destination a home that a move may write. A
registered window has no tiles for a move to name (log entry 39). -/
def objNameable (s : State) (sp : Option Nat) (o first bytes count : Nat) (lines write : Bool) : Bool :=
  let e := (s.obj o).e
  let last := if lines then first * e.tile + count * 64 else (first + count - 1) * e.tile + bytes
  sp.all (e.grant.testBit ·) && !e.window && e.tile != 0 && first < e.tiles && last ≤ e.bytes && (!write || (e.home != 2 && !e.ro))

/-- A descriptor of engine `e` resolved (R109, R135): its two endpoints and its record's view, or the status of its refusal. -/
def resolveMove (s : State) (e who : Nat) (d : BitVec 512) : Sum Nat Move :=
  let sp := s.issuerSpan e who
  let src := if Desc.srcKind d = 2 then none else
    s.moveView e sp (Desc.srcKind d) (bits d 15 8) (bits d 29 24) (Desc.srcOff d) (Desc.count d * Desc.srcUnit d) false
  let dst := if Desc.dstKind d = 2 then none else
    s.moveView e sp (Desc.dstKind d) (bits d 23 16) (bits d 37 32) (Desc.dstOff d) (Desc.count d * Desc.dstUnit d) true
  let recH := if Desc.recEn d then s.recView e d else none
  if !Desc.wellFormed d then .inl 0x10
  else if (descObjs d).any s.objGone then .inl 0x11
  else if (Desc.srcKind d ≠ 2 ∧ src.isNone) ∨ (Desc.dstKind d ≠ 2 ∧ dst.isNone) ∨ (Desc.recEn d ∧ recH.isNone) ∨
      (Desc.waitEn d ∧ !s.latchIn sp (Desc.waitL d)) ∨ (Desc.sigEn d ∧ !s.latchIn sp (Desc.sigL d)) ∨
      (Desc.srcKind d = 2 ∧ !s.objNameable sp (Desc.srcObj d) (Desc.srcTile d) (Desc.srcUnit d) (Desc.count d) (Desc.lines d) false) ∨
      (Desc.dstKind d = 2 ∧ !s.objNameable sp (Desc.dstObj d) (Desc.dstTile d) (Desc.dstUnit d) (Desc.count d) (Desc.lines d) true) then
    .inl 0x10
  else
    .inr { id := s.tier.nextMove, who, desc := d, src, dst, recH, waiting := Desc.waitEn d,
           legs := 0, done := 0, fmtExc := 0, codErr := 0, poison := false, failed := false, held := none }

/-- A move refused when its descriptor is taken (R135, R138): nothing is written but the record. -/
def refuseMove (s : State) (e who : Nat) (d : BitVec 512) (status : Nat) : State :=
  let v := if Desc.recEn d && Desc.wellFormed d then s.recView e d else none
  (s.writeRecord e v d status 0 0 0).descError who (Desc.tag d) status

/-- Whether there is room for one more move of engine `e`: 256 in flight in a cell, or a slot of the issued-move pool, and no object at 65,535
pins (R140, R142, R163). -/
def moveRoom (s : State) (e : Nat) (d : BitVec 512) : Bool :=
  (if e < 56 then s.inFlight e < 256 else s.issuedUsed < 512) && (descObjs d).all fun o => (s.obj o).e.pins < 65535

/-- One descriptor taken by the tile-move engine (R140): its objects are pinned, its wait begins, or its fetch legs do. -/
def acceptMove (s : State) (e who : Nat) (d : BitVec 512) : State :=
  match s.resolveMove e who d with
  | .inl st => s.refuseMove e who d st
  | .inr m =>
    let s := s.modTier fun t => { t with nextMove := t.nextMove + 1 }
    let s := (forEach (descObjs d) (fun o t => t.pin o) s).modMoves e fun l => l ++ [m]
    if m.waiting then s.startWait e (Desc.waitL d) (.move m.id) else s.startMove e m.id

/-- The descriptor at a line of a MOVE's handle. -/
def descAt (s : State) (n : Nat) (v : View) (line : Nat) : BitVec 512 :=
  BitVec.ofNat 512 (ofLe (v.bytes (s.cell n) (line * 64) 64))

/-- The uncorrectable word that a MOVE meets at a descriptor line (R119, R120): on a line that was poisoned, or one of its reads' errors. -/
def descUe (s : State) (n : Nat) (v : View) (line : Nat) (errs : ReadErrs) : Option (Nat × Nat × Option Nat) :=
  match (s.cell n).poisoned v (line * 64) 64 with
  | some key => some (key, 0, none)
  | none => (errs.bad.find? fun e => e.1 == 0 && e.2.1 == line).map fun e => (v.key (line * 64) / 64, e.2.2.1, some e.2.2.2)

/-- The next descriptors of a MOVE issued in order (R139); without room the instruction stalls, with its handle as it resolved it (R109,
R141). A bad descriptor line is a memory error of a reading instruction (R120). -/
def issueMoves (s : State) (n : Nat) (v : View) (errs : ReadErrs) (line : Nat) : Nat → State
  | 0 => s
  | k + 1 =>
    match s.descUe n v line errs with
    | some e => s.readFault n e
    | none =>
      let d := s.descAt n v line
      if s.moveRoom n d then (s.acceptMove n (cellIdent n) d).issueMoves n v errs (line + 1) k
      else s.modCell n fun c => { c with stall := some { view := v, line, left := k + 1, errs } }

/-- MOVE (R74, R110, R121, R139). The lines of `errs` count from the first descriptor. -/
def moveInst (s : State) (n : Nat) (w : Inst256) (errs : ReadErrs) : State :=
  s.issue n fun s =>
    let h := bits w 13 8
    let first := bits w 31 16
    let k := bits w 39 32
    if reservedOp (bits w 7 0) then s.illegal n (s.pc n) 0x01
    else if bits w 15 14 ≠ 0 ∨ bits w 255 40 ≠ 0 ∨ k = 0 ∨ 64 < k then s.illegal n (s.pc n) 0x02
    else if hazard (s.cell n).jobs [h] [] then s
    else if errs.parity == some h then (s.illegal n (s.pc n) 0x06).handleParity n
    else match s.resolve n h with
      | some v =>
        if v.mem = 0 ∧ v.rmode = 0 ∧ v.holds (first * 64) (k * 64) then
          ((s.advance n).corrected n errs.corrected).issueMoves n v
            { errs with bad := errs.bad.map fun e => (e.1, first + e.2.1, e.2.2) } first k
        else s.illegal n (s.pc n) 0x06
      | none => s.illegal n (s.pc n) 0x06

/-- A stalled MOVE goes on when there is room (R141, R163): descriptors after the stall use the handle as the instruction resolved it. -/
def resumeMove (s : State) (n : Nat) : State :=
  match (s.cell n).stall with
  | none => s
  | some x =>
    let s := (s.modCell n fun c => { c with stall := none }).issueMoves n x.view x.errs x.line x.left
    if (s.cell n).stall.isSome then s else s.boundary n

/-- A descriptor pushed to the tier engine by steward firmware or a step sequencer (R142, R151): it waits while its pool is full. -/
def pushMove (s : State) (who : Nat) (d : BitVec 512) : State :=
  if s.moveRoom 56 d then s.acceptMove 56 who d else s.modTier fun t => { t with pushes := t.pushes ++ [(who, d)] }

/-- What waits for room in the tile-move and tier engines goes on (R140 to R142, R163): pushed descriptors, walkers' pieces, object moves, and the
MOVEs of the cells. -/
def pumpAll (s : State) : State :=
  let s := forEach s.tier.pushes (fun p t =>
    if t.moveRoom 56 p.2 then (t.modTier fun x => { x with pushes := x.pushes.erase p }).acceptMove 56 p.1 p.2 else t) s
  forEach (List.range 56) (fun n t => t.resumeMove n) s.pumpPieces.pumpMoves

/-! ### Transfer (R116, R134, R143, R165) -/

/-- Where unit `i` of a move lies at an object. -/
def objOff (s : State) (o first i : Nat) (lines : Bool) : Nat :=
  let t := (s.obj o).e.tile
  if lines then first * t + i * 64 else (first + i) * t

/-- Whether a view lies in the weight buffer. -/
def inWeights (v : View) : Bool := 1 ≤ v.mem && v.mem ≤ 3

/-- Bytes brought to a cell, with the line keys that they poison: while a dual pair holds both halves of the weight buffer they stand in the
landing buffer (R116; log entry 68). `told` marks poison that the tier engine reports to keystone (R182). -/
def bring (s : State) (c : Nat) (d : Landed) : State :=
  if inWeights d.view && s.dualRuns c then s.modCell c fun x => { x with landing := x.landing ++ [d] }
  else s.modCell c fun x => x.land d

/-- Whether data for a view of cell `c` find no room: a running dual pair and a full landing buffer (R116, R152). -/
def landingFull (s : State) (c : Nat) (v : View) (n : Nat) : Bool :=
  inWeights v && s.dualRuns c && 16384 < ((s.cell c).landing.map fun d => d.bytes.length).sum + n

/-- The lines of the source of unit `i` that are poisoned, as line offsets within the unit. -/
def srcPoison (s : State) (m : Move) (i : Nat) : List Nat :=
  let d := m.desc
  let n := Desc.srcUnit d
  match m.src with
  | some (c, v) => (List.range (cdiv n 64)).filter fun j => (s.cell c).poison.contains (v.key (Desc.srcOff d + i * n + j * 64) / 64)
  | none => s.objPoison (Desc.srcObj d) (s.objOff (Desc.srcObj d) (Desc.srcTile d) i (Desc.lines d)) n

/-- The bytes of unit `i` at the source. -/
def srcUnitBytes (s : State) (m : Move) (i : Nat) : List Byte × State :=
  let d := m.desc
  let n := Desc.srcUnit d
  match m.src with
  | some (c, v) => s.readView c v (Desc.srcOff d + i * n) n
  | none => (s.objRead (Desc.srcObj d) (s.objOff (Desc.srcObj d) (Desc.srcTile d) i (Desc.lines d)) n, s)

/-- The cell whose generator a conversion with SR draws from: the issuer's; for a move that no cell issued, the destination's, else the source's
(log entry 67). -/
def moveGen (e : Nat) (m : Move) : Option Nat := if e < 56 then some e else (m.dst.orElse fun _ => m.src).map (·.1)

/-- The uncorrectable lines of the source that a cell's memory shows (R120): every one is counted. -/
def countBad (s : State) (m : Move) (i : Nat) (bad : List Nat) (errs : List (Nat × EccOutcome)) : State :=
  match m.src with
  | none => s
  | some (c, v) =>
    let per := cdiv (Desc.srcUnit m.desc) 64
    forEach bad (fun j (t : State) =>
      let at_ := errs.findSome? fun e => match e.2 with
        | .uncorrectable w syn => if e.1 = i * per + j then some (w, syn) else none
        | _ => none
      t.poolUe c (v.key (Desc.srcOff m.desc + i * Desc.srcUnit m.desc + j * 64) / 64) (at_.elim 0 (·.1)) (at_.map (·.2))) s

/-- The bytes of unit `i`, converted, written at the destination with the lines `js` poisoned (R120). -/
def putUnit (s : State) (m : Move) (i : Nat) (out : List Byte) (js : List Nat) : State :=
  let d := m.desc
  match m.dst with
  | some (c, v) =>
    let off := Desc.dstOff d + i * Desc.dstUnit d
    s.bring c { view := v, off, bytes := out, poison := js.map fun j => v.key (off + j * 64) / 64, told := m.src.isNone }
  | none =>
    let off := s.objOff (Desc.dstObj d) (Desc.dstTile d) i (Desc.lines d)
    (s.objWrite m.id (Desc.dstObj d) off out).objSpoil (Desc.dstObj d) off js

/-- Unit `i` of move `m` of engine `e` carried over; a conversion with SR draws from the generator of `moveGen` (R43; log entry 67). `leg` tells
that its leg delivered poison. -/
def carry (s : State) (e : Nat) (m : Move) (i : Nat) (leg : Bool) (errs : List (Nat × EccOutcome)) : Move × State :=
  let d := m.desc
  let bad := s.srcPoison m i
  let s := s.countBad m i bad errs
  let (l, s) := s.srcUnitBytes m i
  let (rng, s) := match moveGen e m with
    | some c => ((s.cell c).rng, s)
    | none => ((Config.freeValue s.free).setWidth 32, { s with free := s.free + 1 })
  let (out, fe, ce, rng) := if Desc.plain d then (l, 0, 0, rng) else convertTile d (m.dst.any fun p => inWeights p.2) rng l
  let s := match moveGen e m with
    | some c => s.modCell c fun c => { c with rng }
    | none => s
  let all := List.range (cdiv (Desc.dstUnit d) 64)
  let js := if leg then all else if bad.isEmpty then [] else if Desc.plain d then bad else all
  ({ m with done := m.done + 1, fmtExc := m.fmtExc + fe, codErr := m.codErr + ce, poison := m.poison || !js.isEmpty }, s.putUnit m i out js)

/-- The next `k` units carried over. -/
def carryAll (s : State) (e : Nat) (m : Move) (leg : Bool) (errs : List (Nat × EccOutcome)) : Nat → Move × State
  | 0 => (m, s)
  | k + 1 =>
    let (m, s) := s.carry e m m.done leg errs
    s.carryAll e m leg errs k

/-- Whether two moves of one issuer write to the same destination handle or object (R143). -/
def sameDst (a b : Move) : Bool :=
  let x := a.desc
  let y := b.desc
  a.who == b.who &&
  if Desc.dstKind x = 2 || Desc.dstKind y = 2 then Desc.dstKind x == Desc.dstKind y && Desc.dstObj x == Desc.dstObj y
  else a.dst.map (·.1) == b.dst.map (·.1) && bits x 37 32 == bits y 37 32

/-- Whether an earlier move of the issuer to the same destination still has to write (R143); one whose writes the tier engine holds has written
as far as the order goes (R165). -/
def behind (s : State) (e : Nat) (m : Move) : Bool :=
  ((s.movesOf e).takeWhile fun x => !(x.id == m.id)).any fun x => sameDst m x && x.held.isNone

/-- Whether a running dual pair keeps a move from completing (R116): data for the weight buffer stand in the landing buffer until the pair
completes, and a read of the weight buffer waits. -/
def arrayHolds (s : State) (m : Move) : Bool :=
  let holds := fun (x : Option (Nat × View)) => x.any fun p => inWeights p.2 && s.dualRuns p.1
  holds m.src || holds m.dst

/-- Whether the destination object of a move is on the move itself, so that the tier engine holds what is written to it (R165). -/
def dstMoving (s : State) (m : Move) : Bool := Desc.dstKind m.desc == 2 && (s.obj (Desc.dstObj m.desc)).e.st == stMoving

/-- A move in flight replaced. -/
def putMove (s : State) (e : Nat) (m : Move) : State := s.modMoves e fun l => l.map fun x => if x.id == m.id then m else x

/-! ### Completion (R136 to R138, R165, R168, R171) -/

/-- A move leaves flight with a status (R136 to R138, R163), and what waited for room goes on. -/
def endMove (s : State) (e : Nat) (m : Move) (status : Nat) : State :=
  let d := m.desc
  let mine := fun (b : WaitFor) => b == .move m.id
  let s := (s.modMoves e fun l => l.filter fun x => !(x.id == m.id)).modWaits e fun l => l.filter fun w => !mine w.by_
  let s : State := { s with waiters := s.waiters.filter fun w => !(w.engine == e && mine w.by_) }
  let s := s.modTier fun t => { t with legs := t.legs.filter fun l => !(l.engine == e && l.move == m.id),
                                       legWait := t.legWait.filter fun l => !(l.engine == e && l.move == m.id) }
  let s := forEach (descObjs d) (fun o t => t.unpin o) s
  let s := s.writeRecord e m.recH d status m.fmtExc m.codErr m.done
  let s := if 0x10 ≤ status then s.descError m.who (Desc.tag d) status
    else if Desc.sigEn d then s.signal m.who (Desc.sigL d) (Desc.sigVal d) else s
  s.pumpAll

/-- The completion of move `m` of engine `e` (R136, R137): what legs did not bring is carried over first. Writes to a moving object are held, and
keep the move in flight (R165). -/
def completeMove (s : State) (e : Nat) (m : Move) (errs : List (Nat × EccOutcome)) : State :=
  if m.failed || (descObjs m.desc).any (fun o => (s.obj o).e.st == stLost) then s.endMove e m 0x11
  else match m.held with
    | some st => s.endMove e m st
    | none =>
      let (m, s) := s.carryAll e m false errs (Desc.count m.desc - m.done)
      let st := if m.poison then 0x02 else if m.fmtExc + m.codErr ≠ 0 then 0x01 else 0x00
      if s.dstMoving m then s.putMove e { m with held := some st } else s.endMove e m st

/-- Whether MOVE_COMPLETE can complete move `m` of engine `e` now. -/
def canComplete (s : State) (e : Nat) (m : Move) : Bool :=
  m.failed || (descObjs m.desc).any (fun o => (s.obj o).e.st == stLost) ||
  (!m.waiting && m.legs == 0 && !s.behind e m && !s.arrayHolds m && !(m.held.isSome && s.dstMoving m))

/-- The accounting of a leg that took `ns` (R171): `TIE_T3_WCLAT` follows the longest T3 leg measured (R170, log entry 56). -/
def legTime (s : State) (l : Leg) (span ns : Nat) : State :=
  let wc := if l.tier = 2 then s.rd Fld.tieT2Wclat_ns else s.rd Fld.tieT3Wclat_ns
  let s := s.bump64 (if l.tier = 2 then Fld.tieFetchT2_count else Fld.tieFetchT3_count)
  let s := if ns ≤ wc then s
    else (s.logFirst Fld.tieLateCnt_count .tieLateLog
      (l.obj * 2 ^ 47 + span % 8 * 2 ^ 44 + min 4095 ((ns - wc) / 1000) * 2 ^ 32 + l.tile % 2 ^ 32)).wr Fld.tieStatus_late 1
  if l.tier = 3 ∧ wc < ns then s.wr Fld.tieT3Wclat_ns (min 0xFFFFFFFF ns) else s

/-- The span that `TIE_LATE_LOG` names for a leg: its issuer's; 0 for what no span issues (log entry 67). -/
def legSpan (s : State) (l : Leg) : Nat :=
  if l.engine < 56 then s.cellSpan l.engine
  else if l.engine = 58 then ((s.kv.pieces.find? fun p => p.id == l.move).map (·.span)).getD 0
  else match s.tier.moves.find? fun m => m.id == l.move with
    | some m => (s.issuerSpan 56 m.who).getD 0
    | none => 0

/-- Units of a move that its legs cover up to the tile of leg `l`. -/
def unitsTo (s : State) (m : Move) (l : Leg) : Nat :=
  let d := m.desc
  let k := l.tile + 1 - (if l.write then Desc.dstTile d else Desc.srcTile d)
  min (Desc.count d) (if Desc.lines d then k * ((s.obj l.obj).e.tile / 64) else k)

/-- A leg of a tile move delivers (R168): its units are carried over, in order with the legs before it of its move. -/
def moveLeg (s : State) (l : Leg) (bad : Bool) : State :=
  match (s.movesOf l.engine).find? fun m => m.id == l.move with
  | none => s
  | some m =>
    let (m, s) := s.carryAll l.engine m bad [] (s.unitsTo m l - m.done)
    s.putMove l.engine { m with legs := m.legs - 1 }

/-- A leg of an object move delivers (R164): its tile is copied to the new home, with the poison that it carries. -/
def objLeg (s : State) (l : Leg) (bad : Bool) : State :=
  let x := s.obj l.obj
  let off := l.tile * x.e.tile
  let js := if bad then List.range (cdiv x.e.tile 64) else s.objPoison l.obj off x.e.tile
  let s := s.homeWrite x.e x.e.dest x.destAddr off (s.objRead l.obj off x.e.tile)
  let s := if x.e.dest = 1 then s.poisonT1 (x.destAddr + off) js else s
  s.modObj l.obj fun x => { x with got := x.got + 1 }

/-- A fetch leg delivers: to the tile move, the object move or the walker's move that it serves. -/
def legDone (s : State) (l : Leg) (ns : Nat) (bad : Bool) : State :=
  let s := s.legTime l (s.legSpan l) ns
  let s := s.modTier fun t => { t with legs := t.legs.filter fun x => !(x.id == l.id) }
  let s := if l.engine ≤ 56 then s.moveLeg l bad
    else if l.engine = 57 then s.objLeg l bad
    else s.modKv fun k => { k with pieces := k.pieces.map fun p => if p.id == l.move then { p with leg := false } else p }
  ((s.revokeEnd l.obj).pumpLegs).pumpAll

/-- Whether leg `l` is the next of its move to deliver: the legs of a tile move deliver in tile order, those that read before those that write,
and its move may write. -/
def legNext (s : State) (l : Leg) : Bool :=
  l.rest == 0 && l.engine != 59 &&
  (56 < l.engine ||
    (!((s.tier.legs ++ s.tier.legWait).any fun x => x.engine == l.engine && x.move == l.move && x.id < l.id) &&
      (s.movesOf l.engine).any fun m => m.id == l.move && !m.failed && !s.behind l.engine m &&
        !(m.dst.any fun p => s.landingFull p.1 p.2 ((s.unitsTo m l - m.done) * Desc.dstUnit m.desc))))

/-- A leg ends with 0x11 (R176, R178): its move writes no more and completes with that status. -/
def legFail (s : State) (l : Leg) : State :=
  let s := s.failLeg l
  let s := if l.engine = 58 then
      s.modKv fun k => { k with pieces := k.pieces.map fun p => if p.id == l.move then { p with leg := false, lost := true } else p }
    else s
  ((s.revokeEnd l.obj).pumpLegs).pumpAll

/-! ### The walker's pieces (R140, R342, R351, R352) -/

/-- The bytes of a piece at its page, and the offsets of its poisoned lines there (R317). -/
def pieceRead (s : State) (p : PieceMove) : Option (List Byte × List Nat) :=
  match s.pageAt p.slot p.layer p.firstPos with
  | none => none
  | some e =>
    let h := s.runningHdr p.span
    let n := 16 * s.halfBytes p.span h
    let off := e.frame * s.frameBytes p.span h + s.pieceOff p.span h p.piece
    let o := if e.tier = 1 then (s.slot p.slot).pageObj - 1 else (SMap.get {} (s.span p.span).pools e.pool).obj
    let bad := s.objPoison o off n
    some (if e.tier = 1 then s.objRead o off n else readBytes 0 s.tier.dram ((s.obj o).e.addr + off) n, bad)

/-- The T1 address of a piece's first byte; `none` for a page in T3. -/
def pieceAddr (s : State) (p : PieceMove) : Option Nat :=
  (s.pageAt p.slot p.layer p.firstPos).bind fun e =>
    if e.tier = 1 then none
    else some ((s.obj (SMap.get {} (s.span p.span).pools e.pool).obj).e.addr + e.frame * s.frameBytes p.span (s.runningHdr p.span) +
      s.pieceOff p.span (s.runningHdr p.span) p.piece)

/-- A piece as the cell holds it, decoded from G8M where the page is coded (R342), and the coding errors met (R67). -/
def pieceData (coded : Bool) (l : List Byte) : List Byte × Nat :=
  if !coded then (l, 0)
  else
    let bs := (List.range 32).map fun i => gustDecode 3 (slice l (i * 25) 25)
    (pack 0x3 (bs.flatMap (·.1)), (bs.filter (·.2)).length)

/-- A request whose page was read with poison ends with LOST at the next boundary, and the span repeats the step without it (R351). -/
def losePage (s : State) (sp i l : Nat) : State :=
  (((s.wr Fld.kvwStatus_poison 1).kvError 2 sp i l).modSpan sp fun x =>
    { x with forced := x.forced ++ [{ slot := i, reason := 9, status := 0x52 }] }).repeatStep sp

/-- A walker's move completes (R136, R137, R342): with 0x11 where its page object is lost (R352); with 0x02 where the page's lines were poisoned,
and then its request ends and the span repeats the step (R351). -/
def completePiece (s : State) (p : PieceMove) : State :=
  let who := pieceIdent p.span p.early
  let s := s.modKv fun k => { k with pieces := k.pieces.filter fun x => !(x.id == p.id) }
  match (if p.lost then none else s.pieceRead p) with
  | none => (s.descError who 0 0x11).pumpAll
  | some (l, bad) =>
    let (out, _) := pieceData ((s.pageAt p.slot p.layer p.firstPos).any (·.coded)) l
    let ks := if bad.isEmpty then [] else p.view.lineKeys p.off out.length
    let s := s.bring p.cell { view := p.view, off := p.off, bytes := out, poison := ks, told := true }
    let s := if bad.isEmpty then s else s.losePage p.span p.slot p.layer
    (s.signal who p.latch 1).pumpAll

/-- The walkers' moves to cell `n`. -/
def piecesTo (s : State) (n : Nat) : List PieceMove := s.kv.pieces.filter fun p => p.cell == n

end State

/-- MOVE, opcode 0x20 (R139), or a descriptor that steward firmware or a step sequencer pushes to the tier engine (R142). -/
def execMove (n : CellId) (c : MoveCmd) (s : State) : Out :=
  match c.pushed with
  | none => .next (s.moveInst n c.word c.errs)
  | some (who, d) =>
    if (0x10 ≤ who.toNat ∧ who.toNat ≤ 0x17) ∨ (0x30 ≤ who.toNat ∧ who.toNat ≤ 0x37) then .next (s.pushMove who.toNat d) else .next s

/-- A flit fails its CRC and is replayed (R129); the sixteenth replay in a row takes the link down, a fault that keystone answers with a
module reset (R475). The link is named by its router and direction (log entry 70). -/
def execFlitCrcFail (n : CellId) (dir : Fin 5) (s : State) : Out :=
  let k := n.val * 5 + dir.val
  let c := SMap.get 0 s.meshRetry k + 1
  let s := (s.bump Fld.mshLinkRetry_count).wr Fld.mshStatus_linkRetry 1
  let s : State := { s with meshRetry := SMap.put 0 s.meshRetry k c }
  if c < 16 || s.flag Fld.mshStatus_linkDown then .next s
  else .next (((s.wr Fld.mshStatus_linkDown 1).keyFault 0x06 0 k).requestReset .meshLink)

end Sys2Proof.Machine
end

