-- ==== Sys2Proof/Machine/Items.lean ====
section
/-!
DEFINITION. Context slots, items and the ends of requests (09, R251 to R254, R259, R270, R271; 10, R297 to R302; 14, R439 to R442; 01, R26).
-/
namespace Sys2Proof.Machine

/-- Slot states of R253. -/
def slPrefill : Nat := 1
/-- DECODE. -/
def slDecode : Nat := 2
/-- RUNOUT. -/
def slRunout : Nat := 3
/-- PARKED. -/
def slParked : Nat := 4
/-- ENDING. -/
def slEnding : Nat := 5

/-- A duration between two times in phase units, in the 4-byte form of R253; it holds at its greatest value. -/
def duration (from_ to_ : Nat) : Nat := min (2 ^ 32 - 1) (to_ - from_)

/-- The first instant at phase `phi` that lies at or after `t` (R301). -/
def phiFrom (phi t : Nat) : Nat := if t % 65536 ≤ phi then t / 65536 * 65536 + phi else (t / 65536 + 1) * 65536 + phi

namespace Params

/-- KEEP. -/
def keep (p : Params) : Bool := p.flags.testBit 0
/-- MORE. -/
def more (p : Params) : Bool := p.flags.testBit 1
/-- TOKENS. -/
def tokenIds (p : Params) : Bool := p.flags.testBit 2
/-- SPECIALS. -/
def specials (p : Params) : Bool := p.flags.testBit 3
/-- The TBT bound of an INTERACTIVE request, in phase units (R296). -/
def tbtBound (p : Params) : Nat := p.bounds % 2 ^ 32
/-- The TTFT bound, or a PACED request's first-release lead (R296); a BULK request's soft TTFT stands in the low half. -/
def ttftBound (p : Params) : Nat := p.bounds / 2 ^ 32
/-- Tokens per period of a PACED request. -/
def perPeriod (p : Params) : Nat := p.bounds % 65536
/-- Phase point of a PACED request. -/
def phi (p : Params) : Nat := p.bounds / 65536 % 65536
/-- The mask object, when a mask is in use (R253). -/
def mask (p : Params) : Option Nat := if p.maskObj.testBit 31 then some (p.maskObj % 2 ^ 17) else none
/-- The bound of the histogram (R298). -/
def gapBound (p : Params) : Nat := if p.cls = 0 then p.tbtBound else 65536

end Params

namespace Slot

/-- The cancelled flag. -/
def cancelled (x : Slot) : Bool := x.xflags.testBit 12
/-- Whether its guarantee is withdrawn. -/
def shed (x : Slot) : Bool := x.xflags.testBit 11
/-- A flag bit set. -/
def setFlag (x : Slot) (b : Nat) : Slot := { x with xflags := x.xflags ||| 2 ^ b }
/-- Whether the slot is in PREFILL, DECODE or RUNOUT. -/
def running (x : Slot) : Bool := x.st == slPrefill || x.st == slDecode || x.st == slRunout

/-- A gap counted in its bucket (R298). -/
def bucket (x : Slot) (gap : Nat) : Slot :=
  let b := x.par.gapBound
  let k := ([1, 2, 3, 4, 5, 6, 8].filter fun q => q * b ≤ 4 * gap).length
  { x with hist := modAt (fun n => min 0xFFFF (n + 1)) k x.hist }

/-- The times of an item that becomes visible at `t` (R297 to R299): the turn's TTFT, or a gap. -/
def noteItem (x : Slot) (t : Nat) : Slot :=
  if !x.gotItem then { x with ttft := duration x.tReceipt t, gotItem := true, tLast := t }
  else
    let g := duration x.tLast t
    let late := x.par.cls == 0 && decide (x.par.tbtBound < g)
    { x with tbtMax := max x.tbtMax g, tbtOver := min (2 ^ 32 - 1) (x.tbtOver + b2n late), tLast := t }.bucket g

/-- The bytes of an item (R440), `num` its number. -/
def itemBytes (x : Slot) (i : Nat) (h : HeldItem) (num t : Nat) : List Byte :=
  let gap := List.replicate ((4 - h.text.length % 4) % 4) 0
  let body := h.text ++ (if x.par.tokenIds then gap ++ h.tokens.flatMap (leBytes 4) else [])
  let first := cdiv (0x20 + body.length) 64
  let last := h.kind != 0x10
  let flags := b2n x.par.tokenIds + b2n x.shed * 4 + b2n (x.par.cls == 1) * 8
  let hdr := leBytes 1 h.kind ++ leBytes 1 (if h.kind = 0x11 then x.endStatus else 0) ++ leBytes 1 (first + b2n last) ++ leBytes 1 flags ++
    leBytes 2 i ++ leBytes 2 x.gen ++ leBytes 2 x.tag ++ leBytes 2 h.text.length ++ leBytes 1 h.tokens.length ++
    leBytes 1 (x.par.cls + 1) ++ leBytes 2 0 ++ leBytes 4 num ++ leBytes 4 h.first ++ leBytes 8 (t % 2 ^ 48)
  let trailer := leBytes 1 x.endReason ++ leBytes 1 x.endStatus ++ leBytes 2 0 ++ leBytes 4 x.generated ++ leBytes 4 x.ttft ++
    leBytes 4 x.tbtMax ++ leBytes 4 x.tbtOver ++ leBytes 4 x.itemsDrop ++ leBytes 4 x.draftProp ++ leBytes 4 x.draftAcc ++
    x.hist.flatMap (leBytes 2) ++ leBytes 4 x.itemsSent ++ leBytes 12 0
  slice (hdr ++ body) 0 (first * 64) ++ (if last then trailer else [])

/-- The 256 bytes of a slot (R253); `kvPages` counts the pages it holds. -/
def encode (x : Slot) (kvPages : Nat) : List Byte :=
  let p := x.par
  leBytes 1 x.st ++ leBytes 1 x.ident ++ leBytes 1 x.span ++ leBytes 1 p.cls ++ leBytes 2 x.tag ++ leBytes 2 x.gen ++
  leBytes 4 (p.flags ||| x.xflags) ++ leBytes 4 x.modelGen ++ leBytes 2 p.adapter ++ leBytes 2 x.adVer ++ leBytes 4 p.maskObj ++
  leBytes 2 x.maskState ++ leBytes 1 p.draftLen ++ leBytes 1 x.endReason ++ leBytes 1 x.endStatus ++ leBytes 1 0 ++ leBytes 2 p.repWindow ++
  leBytes 4 p.temp.toNat ++ leBytes 4 p.topP.toNat ++ leBytes 4 p.minP.toNat ++ leBytes 4 p.repPen.toNat ++
  leBytes 2 p.topK ++ leBytes 2 p.minNew ++ leBytes 4 p.seed ++ leBytes 4 p.maxNew ++ leBytes 4 x.promptLen ++ p.stop.flatMap (leBytes 4) ++
  leBytes 4 x.positions ++ leBytes 4 x.generated ++ leBytes 4 kvPages ++ leBytes 4 p.kvBudget ++ leBytes 8 x.pageRoot ++
  leBytes 8 (x.tReceipt % 2 ^ 48) ++ leBytes 8 (x.tAdmit % 2 ^ 48) ++ leBytes 8 (x.tLast % 2 ^ 48) ++ leBytes 8 p.bounds ++
  leBytes 4 x.ttft ++ leBytes 4 x.tbtMax ++ leBytes 4 x.tbtOver ++ leBytes 2 p.admWait ++ leBytes 2 p.parkLimit ++
  x.hist.flatMap (leBytes 2) ++ leBytes 4 x.itemsSent ++ leBytes 4 x.itemsDrop ++ leBytes 4 x.nanCount ++ leBytes 4 x.draftProp ++
  leBytes 4 x.draftAcc ++ leBytes 4 x.turnGen ++ leBytes 48 0

/-- Tokens generated and not yet released (R262). -/
def unreleased (x : Slot) : Nat := (x.held.map (·.tokens.length)).sum

/-- The instant of the next release of a PACED request (R301, R302): the first phase point at least the lead after the turn's receipt,
then that of every period; and the first one after a final or TURN_END item was produced. -/
def releaseDue (x : Slot) : Option Nat :=
  let phi := x.par.phi
  let ends := (x.held.find? fun h => h.kind != 0x10).map fun h => phiFrom phi (h.made + 1)
  let next := if x.released then some (phiFrom phi (x.relAt + 1))
    else if x.running then some (phiFrom phi (x.tReceipt + x.par.ttftBound)) else none
  match ends, next with
  | some a, some b => some (min a b)
  | some a, none => some a
  | none, b => b

/-- How many of the held items a release at `d` lets go, oldest first (R301, R302). -/
def releaseCount (x : Slot) (d : Nat) : Nat :=
  let ready := x.held.takeWhile fun h => h.made ≤ d
  if ready.any fun h => h.kind != 0x10 then ready.length
  else
    let n := ((List.range (ready.length + 1)).filter fun k =>
      ((ready.take k).map (·.tokens.length)).sum ≤ x.par.perPeriod).foldl max 0
    if n = 0 then min 1 ready.length else n

end Slot

/-! ### Text (R26, R257, R259) -/

/-- Bytes of the UTF-8 sequence that a lead byte begins; 1 for any other byte. -/
def utf8Len (b : Nat) : Nat :=
  if 0xC2 ≤ b ∧ b ≤ 0xDF then 2 else if 0xE0 ≤ b ∧ b ≤ 0xEF then 3 else if 0xF0 ≤ b ∧ b ≤ 0xF4 then 4 else 1

/-- Whether byte `b` may continue the held bytes of a sequence. -/
def utf8Continues (held : List Byte) (b : Nat) : Bool :=
  let lead := byteAt held 0
  if held.length = 1 then
    if lead = 0xE0 then 0xA0 ≤ b && b ≤ 0xBF else if lead = 0xED then 0x80 ≤ b && b ≤ 0x9F
    else if lead = 0xF0 then 0x90 ≤ b && b ≤ 0xBF else if lead = 0xF4 then 0x80 ≤ b && b ≤ 0x8F else 0x80 ≤ b && b ≤ 0xBF
  else 0x80 ≤ b && b ≤ 0xBF

/-- U+FFFD. -/
def replacement : List Byte := [0xEF, 0xBF, 0xBD]

/-- One byte of text taken after held bytes: text out, bytes held, and whether U+FFFD was put in (R26). -/
def utf8Step (st : List Byte × List Byte × Bool) (b : Byte) : List Byte × List Byte × Bool :=
  let (out, held, bad) := st
  let start := fun (out : List Byte) (bad : Bool) =>
    if utf8Len b.toNat = 1 then (out ++ [b], ([] : List Byte), bad) else (out, [b], bad)
  if held.isEmpty then start out bad
  else if utf8Continues held b.toNat then
    if held.length + 1 = utf8Len (byteAt held 0) then (out ++ held ++ [b], [], bad) else (out, held ++ [b], bad)
  else start (out ++ replacement) true

/-- The bytes of a token as the text unit makes them (R259): none for EOS, for stop tokens, and for special tokens unless SPECIALS. -/
def tokenText (t : Tokenizer) (p : Params) (x : Nat) : List Byte :=
  if x = t.eos ∨ p.stop.contains x ∨ (t.specials.contains x ∧ !p.specials) then [] else t.texts.getD x []

namespace State

/-- Numbers of the slots of a span that are not FREE. -/
def spanSlots (s : State) (sp : Nat) : List Nat := (s.slots.filter fun e => e.2.st != 0 && e.2.span == sp).map (·.1)

/-- One item of slot `i` enqueued at time `t`, or dropped for a cancelled request (R440, R442). The slot's record is handed through. -/
def emit (s : State) (i : Nat) (x : Slot) (h : HeldItem) (t : Nat) : Slot × State :=
  if h.kind = 0x10 ∧ x.cancelled then ({ x with itemsDrop := x.itemsDrop + 1 }, s.bump Fld.srvDropCnt_count)
  else
    let num := x.itemsSent
    let x := { x.noteItem t with itemsSent := num + 1 }
    (x, s.enqueue (x.ident - 1) (x.queue + 2) (x.par.cls + 1) (x.itemBytes i h num t) (some (i, x.gen)) 0 false)

/-- An item of slot `i` produced now: held when the request is PACED (R301), else enqueued. -/
def produce (s : State) (i kind : Nat) (text : List Byte) (tokens : List Nat) (first : Nat) : State :=
  let h : HeldItem := { kind, text, tokens, first, made := s.cadNow }
  if (s.slot i).par.cls = 1 then s.modSlot i fun x => { x with held := x.held ++ [h] }
  else
    let r := s.emit i (s.slot i) h s.cadNow
    r.2.modSlot i fun _ => r.1

/-- Whether an item of slot `i` stands outside a head that has no slot for it (R446). -/
def lateItems (s : State) (i : Nat) (x : Slot) : Bool :=
  let q := s.queue (x.ident - 1) (x.queue + 2)
  q.outside.any fun e => e.share == some (i, x.gen) && (q.room e).isNone

/-- The release of a PACED request's items at `d` (R301, R302): its record after it. A release that a full head makes late counts as a
shortfall does (R446). -/
def releaseAt (s : State) (i : Nat) (x : Slot) (d : Nat) : Slot × State :=
  let n := x.releaseCount d
  let out := x.held.take n
  let r := out.foldl (fun a h => a.2.emit i a.1 h d) ({ x with held := x.held.drop n }, s)
  let ended := out.any fun h => h.kind != 0x10
  let short := decide ((out.map (·.tokens.length)).sum < x.par.perPeriod) || r.2.lateItems i x
  ({ r.1 with released := !ended, relAt := d, tbtOver := min (2 ^ 32 - 1) (r.1.tbtOver + b2n (!ended && x.running && short)) }, r.2)

/-- Items of a request that are held or unread (R307). -/
def itemsOut (s : State) (i : Nat) : Nat :=
  let x := s.slot i
  x.held.length + s.shares (x.ident - 1) (x.queue + 2) i x.gen

/-- Text and held bytes of slot `i` after the tokens of one step; `whole` ends the turn, so that an incomplete sequence becomes U+FFFD
(R26). -/
def detok (s : State) (i : Nat) (tok : Tokenizer) (tokens : List Nat) (whole : Bool) : List Byte × State :=
  let x := s.slot i
  let (out, held, bad) := (tokens.flatMap (tokenText tok x.par)).foldl utf8Step ([], x.utf8, false)
  let cut := whole && !held.isEmpty
  (if cut then out ++ replacement else out,
    s.modSlot i fun x => { (if bad || cut then x.setFlag 9 else x) with utf8 := if whole then [] else held })

/-- The request of slot `i` ends (R270, R271): reason and status, those of a cancel when its cancelled flag is set; its final item carries
the text and the tokens given. -/
def endSlot (s : State) (i reason status : Nat) (tokens : List Nat) (first : Nat) : State :=
  let c := (s.slot i).cancelled
  let s := s.modSlot i fun x =>
    { x with st := slEnding, endReason := if c then 5 else reason, endStatus := if c then 0x0E else status, finalDue := false,
             endDue := false }
  let (text, s) := s.detok i (((s.copyOf i).map (·.tok)).getD default) tokens true
  s.produce i 0x11 text tokens first

/-- A request that ends from outside its steps (R254): it turns ENDING, and its final item follows at the next step boundary. -/
def markEnding (s : State) (i reason status : Nat) : State :=
  if (s.slot i).st = slEnding ∨ (s.slot i).st = 0 then s
  else s.modSlot i fun x => { x with st := slEnding, endReason := reason, endStatus := status, finalDue := true }

/-- A staged turn that ends without being admitted: the FINAL reply of its REQ_APPEND, if that is still owed. -/
def dropTurn (s : State) (i status : Nat) : State :=
  match (s.slot i).turn with
  | none => s
  | some t =>
    let s := s.modSlot i fun x => { x with turn := none }
    if t.ended && !t.ready then s.fin t.who status else s

/-- A cancel of slot `i` (R279): `free` is FREE_AT_STEP. What turns ENDING does so at the next step boundary, and takes no token of the step in
progress; a request that already waits for that does not change. -/
def cancelSlot (s : State) (i : Nat) (free : Bool) : State :=
  let x := s.slot i
  if x.endDue then s
  else if x.st = slParked then (s.dropTurn i 0x0E).modSlot i fun x => { x.setFlag 12 with endDue := true }
  else if x.st = slPrefill ∨ x.st = slDecode then
    s.modSlot i fun x => if free then { x.setFlag 12 with endDue := true } else { x.setFlag 12 with st := slRunout }
  else s

end State

/-- A release of held items at phase point φ (R301, R302): due in the current period at the latest, and made visible at φ. The items of a
request that has left its slot go first. -/
def execPacedRelease (i : Fin 4096) (s : State) : Out :=
  match s.leaving.find? fun e => e.1 == i.val with
  | some (_, x) =>
    match x.releaseDue with
    | some d =>
      if s.periods < d / 65536 then .next s
      else
        let s := s.atCadence d
        let r := s.releaseAt i x d
        .next { r.2 with leaving := if r.1.held.isEmpty then r.2.leaving.erase (i.val, x)
                                    else r.2.leaving.map fun e => if e = (i.val, x) then (i.val, r.1) else e }
    | none => .next s
  | none =>
    let x := s.slot i
    match (if x.par.cls = 1 ∧ x.st ≠ 0 then x.releaseDue else none) with
    | some d =>
      if s.periods < d / 65536 then .next s
      else
        let s := s.atCadence d
        let r := s.releaseAt i x d
        .next (r.2.modSlot i fun _ => r.1)
    | none => .next s

end Sys2Proof.Machine
end

