-- ==== Sys2Proof/Machine/Vector.lean ====
section
/-!
DEFINITION. The vector unit (03, R94 to R96, R528; R46 to R51). The source gives vector instructions no bit layout, so an instruction
stands here as its operation, handles, length, rounding and scalar (log entry 18).
-/
namespace Sys2Proof.Machine

/-- A pairwise tree over 64 lane results (R95): `n` halvings. -/
def pairTree (f : F32 → F32 → F32) : Nat → List F32 → List F32
  | 0, l => l
  | n + 1, l =>
    pairTree f n ((List.range (l.length / 2)).map fun i => f (l.getD (2 * i) 0) (l.getD (2 * i + 1) 0))

/-- A reduction in the fixed order of R95: element i lies in lane i mod 64; a lane with no element contributes the identity. -/
def reduceF32 (f : F32 → F32 → F32) (unit : F32) (l : List F32) : F32 :=
  let lanes := (List.range 64).map fun k => match (l.zipIdx.filter fun e => e.2 % 64 == k).map (·.1) with
    | [] => unit
    | x :: r => r.foldl f x
  (pairTree f 6 lanes).getD 0 unit

/-- The running sums of the prefix-sum helper (R95): s₀ = p₀. -/
def runningSums : List F32 → List F32
  | [] => []
  | x :: r => x :: go x r
where
  go (acc : F32) : List F32 → List F32
    | [] => []
    | y :: r => addF32 .rne acc y :: go (addF32 .rne acc y) r

/-- The best of a list of (index, value): the largest value, ties to the lower index; a NaN is never chosen. -/
def bestOf : List (Nat × F32) → Option (Nat × F32)
  | [] => none
  | x :: r =>
    match bestOf r with
    | none => if isNaN32 x.2 then none else some x
    | some y => if isNaN32 x.2 || ltF32 x.2 y.2 then some y else some x

/-- Top-k selection (R96): k entries in falling order, ties by ascending index. -/
def topK : Nat → List (Nat × F32) → List (Nat × F32)
  | 0, _ => []
  | k + 1, l =>
    match bestOf l with
    | none => []
    | some x => x :: topK k (l.filter fun y => !(y.1 == x.1))

/-- The uniform value of an output of the generator: bits [31:8] × 2⁻²⁴ (R268). -/
def uniform (x : BitVec 32) : F32 := packF32 .rne (.fin false (bits x 31 8) (-24))

/-- The repetition penalty of one value (R267). -/
def penalise (pen x : F32) : F32 := if ltF32 0 x then divF32 .rne x pen else mulF32 .rne x pen

end Sys2Proof.Machine

namespace Sys2Proof
open Sys2Proof.Machine

/-- Source handles of an operation. -/
def VectorInst.sources (v : VectorInst) : List Nat :=
  match v.op with
  | .add | .mul | .div | .min | .max | .cmpLt => [v.h0, v.h1]
  | .fma | .select => [v.h0, v.h1, v.h2]
  | .draw => []
  | _ => [v.h0]

/-- Whether an operation is a reduction to one element (R94). -/
def VectorOp.reduces : VectorOp → Bool
  | .sum | .maximum | .logSumExp => true
  | _ => false

/-- Whether an operation writes vocabulary indices, which take no format conversion. -/
def VectorOp.makesIndices : VectorOp → Bool
  | .topK _ => true
  | _ => false

/-- Elements that an operation writes. -/
def VectorInst.outLen (v : VectorInst) : Nat :=
  match v.op with
  | .sum | .maximum | .logSumExp | .draw => 1
  | .topK k => min k v.len
  | .pageMass _ _ _ _ _ => cdiv v.len 16
  | _ => v.len

end Sys2Proof

namespace Sys2Proof.Machine

/-- The sums of consecutive groups of 16 elements, each in ascending order (R343). -/
def pageSums (l : List F32) : List F32 := (List.range (cdiv l.length 16)).map fun i => State.sumInOrder ((l.drop (16 * i)).take 16)

/-- The results of an operation on its source vectors, as FP32 patterns; `u` is the output that a draw takes, `keys` what an attention row
does with each key (R335). Compare tests a < b and writes 1.0 or +0 (log entry 18). -/
def vectorResult (v : VectorInst) (r : Rounding) (a b c : List F32) (u : BitVec 32) (keys : List KeyOutcome) : List F32 :=
  match v.op with
  | .add => List.zipWith (addF32 r) a b
  | .mul => List.zipWith (mulF32 r) a b
  | .fma => List.zipWith (fun p z => fmaF32 r p.1 p.2 z) (List.zip a b) c
  | .div => List.zipWith (divF32 r) a b
  | .min => List.zipWith minF32 a b
  | .max => List.zipWith maxF32 a b
  | .cmpLt => List.zipWith (fun x y => if ltF32 x y then 0x3F800000 else 0) a b
  | .select => List.zipWith (fun x p => if x &&& 0x7FFFFFFF = 0 then p.2 else p.1) a (List.zip b c)
  | .exp2 => a.map exp2F32
  | .exp => a.map expF32
  | .recip => a.map recipF32
  | .rsqrt => a.map rsqrtF32
  | .sum => [reduceF32 (addF32 .rne) 0 a]
  | .maximum => [reduceF32 maxF32 negInf a]
  | .logSumExp => [reduceF32 lseF32 negInf a]
  | .convert => a
  | .temperature => a.map fun x => divF32 .rne x v.param
  | .repetition => a.zipIdx.map fun e => if v.list.contains e.2 then penalise v.param e.1 else e.1
  | .topK k => ((topK k (a.zipIdx.map fun e => (e.2, e.1))).map fun e => BitVec.ofNat 32 e.1)
  | .prefixSum => runningSums a
  | .draw => [uniform u]
  | .attnMask _ _ _ => List.zipWith (fun x k => if k = .attended then x else negInf) a keys
  | .pageMass _ _ _ _ _ => pageSums a

namespace State

/-- A source view of the vector unit: pool, activation buffer or partial-sum buffer, plain, in a format that its operand read converts,
and long enough (R49, R104, R110). -/
def vectorSource (s : State) (n h len : Nat) : Option View :=
  match s.resolve n (h % 64) with
  | some v =>
    if (v.mem == 0 || v.mem == 4 || v.mem == 5) && !v.mx && v.gust == 0 && convOk .vectorRead v.fmt 0 .rne &&
        v.holds 0 (plainBytes v.fmt len) then some v else none
  | none => none

/-- A destination view of the vector unit: pool or activation buffer, writable, in a format that its write converts to. -/
def vectorDest (s : State) (n h len : Nat) (r : Rounding) : Option View :=
  match s.resolve n (h % 64) with
  | some v =>
    if (v.mem == 0 || v.mem == 4) && v.writable && !v.mx && convOk .vectorWrite 0 v.fmt r && v.holds 0 (plainBytes v.fmt len) then some v
    else none
  | none => none

/-- Elements of a source as FP32 (exact, R49). A racing read of a move, or a claimed partial sum, is left to the bytes that are read. -/
def vectorRead (s : State) (n : Nat) (v : View) (len : Nat) : List F32 × State :=
  let (l, s) := s.readView n v 0 (plainBytes v.fmt len)
  ((unpack v.fmt len l).map fun raw => packF32 .rne (decodeElem v.fmt raw), s)

/-- What an attention row does with the keys of a mask instruction of cell `n` (R335). -/
def vectorKeys (s : State) (n : Nat) (v : VectorInst) : List KeyOutcome :=
  match v.op with
  | .attnMask row layer page => s.rowKeys (s.cellSpan n) row layer page v.len
  | _ => []

/-- What a page-mass instruction of cell `n` sends to the walker of its span (R343). -/
def sendMasses (s : State) (n : Nat) (v : VectorInst) (sums : List F32) : State :=
  match v.op with
  | .pageMass row layer kvHead qHead page => s.holdMasses (s.cellSpan n) row layer kvHead qHead page sums
  | _ => s

/-- The uncorrectable word that a vector instruction meets (R119, R120): a poisoned line of a source, or the first of the errors of its
reads, whose operands are numbered as its sources. -/
def vectorUe (s : State) (n : Nat) (v : VectorInst) (vs : List View) (errs : ReadErrs) : Option (Nat × Nat × Option Nat) :=
  match (vs.filterMap fun x => (s.cell n).poisoned x 0 (plainBytes x.fmt v.len)).head? with
  | some key => some (key, 0, none)
  | none => (errs.bad.filterMap fun (k, line, word, syn) => (vs[k]?).bind fun x =>
      if line * 64 < plainBytes x.fmt v.len then some (x.key (line * 64) / 64, word, some syn) else none).head?

/-- A vector instruction whose checks have passed: its sources read, its results written to view `d` (R94). -/
def vectorRun (s : State) (n : Nat) (v : VectorInst) (r : Rounding) (vs : List View) (d : View) : State :=
  let rd := fun (i : Nat) (s : State) => match vs[i]? with
    | some x => s.vectorRead n x v.len
    | none => ([], s)
  let keys := s.vectorKeys n v
  let (a, s) := rd 0 s
  let (b, s) := rd 1 s
  let (c, s) := rd 2 s
  let u := xorshift (s.cell n).rng
  let s := if v.op = .draw then s.modCell n fun c => { c with rng := u } else s
  let res := vectorResult v r a b c u keys
  let plain := v.op.makesIndices || d.fmt = 0
  let dr := draws (if plain then .rne else r) res.length (s.cell n).rng
  let raw : List (Nat × Bool) :=
    if plain then res.map fun (x : F32) => (x.toNat, false)
    else List.zipWith (fun x k => encodeElem d.fmt r v.sat k (numF32 x)) res dr.1
  let s := s.modCell n fun c => { (c.store d 0 (pack d.fmt (raw.map (·.1)))) with rng := dr.2 }
  (onlyIf (raw.any (·.2)) (fun s => s.wr Fld.celFlags_fmtErr 1 n) s).sendMasses n v res

/-- A vector instruction (R94, R110). A length, *k* or rounding that the operation does not take has cause 0x02 (log entry 89). -/
def vector (s : State) (n : Nat) (v : VectorInst) (errs : ReadErrs) : State :=
  s.issue n fun s =>
    let arith := match v.op with
      | .add | .mul | .fma | .div => true
      | _ => false
    let kBad := match v.op with
      | .topK k => 256 < k
      | _ => false
    match rndOf v.rnd with
    | none => s.illegal n (s.pc n) 0x02
    | some r =>
      if (arith && r == .sr) || kBad || (v.op.reduces && 262144 < v.len) then s.illegal n (s.pc n) 0x02
      else if hazard (s.cell n).jobs (v.sources.map (· % 64)) [v.hd % 64] then s
      else if errs.parity.any ((v.sources.map (· % 64) ++ [v.hd % 64]).contains) then (s.illegal n (s.pc n) 0x06).handleParity n
      else
        let src : List (Option View) := v.sources.map fun h => s.vectorSource n h v.len
        match src.all Option.isSome, s.vectorDest n v.hd v.outLen r with
        | true, some d =>
          let vs := src.filterMap id
          let s := s.corrected n errs.corrected
          match s.vectorUe n v vs errs with
          | some e => (s.advance n).readFault n e
          | none => (s.vectorRun n v r vs d).advance n
        | _, _ => s.illegal n (s.pc n) 0x06

end State

/-- VECTOR_INSTRUCTION (R94 to R96). -/
def execVectorInstruction (n : CellId) (c : VectorCmd) (s : State) : Out := .next (s.vector n c.inst c.errs)

end Sys2Proof.Machine
end

