-- ==== Sys2Proof/Machine/Sampling.lean ====
section
/-!
DEFINITION. Sampling of one row and grammar masks (09, R267 to R269, R272 to R275).
-/
namespace Sys2Proof.Machine

/-- What sampling of one row uses (R267): history of prompt and output, token index, tokens of the turn, EOS, and the mask's bitmap. -/
structure SampleEnv where
  par     : Params
  history : List Nat
  index   : Nat
  turnGen : Nat
  eos     : Nat
  allowed : Option (Nat → Bool)

/-- The sampling cell's generator after draw(t) (R268, R529): seeded with seed ⊕ (t × 2,654,435,761), and advanced once. -/
def drawState (seed t : Nat) : BitVec 32 := xorshift (seedRng (BitVec.ofNat 32 (seed ^^^ (t * 2654435761 % 2 ^ 32))))

/-- draw(t) (R268): the first output after that seeding, as a value from 0 to 1 − 2⁻²⁴. -/
def drawAt (seed t : Nat) : F32 := uniform (drawState seed t)

/-- The logits after penalties, mask and the minimum length (R267). -/
def shapeLogits (e : SampleEnv) (logits : List F32) : List F32 :=
  let l := logits.map fun x => if isNaN32 x then negInf else x
  let recent := e.history.drop (e.history.length - e.par.repWindow)
  let l := l.mapIdx fun i x => if recent.contains i then penalise e.par.repPen x else x
  let l := match e.allowed with
    | some ok => l.mapIdx fun i x => if ok i then x else negInf
    | none => l
  if e.turnGen < e.par.minNew then l.mapIdx fun i x => if i = e.eos || e.par.stop.contains i then negInf else x else l

/-- Candidates with a finite value, in falling order, ties by ascending index. -/
def candidates (k : Nat) (l : List F32) : List (Nat × F32) := topK k ((l.mapIdx fun i x => (i, x)).filter fun p => isFin32 p.2)

/-- The token that sampling of one row returns; `none` is NO_TOKEN (R267). -/
def sampleToken (e : SampleEnv) (logits : List F32) : Option Nat :=
  let l := shapeLogits e logits
  if !ltF32 0 e.par.temp then ((candidates 1 l).head?).map (·.1)
  else
    let l := l.map fun x => divF32 .rne x e.par.temp
    match candidates (if e.par.topK = 0 then 256 else e.par.topK) l with
    | [] => none
    | (i0, x0) :: rest =>
      let p := (i0, (0x3F800000 : F32)) :: rest.map fun c => (c.1, expF32 (subF32 .rne c.2 x0))
      let kept := p.filter fun c => !ltF32 c.2 e.par.minP
      let s := runningSums (kept.map (·.2))
      let need := mulF32 .rne e.par.topP (s.getLastD 0)
      let n := match s.findIdx? fun x => !ltF32 x need with
        | some j => j + 1
        | none => s.length
      let s := s.take n
      let u := mulF32 .rne (drawAt e.par.seed e.index) (s.getLastD 0)
      let j := match s.findIdx? fun x => ltF32 u x with
        | some j => j
        | none => n - 1
      (kept[j]?).map (·.1)

/-- Whether sampling of one row takes a draw: it is not greedy, and it has a candidate (R268). -/
def takesDraw (e : SampleEnv) (logits : List F32) : Bool :=
  ltF32 0 e.par.temp && (sampleToken e logits).isSome

/-- NaN logits of one row. -/
def nanLogits (logits : List F32) : Nat := (logits.filter isNaN32).length

/-! ### Grammar masks (R272) -/

/-- The transition of token `x` among `n` entries from byte `off`, by binary search over entries `lo` to `hi` − 1 (R273). -/
def maskSearch (word : Nat → Nat) (x : Nat) : Nat → Nat → Nat → Option Nat
  | 0, _, _ => none
  | fuel + 1, lo, hi =>
    if hi ≤ lo then none
    else
      let m := (lo + hi) / 2
      if word (2 * m) = x then some (word (2 * m + 1))
      else if word (2 * m) < x then maskSearch word x fuel (m + 1) hi else maskSearch word x fuel lo m

namespace State

/-- A little-endian field of an object. -/
def objField (s : State) (o off n : Nat) : Nat := ofLe (s.objRead o off n)

/-- States of a mask object. -/
def maskStates (s : State) (o : Nat) : Nat := s.objField o 12 4
/-- Byte offset of state `q` of a mask object. -/
def maskAt (s : State) (o q : Nat) : Nat := s.objField o 24 8 + 16 * q

/-- Whether token `i` is admissible in state `q` (R272); a state or map outside the object's counts admits none. -/
def maskAllows (s : State) (o q i : Nat) : Bool :=
  let map := s.objField o (s.maskAt o q) 2
  q < s.maskStates o && map < s.objField o 16 4 &&
    (s.objField o (s.objField o 40 8 + map * (cdiv (s.objField o 8 4) 512 * 64) + i / 8) 1).testBit (i % 8)

/-- Whether state `q` is FINAL. -/
def maskFinal (s : State) (o q : Nat) : Bool := (s.objField o (s.maskAt o q + 2) 2).testBit 0

/-- The next state for token `x` (R273): the listed one, or the default; `none` is MASK_ERR. -/
def maskNext (s : State) (o q x : Nat) : Option Nat :=
  if s.maskStates o ≤ q then none
  else
    let a := s.maskAt o q
    let first := s.objField o (a + 4) 4
    let n := s.objField o (a + 8) 4
    let base := s.objField o 32 8
    let nxt := match maskSearch (fun k => s.objField o (base + 8 * first + 4 * k) 4) x 33 0 n with
      | some y => some y
      | none => if s.objField o (a + 12) 4 = 0xFFFFFFFF then none else some (s.objField o (a + 12) 4)
    nxt.filter fun y => decide (y < s.maskStates o)

/-- The header checks of R275 with the rules of R272 on the object itself. -/
def maskOk (s : State) (sp o vocab : Nat) : Bool :=
  let e := (s.obj o).e
  let st := s.objField o 12 4
  let maps := s.objField o 16 4
  e.st == stResident && (e.home == 1 || e.home == 3) && !e.window && e.ro && e.grant.testBit sp &&
  s.objRead o 0 8 == ascii ['R', 'H', 'O', 'M', 'A', 'S', 'K', '1'] && s.objField o 8 4 == vocab &&
  1 ≤ st && st ≤ 65536 && 1 ≤ maps && maps ≤ 4096 && s.objField o 24 8 < e.bytes && s.objField o 32 8 < e.bytes && s.objField o 40 8 < e.bytes

end State
end Sys2Proof.Machine
end

