-- ==== Sys2Proof/Machine/Admission.lean ====
section
/-!
DEFINITION. The arithmetic of admission and shedding (10, R303 to R313). Times are whole ns, rounded up (log entry 46).
-/
namespace Sys2Proof.Machine

/-- What admission counts of one request: its parameters, the prompt positions it still needs, its elapsed time in phase units while no
token of its turn has come, whether its pages lie in T3 and with which port, whether it runs on the old copy, and its adapter version. -/
structure Load where
  par  : Params
  left : Nat
  wait : Option Nat
  t3   : Option Nat
  old  : Bool
  ver  : Option (Nat × Nat)
  deriving DecidableEq, Repr

/-- The chunk of R264 for `d` decode rows, before the limit to the positions waiting. -/
def chunkFor (chunkMax d : Nat) : Nat :=
  let c := chunkMax - (d + chunkMax) % 64
  min (if 32 ≤ c then c else chunkMax) (768 - d)

namespace State

/-- The draft length that a request runs with: 0 in a span without a draft span (R277). -/
def draftOf (s : State) (sp : Nat) (p : Params) : Nat := if (s.span sp).cfg.draft.isSome then p.draftLen else 0

/-- Slot `i` as admission counts it. -/
def loadOf (s : State) (i : Nat) : Load :=
  let x := s.slot i
  { par := x.par, left := x.todo.length, wait := if x.turnGen = 0 then some (s.cadNow - x.tReceipt) else none,
    t3 := if x.t3 then some (x.ident - 1) else none, old := x.old,
    ver := if x.par.adapter = 0xFFFF then none else some (x.par.adapter, x.adVer) }

/-- The guaranteed set of a span: requests in PREFILL, DECODE or RUNOUT with their guarantee, other than IDLE (R303, R309, R313). -/
def guaranteed (s : State) (sp : Nat) : List Nat :=
  (s.spanSlots sp).filter fun i => (s.slot i).running && !(s.slot i).shed && (s.slot i).par.cls != 3

/-- The cell clock in MHz that admission may count on: the floor of the profile, lowered by the thermal response and the sag clamp
(R304, R311, R456). -/
def floorMhz (s : State) : Nat :=
  let f := s.rd Fld.pwrProfile_floor * 10
  let f := if s.pwr.tclamp then min f (s.rd Fld.pwrProfile_clock * 10) else f
  if s.pwr.clamp then min f 400 else f

/-- Active cells of column `c`. -/
def columnCells (s : State) (c : Nat) : Nat := ((List.range 7).filter fun r => (s.rd Fld.keySpare_cells).testBit (r * 8 + c)).length

/-- DRAM bandwidth of a span in units of GB/s ÷ 8,400 (R131, R132): the shares of its cells; a channel copy takes 12.8 GB/s of its column
(R184). -/
def spanBandwidth (s : State) (sp : Nat) : Nat :=
  ((bitList (s.span sp).cfg.cells 56).map fun n =>
    let c := n % 8
    let a := max 1 (s.columnCells c)
    let col := 2048 - 128 * (s.tier.copies.filter fun x => x.2 / 2 == c).length
    col * 840 / a).sum

/-- Bytes that `n` ns of a port's rate carry, as ns for `b` bytes: 8b/10b up to 5 GT/s, 128b/130b above (R377). -/
def portNs (s : State) (p b : Nat) : Nat :=
  let lanes := match s.rd Fld.hptId_width p with
    | 2 => 4
    | 3 => 8
    | 4 => 16
    | _ => 0
  let mbit := match s.rd Fld.hptId_speed p with
    | 1 => 2000
    | 2 => 4000
    | 3 => 8000 * 128 / 130
    | 4 => 16000 * 128 / 130
    | 5 => 32000 * 128 / 130
    | _ => 0
  cdiv (b * 8 * 1000) (max 1 (lanes * mbit))

/-- Bytes of a mask's bitmap (R274). -/
def bitmapBytes (vocab : Nat) : Nat := cdiv vocab 512 * 64

/-- Bytes of the factors of an adapter version. -/
def factorBytes (s : State) (sp : Nat) (v : Nat × Nat) : Nat :=
  (((s.adapter sp v.1).vers.filter fun x => x.ver == v.2).map fun x => (x.objs.map fun o => (s.obj o).e.bytes).sum).sum

/-- The terms of R304 for one model copy of a span. -/
structure Terms where
  arr   : Nat
  dram  : Nat
  flash : Nat
  lat   : Nat

/-- The rows of a step over a set: decode rows after the shortening of R263, and the chunk (R304). -/
def stepRows (s : State) (sp : Nat) (l : List Load) : Nat × Nat :=
  let wait := l.any fun x => x.left != 0
  let d := min ((l.map fun x => 1 + s.draftOf sp x.par).sum) (if wait then 736 else 768)
  (d, if wait then chunkFor (s.span sp).cfg.chunk d else 0)

/-- Bytes of a copy's layers that the tier runtime has demoted to flash streaming (R166, R170). -/
def demoted (s : State) (c : ModelCopy) : Nat :=
  ((c.objs.filter fun o => (s.obj o).e.home == 2 && (s.obj o).e.st != 0 && !c.t2.contains o).map fun o => (s.obj o).e.bytes).sum

/-- The three rate terms and the latencies of one copy (R304, R363). -/
def termsOf (s : State) (sp : Nat) (c : ModelCopy) (l : List Load) (rows : Nat) : Terms :=
  let h := c.hdr
  let cells := max 1 (popCount (s.span sp).cfg.cells 56)
  let vers := (l.filterMap (·.ver)).dedup
  let cycles := (vers.map fun v =>
    let a := s.adapter sp v.1
    Config.adapterCycles h.modelId h.generation a.rank a.targets).sum
  let arr := cdiv (rows * h.opsToken * 40000) (cells * 8192 * max 1 c.pair4 * max 1 s.floorMhz * 9) + cdiv (cycles * 1000) (max 1 s.floorMhz)
  let masked := l.filterMap fun x => x.par.mask
  let maskT1 := (masked.filter fun o => (s.obj o).e.home == 1).length * bitmapBytes h.vocab
  let maskT3 := masked.filter fun o => (s.obj o).e.home == 3
  let kv := ((l.filter fun x => x.t3.isNone).map fun x => h.kvBytesPos * x.par.kvBudget).sum
  let moved := s.demoted c
  let bytes := h.t1Bytes - moved + kv + maskT1 + (vers.map (s.factorBytes sp)).sum
  let dram := cdiv (bytes * 8400) (max 1 (s.spanBandwidth sp))
  let streamed := h.t2StepBytes + moved
  let flash := if streamed = 0 then 0 else cdiv (streamed * 1000) (max 1 (s.span sp).cfg.flash)
  let paged := l.filterMap fun x => x.t3.map fun p => s.portNs p (h.kvBytesPos * x.par.kvBudget)
  let legs := maskT3.map fun o => s.portNs (s.t3Port (s.obj o).e) (bitmapBytes h.vocab)
  let lat := (if streamed = 0 then 0 else s.rd Fld.tieT2Wclat_ns) +
    (if paged.isEmpty && legs.isEmpty then 0 else s.rd Fld.tieT3Wclat_ns + paged.sum + legs.sum)
  { arr, dram, flash, lat }

/-- The step of one copy in ns: its largest rate term, its latencies, and 100 µs for the boundary (R304). -/
def Terms.total (t : Terms) : Nat := max t.arr (max t.dram t.flash) + t.lat + 100000

/-- The draft span's part of a step: as many of its steps as the longest draft (R277, R304). -/
def draftNs (s : State) (sp : Nat) (l : List Load) : Nat :=
  match (s.span sp).cfg.draft with
  | none => 0
  | some d =>
    let drafted := l.filter fun x => x.par.draftLen != 0
    match (s.span d).cur with
    | none => 0
    | some c =>
      if drafted.isEmpty then 0
      else (drafted.map (·.par.draftLen)).foldl max 0 * (s.termsOf d c drafted drafted.length).total

/-- The worst-case step T of a set (R304); in DUAL the sum of the steps of both copies. -/
def worstStep (s : State) (sp : Nat) (l : List Load) : Nat :=
  let one := fun (c : Option ModelCopy) (l : List Load) => match c with
    | none => 0
    | some c => (s.termsOf sp c l (let r := s.stepRows sp l; r.1 + r.2)).total
  let x := s.span sp
  let new := l.filter fun y => !y.old
  (if x.dual then one x.cur new + one x.old (l.filter (·.old)) else one x.cur l) + s.draftNs sp l

/-- Whether a time of `t` ns is within `d` phase units of the usable period, which is 15/16 of the admission period (R303). -/
def within (s : State) (t d : Nat) : Bool := t * 65536 * 16 ≤ d * (15 * s.rd Fld.cadPeriod_admitNs)

/-- ⌊U ÷ T⌋. -/
def stepsPerPeriod (s : State) (t : Nat) : Nat := 15 * s.rd Fld.cadPeriod_admitNs / (16 * max 1 t)

/-- The tests of R305 on a set, in a step that also carries `extra` (R309). -/
def passesWith (s : State) (sp : Nat) (l extra : List Load) : Bool :=
  let t := s.worstStep sp (l ++ extra)
  let c := (s.stepRows sp (l ++ extra)).2
  l.all fun x =>
    let first := match x.wait with
      | none => true
      | some w => s.within (w * s.periodNs / 65536 + t + t * (if c = 0 then 0 else cdiv x.left c) + 50000) x.par.ttftBound
    match x.par.cls with
    | 0 => s.within t x.par.tbtBound && first
    | 1 => x.par.perPeriod ≤ s.stepsPerPeriod t && first
    | _ => true

/-- The tests of R305 on a set. -/
def passes (s : State) (sp : Nat) (l : List Load) : Bool := s.passesWith sp l []

/-- Frames of the pool objects of a copy (R320). -/
def poolFrames (s : State) (sp copy : Nat) : Nat := (((s.span sp).pools.filter fun e => e.1 / 8 == copy).map (·.2.total)).sum

/-- Frames reserved in the pool of a copy (R306). -/
def poolReserved (s : State) (sp copy : Nat) : Nat :=
  ((s.spanSlots sp).map fun i =>
    let x := s.slot i
    if !x.t3 && (s.copyOf i).any fun c => c.copyNo == copy then reservedPages x.par.kvBudget * s.layersOf i else 0).sum

/-- Whether the pool of a copy holds one more reservation. -/
def poolHolds (s : State) (sp : Nat) (c : ModelCopy) (budget : Nat) : Bool :=
  s.poolReserved sp c.copyNo + reservedPages budget * c.hdr.layers ≤ s.poolFrames sp c.copyNo

/-- Whether a request could ever be admitted alone in an empty span (R308). -/
def couldFit (s : State) (sp : Nat) (c : ModelCopy) (x : Load) : Bool :=
  reservedPages x.par.kvBudget * c.hdr.layers ≤ s.poolFrames sp c.copyNo &&
  (x.par.cls == 3 || ({ s with slots := [] } : State).passes sp [{ x with old := false }])

/-- The committed figures of a span, computed afresh (R310). -/
def showCommitted (s : State) (sp : Nat) : State :=
  let l := (s.guaranteed sp).map s.loadOf
  let t := s.worstStep sp l
  let s := s.setReg .cadSpanWc 0 sp (BitVec.ofNat 64 (min 255 (s.stepsPerPeriod t) * 2 ^ 32 + min (2 ^ 32 - 1) t))
  match (s.span sp).cur with
  | none => s
  | some c =>
    let r := s.stepRows sp l
    let x := s.termsOf sp c l (r.1 + r.2)
    let u := max 1 (15 * s.rd Fld.cadPeriod_admitNs / 16)
    let pc := fun (n d : Nat) => min 255 (n * 256 / max 1 d)
    s.setReg .cadSpanUse 0 sp (BitVec.ofNat 64
      (pc (s.poolReserved sp c.copyNo) (s.poolFrames sp c.copyNo) * 2 ^ 24 + pc x.flash u * 2 ^ 16 + pc x.dram u * 2 ^ 8 + pc x.arr u))

/-- The committed figures at a boundary (R310): written where the guaranteed set, by slot and generation, is another than at the last write. -/
def writeCommitted (s : State) (sp : Nat) : State :=
  let l := (s.guaranteed sp).map fun i => (i, (s.slot i).gen)
  if l = (s.span sp).wcSet then s else (s.modSpan sp fun x => { x with wcSet := l }).showCommitted sp

/-! ### Shedding (R311 to R313) -/

/-- One guarantee withdrawn (R313): notice, flag and count. -/
def withdraw (s : State) (i : Nat) : State :=
  let x := s.slot i
  let s := s.modSlot i fun x => x.setFlag 11
  (s.bump Fld.cadShedCnt_count).notice (x.ident - 1) 0x02 x.span i x.gen noObject 0

/-- The order in which guarantees are withdrawn (R312): IDLE, then BULK, then the rest, the latest admission first in each. -/
def shedOrder (s : State) (sp : Nat) : List Nat :=
  let l := (s.spanSlots sp).filter fun i => (s.slot i).running && !(s.slot i).shed
  let by_ := fun (f : Nat → Bool) => (l.filter fun i => f (s.slot i).par.cls).mergeSort fun a b => (s.slot b).order ≤ (s.slot a).order
  by_ (· == 3) ++ by_ (· == 2) ++ by_ (· ≤ 1)

/-- Withdrawals in order until the guaranteed set passes R305. -/
def shedUntil (s : State) (sp : Nat) : List Nat → State
  | [] => s
  | i :: r => if s.passes sp ((s.guaranteed sp).map s.loadOf) then s else (s.withdraw i).shedUntil sp r

/-- The shedding of a span (R312). -/
def shed (s : State) (sp : Nat) : State := s.shedUntil sp (s.shedOrder sp)

/-- A capacity loss of a span, shed at its next step boundary (R311). -/
def capacityLoss (s : State) (sp : Nat) : State := s.modSpan sp fun x => { x with capLoss := true }

/-- A capacity loss of every span. -/
def capacityLossAll (s : State) : State := forEach (SMap.keys s.spans) (fun sp t => t.capacityLoss sp) s

/-- The floor clock of a profile in 10 MHz (R454). -/
def floorOf (pl1 : Nat) : Nat := cdiv (400 + 16 * (pl1 - 25)) 10

/-- Profile and clock limits that wait for a step boundary apply (R457, R463; log entry 52). -/
def applyLimits (s : State) : State :=
  let s := match s.pwr.plPend with
    | none => s
    | some pl => ((s.wr Fld.pwrProfile_pl1 pl).wr Fld.pwrProfile_floor (floorOf pl)).modPwr fun x => { x with plPend := none }
  let s := if s.pwr.limPend then s.modPwr fun x => { x with limPend := false, clamp := false } else s
  if s.pwr.clamp || s.flag Fld.pwrStatus_throttling then s
  else s.wr Fld.pwrProfile_clock (max (s.rd Fld.pwrProfile_clock) (s.rd Fld.pwrProfile_floor))

/-- Limits apply at once when no span has a step in progress, so that no boundary is awaited. -/
def applyIdle (s : State) : State := if s.spans.any fun e => e.2.batch.isSome then s else s.applyLimits

end State
end Sys2Proof.Machine
end

