-- ==== Sys2Proof/Machine/Requests.lean ====
section
/-!
DEFINITION. The request commands (09, R252 to R258, R269, R276, R279 to R281, R531; 13, R396, R403, R404) and the life of a request until its
admission.
-/
namespace Sys2Proof.Machine

/-- The least temperature other than 0: the FP32 value nearest to 0.01. -/
def tempMin : F32 := 0x3C23D70A

namespace Params

/-- The supplied fields of a REQ_CREATE body (R253, R403). -/
def ofBody (b : List Byte) : Params :=
  { cls := byteAt b 3, flags := byteAt b 8, adapter := leAt b 0x10 2, maskObj := leAt b 0x14 4, draftLen := byteAt b 0x1A,
    repWindow := leAt b 0x1E 2, temp := BitVec.ofNat 32 (leAt b 0x20 4), topP := BitVec.ofNat 32 (leAt b 0x24 4),
    minP := BitVec.ofNat 32 (leAt b 0x28 4), repPen := BitVec.ofNat 32 (leAt b 0x2C 4), topK := leAt b 0x30 2, minNew := leAt b 0x32 2,
    seed := leAt b 0x34 4, maxNew := leAt b 0x38 4, stop := (List.range 8).map fun i => leAt b (0x40 + 4 * i) 4,
    kvBudget := leAt b 0x6C 4, bounds := leAt b 0x90 8, admWait := leAt b 0xA4 2, parkLimit := leAt b 0xA6 2 }

/-- Whether an FP32 value lies from `lo` to `hi`. -/
def fpIn (lo hi x : F32) : Bool := !isNaN32 x && !ltF32 x lo && !ltF32 hi x

/-- The bounds of R296. -/
def boundsOk (p : Params) : Bool :=
  match p.cls with
  | 0 => 1024 ≤ p.tbtBound
  | 1 => 1 ≤ p.perPeriod && p.perPeriod ≤ 32
  | 2 => p.bounds / 2 ^ 32 == 0
  | _ => p.bounds == 0

/-- The ranges of R253, R296 and R321 that need no model. -/
def inRange (p : Params) : Bool :=
  p.flags < 16 && p.maskObj % 2 ^ 31 < 2 ^ 17 && p.draftLen ≤ 8 && p.repWindow ≤ 1024 &&
  (fpIn 0 0 p.temp || fpIn tempMin 0x42800000 p.temp) && (fpIn 0 0x3F800000 p.topP && ltF32 0 p.topP) &&
  (fpIn 0 0x3F800000 p.minP && ltF32 p.minP 0x3F800000) && fpIn 0x3F000000 0x41000000 p.repPen &&
  p.topK ≤ 256 && 1 ≤ p.maxNew && p.minNew ≤ p.maxNew && p.kvBudget % 16 == 0 && 112 ≤ p.kvBudget && p.boundsOk

end Params

/-- Byte ranges of the slot mirror that REQ_CREATE supplies or that the device ignores (R253, R403), with model_id, prompt length and kind. -/
def createFields : List (Nat × Nat) :=
  [(3, 3), (8, 1), (0x10, 2), (0x14, 4), (0x1A, 1), (0x1E, 20), (0x32, 10), (0x40, 32), (0x6C, 4), (0x90, 8), (0xA4, 4), (0xD0, 16), (0xE0, 5)]

/-- The shape of a prompt-carrying body (R403, R404): `off` is where the prompt begins, `n` its bytes. -/
def promptOk (body : List Byte) (fields : List (Nat × Nat)) (off n kind : Nat) : Bool :=
  off ≤ body.length && n ≤ body.length - off && kind ≤ 1 && (kind == 0 || n % 4 == 0) && bodyClean ((off, n) :: fields) body

/-- The token IDs of a prompt of kind 1. -/
def promptIds (l : List Byte) : List Nat := (List.range (l.length / 4)).map fun i => leAt l (4 * i) 4

/-- The greatest prompt in bytes (R258). -/
def promptMax : Nat := 2 ^ 20

/-- The kind of a prompt with one more part (R404): token IDs alone need no text unit; a prompt with a part in UTF-8 does. -/
def joinKind (prompt part : List Byte) (k kind : Nat) : Nat :=
  if prompt.isEmpty then kind else if part.isEmpty then k else min k kind

namespace State

/-- Whether span `sp` runs a load, swap or unload: until the operation's final reply. -/
def spanBusy (s : State) (sp : Nat) : Bool := s.ops.any fun e => e.2.live && e.2.span == sp && 0x10 ≤ e.2.opcode && e.2.opcode ≤ 0x12

/-- Whether span `sp` is a draft span of another (R276). -/
def isDraft (s : State) (sp : Nat) : Bool := s.spans.any fun e => e.2.cfg.on && e.2.cfg.draft == some sp
/-- Whether span `sp` is configured for training (R355). -/
def isTrain (s : State) (sp : Nat) : Bool := s.flag Fld.kvwCfg_train 0 sp

/-- Spans that serve a model id. -/
def serving (s : State) (id : Nat) : List Nat := (List.range 8).filter fun sp => (s.span sp).cur.any fun c => c.hdr.modelId == id

/-- The spans that may hold a request: the one it names, or those that serve its model id (R256). -/
def spansFor (s : State) (sp id : Nat) : List Nat :=
  if sp = 0xFF then s.serving id else if (s.span sp).cur.isSome then [sp] else []

/-- Whether an adapter index is resident for new requests (R255, R366, R369). -/
def adapterReady (s : State) (sp a : Nat) : Bool := a == 0xFFFF || ((s.adapter sp a).st == 2 && !(s.adapter sp a).oldOnly)

/-- The header of the copy that new requests of span `sp` bind. -/
def curHdr (s : State) (sp : Nat) : ImageHdr := ((s.span sp).cur.map (·.hdr)).getD default

/-- The first refusal of R255; `none` passes. -/
def createStatus (s : State) (pkt : Packet) (p : Params) : Option Nat :=
  let sp := pkt.span
  let b := pkt.body
  let cand := s.spansFor sp (leAt b 0xD0 16)
  let ok := cand.filter fun sp => !s.isDraft sp && !s.isTrain sp
  if 1024 ≤ s.reqs.length then some 0x11
  else if sp ≠ 0xFF ∧ s.spanBusy sp then some 0x12
  else if !(promptOk b createFields 0xF0 (leAt b 0xE0 4) (byteAt b 0xE4) && p.cls == pkt.cls && p.inRange) then some 0x27
  else if cand.isEmpty then some 0x29
  else if cand.all fun sp => (s.curHdr sp).maxPos + 16 < p.kvBudget then some 0x27
  else if ok.isEmpty then some 0x2E
  else if !ok.any fun sp => s.adapterReady sp p.adapter then some 0x2A
  else match p.mask with
    | some o => if ok.any fun sp => s.maskOk sp o (s.curHdr sp).vocab then none else some 0x2C
    | none => none

/-- A REQ_CREATE's FINAL reply with a refusal; those of the 0x30 family are counted (`SRV_REFUSE_CNT`). -/
def refuseReq (s : State) (c : Caller) (status : Nat) : State :=
  (onlyIf (status / 16 == 3) (fun s => s.bump Fld.srvRefuseCnt_count) s).fin c status

/-- A waiting request leaves with its REQ_CREATE's final reply. -/
def dropReq (s : State) (r : Req) (status : Nat) : State := ({ s with reqs := s.reqs.erase r }).refuseReq r.who status

/-- A waiting request replaced. -/
def putReq (s : State) (a b : Req) : State := { s with reqs := s.reqs.map fun x => if x = a then b else x }

/-- A request before admission as admission counts it. -/
def loadOfReq (s : State) (r : Req) : Load :=
  { par := r.par, left := r.tokens.length, wait := some (s.cadNow - r.stamp), t3 := none, old := false, ver := none }

/-- Whether span `sp` is skipped for a routed request: its max_positions is too low (R256). -/
def tooLong (s : State) (sp : Nat) (r : Req) : Bool :=
  let h := s.curHdr sp
  h.maxPos < r.tokens.length + r.par.maxNew || h.maxPos + 16 < r.par.kvBudget

/-- A prompt is complete (R254, R257, R258, R308, R347): the request becomes PENDING or ends. -/
def becomePending (s : State) (r : Req) : State :=
  let cand := (s.spansFor r.span r.modelId).filter fun sp => !s.isDraft sp && !s.isTrain sp
  match cand with
  | [] => s.dropReq r 0x29
  | sp0 :: _ =>
    let never := fun sp => match (s.span sp).cur with
      | some c => !s.couldFit sp c (s.loadOfReq r)
      | none => true
    if r.tokens.isEmpty then s.dropReq r 0x27
    else if r.tokens.any fun x => (s.curHdr sp0).vocab ≤ x then s.dropReq r 0x2B
    else if (r.span ≠ 0xFF ∧ s.tooLong r.span r) ∨ liveLimit r.par.kvBudget < newPages 0 r.tokens.length then s.dropReq r 0x28
    else if cand.all never then s.dropReq r 0x37
    else s.putReq r { r with st := 1, pendAt := s.cadNow, why := 0x30 }

/-- A prompt whose last part has come: token IDs need no text unit (R257). -/
def endPrompt (s : State) (r : Req) : State :=
  let r' := { r with ended := true, tokens := if r.kind = 1 then promptIds r.prompt else [] }
  let s := s.putReq r r'
  if r.kind = 1 then s.becomePending r' else s

/-- The request that a port names by its REQ_CREATE tag. -/
def reqByTag (s : State) (p tag : Nat) : Option Req := s.reqs.find? fun r => r.who.port == p && r.who.tag == tag

/-- Whether a port names a slot of its own with its generation (R252). -/
def ownSlot (s : State) (p : Nat) (pkt : Packet) : Bool :=
  let x := s.slot pkt.target
  pkt.target < 4096 && x.st != 0 && x.gen == pkt.gen && x.ident == portIdent p

/-- The positions that a staged turn needs: the token carried over and its prompt (R531). -/
def turnLen (t : Turn) : Nat := t.tokens.length + 1

/-- A PARKED request's turn as admission counts it. -/
def loadOfTurn (s : State) (i : Nat) (t : Turn) : Load :=
  { s.loadOf i with par := { (s.slot i).par with maxNew := t.maxNew }, left := turnLen t, wait := some (s.cadNow - t.stamp) }

/-- A turn's prompt is complete (R254, R258, R347, R531): its REQ_APPEND gets its final reply. -/
def turnReady (s : State) (i : Nat) (t : Turn) : State :=
  let x := s.slot i
  let drop := fun (st : Nat) => (s.modSlot i fun x => { x with turn := none }).fin t.who st
  match s.copyOf i with
  | none => drop 0x37
  | some c =>
    if t.tokens.any fun k => c.hdr.vocab ≤ k then drop 0x2B
    else if c.hdr.maxPos < x.positions + t.tokens.length + t.maxNew ∨ !s.turnFits i (x.positions - 1) (turnLen t) then drop 0x28
    else if !s.couldFit x.span c (s.loadOfTurn i t) then drop 0x37
    else (s.modSlot i fun x => { x with turn := some { t with ready := true } }).fin t.who 0x00

/-- A part of the prompt of a PARKED request's next turn (R404). -/
def appendTurn (s : State) (c : Caller) (i : Nat) (part : List Byte) (kind maxNew : Nat) (ends : Bool) : State :=
  let x := s.slot i
  let t := x.turn.getD { who := c, prompt := [], kind, maxNew := x.par.maxNew, stamp := 0, ended := false, ready := false, tokens := [] }
  if promptMax < t.prompt.length + part.length then (s.modSlot i fun x => { x with turn := none }).fin c 0x28
  else
    let t := { t with who := c, prompt := t.prompt ++ part, kind := joinKind t.prompt part t.kind kind, maxNew := if maxNew = 0 then t.maxNew else maxNew }
    if !ends then (s.modSlot i fun x => { x with turn := some t }).fin c 0x00
    else
      let t := { t with ended := true, stamp := c.time, tokens := if t.kind = 1 then promptIds t.prompt else [] }
      let s := s.modSlot i fun x => { x with turn := some t }
      if t.kind = 1 ∨ t.prompt.isEmpty then s.turnReady i t else s

/-- REQ_CREATE (R255, R403). -/
def reqCreate (s : State) (c : Caller) (pkt : Packet) : State :=
  let p := Params.ofBody pkt.body
  if pkt.target ≠ 0 ∨ pkt.gen ≠ 0 then s.fin c 0x20
  else if 8 ≤ pkt.span ∧ pkt.span ≠ 0xFF then s.fin c 0x27
  else match s.createStatus pkt p with
    | some st => s.refuseReq c st
    | none =>
      let r : Req := { who := c, st := 0, span := pkt.span, modelId := leAt pkt.body 0xD0 16, par := p,
                       prompt := slice pkt.body 0xF0 (leAt pkt.body 0xE0 4), kind := byteAt pkt.body 0xE4, ended := false, tokens := [],
                       fffd := false, stamp := c.time, pendAt := 0, why := 0x30 }
      let s := { s with reqs := s.reqs ++ [r] }
      if p.more then s else s.endPrompt r

/-- REQ_APPEND (R404, R258, R280). -/
def reqAppend (s : State) (c : Caller) (pkt : Packet) : State :=
  let b := pkt.body
  let n := leAt b 0 4
  let kind := byteAt b 4
  let shape := promptOk b [(0, 5), (6, 2), (8, 4)] 0x10 n kind
  let part := slice b 0x10 n
  if pkt.span ≠ 0xFF then s.fin c 0x20
  else if pkt.target = 0xFFFF then
    match s.reqByTag c.port (leAt b 6 2) with
    | none => s.fin c 0x2D
    | some r =>
      if !shape then s.fin c 0x27
      else if r.ended then s.fin c 0x2E
      else if promptMax < r.prompt.length + part.length then (s.dropReq r 0x28).fin c 0x28
      else
        let r' := { r with prompt := r.prompt ++ part, kind := joinKind r.prompt part r.kind kind }
        let s := (s.putReq r r').fin c 0x00
        if pkt.ends then s.endPrompt r' else s
  else if !s.ownSlot c.port pkt then s.fin c 0x2D
  else
    let x := s.slot pkt.target
    let m := leAt b 8 4
    if x.par.cls ≠ pkt.cls ∨ !shape ∨ leAt b 6 2 ≠ 0 ∨ (m ≠ 0 ∧ m < x.par.minNew) then s.fin c 0x27
    else if x.st ≠ slParked ∨ x.endDue ∨ x.turn.any (·.ended) then s.fin c 0x2E
    else s.appendTurn c pkt.target part kind m pkt.ends

/-- The body of REQ_CANCEL and REQ_QUERY: a tag when the target is 0xFFFF, else reserved bytes (R402). -/
def tagBodyOk (pkt : Packet) : Bool := bodyClean (if pkt.target = 0xFFFF then [(0, 2)] else []) pkt.body

/-- REQ_CANCEL (R279). -/
def reqCancel (s : State) (c : Caller) (pkt : Packet) : State :=
  if pkt.span ≠ 0xFF ∨ (pkt.target = 0xFFFF ∧ pkt.body.length < 2) then s.fin c 0x20
  else if !tagBodyOk pkt then s.fin c 0x27
  else if pkt.target = 0xFFFF then
    match s.reqByTag c.port (leAt pkt.body 0 2) with
    | none => s.fin c 0x2D
    | some r => (s.dropReq r 0x0E).fin c 0x00
  else if !s.ownSlot c.port pkt then s.fin c 0x2D
  else if (s.slot pkt.target).par.cls ≠ pkt.cls then s.fin c 0x27
  else (s.fin c 0x00).cancelSlot pkt.target (s.flag Fld.hptCtrl_cancelMode c.port)

/-- REQ_QUERY (R253, R400). -/
def reqQuery (s : State) (c : Caller) (pkt : Packet) : State :=
  if pkt.span ≠ 0xFF ∨ (pkt.target = 0xFFFF ∧ pkt.body.length < 2) then s.fin c 0x20
  else if !tagBodyOk pkt then s.fin c 0x27
  else if pkt.target = 0xFFFF then
    match s.reqByTag c.port (leAt pkt.body 0 2) with
    | none => s.fin c 0x2D
    | some r => s.final c 0x00 0 (leBytes 1 (0x80 + r.st) ++ leBytes 255 0)
  else if !s.ownSlot c.port pkt then s.fin c 0x2D
  else if (s.slot pkt.target).par.cls ≠ pkt.cls then s.fin c 0x27
  else s.final c 0x00 0 ((s.slot pkt.target).encode (s.kvPages pkt.target))

/-- The text unit has tokenized a prompt (R257): the request's that waits under the tag, or a parked turn's. `tokens` is the whole prompt's,
parts that came as token IDs in their places. -/
def tokenized (s : State) (p tag : Nat) (tokens : List Nat) (replaced : Bool) : State :=
  match s.reqs.find? fun r => r.who.port == p && r.who.tag == tag && r.st == 0 && r.ended && r.kind == 0 with
  | some r =>
    let r' := { r with tokens, fffd := replaced }
    (s.putReq r r').becomePending r'
  | none =>
    match s.slots.find? fun e => e.2.st == slParked && e.2.ident == portIdent p && e.2.tag == tag &&
        e.2.turn.any fun t => t.ended && !t.ready && t.kind == 0 with
    | none => s
    | some (i, x) =>
      match x.turn with
      | none => s
      | some t =>
        let t' := { t with tokens }
        (s.modSlot i fun x => { (if replaced then x.setFlag 9 else x) with turn := some t' }).turnReady i t'

end State

/-- REQ_CREATE, opcode 0x20. -/
def execReqCreate (p : PortId) (pkt : Packet) (s : State) : Out := .next (s.serve 0x20 p pkt fun c pkt s => s.reqCreate c pkt)
/-- REQ_APPEND, opcode 0x21. -/
def execReqAppend (p : PortId) (pkt : Packet) (s : State) : Out := .next (s.serve 0x21 p pkt fun c pkt s => s.reqAppend c pkt)
/-- REQ_CANCEL, opcode 0x22. -/
def execReqCancel (p : PortId) (pkt : Packet) (s : State) : Out := .next (s.serve 0x22 p pkt fun c pkt s => s.reqCancel c pkt)
/-- REQ_QUERY, opcode 0x23. -/
def execReqQuery (p : PortId) (pkt : Packet) (s : State) : Out := .next (s.serve 0x23 p pkt fun c pkt s => s.reqQuery c pkt)

/-- Tokenizing ends (R257). -/
def execTokenizeDone (p : PortId) (tag : BitVec 16) (tokens : List Nat) (replaced : Bool) (s : State) : Out :=
  .next (s.tokenized p tag.toNat tokens replaced)

/-- adm_wait periods in PENDING have passed (R254, R286); 0 counts as 1. -/
def execAdmWaitExpiry (p : PortId) (tag : BitVec 16) (s : State) : Out :=
  match s.reqByTag p tag.toNat with
  | some r => if r.st = 1 then .next (s.whenPassed r.pendAt (max 1 r.par.admWait) fun s => s.dropReq r r.why) else .next s
  | none => .next s

/-- park_limit periods in PARKED have passed (R254, R270); 0 means 65,535. -/
def execParkLimitExpiry (i : Fin 4096) (s : State) : Out :=
  let x := s.slot i
  if x.st = slParked ∧ !x.endDue then
    .next (s.whenPassed x.parkedAt (if x.par.parkLimit = 0 then 65535 else x.par.parkLimit) fun s => (s.dropTurn i 0x2E).markEnding i 10 0x00)
  else .next s

end Sys2Proof.Machine
end

