-- ==== Sys2Proof/Machine/Steps.lean ====
section
/-!
DEFINITION. The end of a step (09, R259, R267, R270, R273, R277, R278; 11, R344, R349; 06, R172): tokens, ends, items.
-/
namespace Sys2Proof.Machine
namespace State

/-- The generator of the cell that samples for slot `i` set to `g` (R268): the step programme names its role. -/
def setDraw (s : State) (i : Nat) (g : BitVec 32) : State :=
  let h := ((s.copyOf i).map (·.hdr)).getD default
  let n := s.roleCell (s.slot i).span (Config.samplingRole h.modelId h.generation)
  if n < 56 then s.modCell n fun c => { c with rng := g } else s

/-- One row of slot `i` sampled (R267): its token, its NaN logits counted, and the draw that it took (R268). -/
def sampleRow (s : State) (i : Nat) (logits : List F32) : Option Nat × State :=
  let x := s.slot i
  let eos := ((s.copyOf i).map (·.tok.eos)).getD 0
  let e : SampleEnv := { par := x.par, history := x.hTokens, index := x.generated, turnGen := x.turnGen, eos,
                         allowed := x.par.mask.map fun o => s.maskAllows o x.maskNow }
  let n := nanLogits logits
  let s := if n = 0 then s
    else (s.modSlot i fun x => { x.setFlag 10 with nanCount := x.nanCount + n }).bump Fld.srvNanCnt_count 0 0 n
  let s := if takesDraw e logits then s.setDraw i (drawState x.par.seed x.generated) else s
  (sampleToken e logits, s)

/-- A sampled token taken into slot `i`, with the first end condition that holds (R270, R273): reason and item status. -/
def takeToken (s : State) (i t : Nat) : Option (Nat × Nat) × State :=
  let x := s.slot i
  let h := ((s.copyOf i).map (·.hdr)).getD default
  let eos := ((s.copyOf i).map (·.tok.eos)).getD 0
  let next := x.par.mask.map fun o => s.maskNext o x.maskNow t
  let enters := match x.par.mask, next with
    | some o, some (some q) => s.maskFinal o q
    | _, _ => false
  let s := s.modSlot i fun x =>
    { x with generated := x.generated + 1, turnGen := x.turnGen + 1, positions := x.positions + 1, hTokens := x.hTokens ++ [t],
             maskNow := (next.getD none).getD x.maskNow }
  let x := s.slot i
  (if t = eos then some (0, 0x00)
   else if x.par.stop.contains t then some (1, 0x00)
   else if x.par.maxNew ≤ x.turnGen then some (2, 0x00)
   else if h.maxPos ≤ x.positions then some (3, 0x00)
   else if enters then some (4, 0x00)
   else if next = some none then some (7, 0x2C)
   else none, s)

/-- The sampled rows of one segment in order (R277): tokens so far, the end that came, and the state. A proposal is accepted while it
equals the sample of the row before it. -/
def sampleRows (s : State) (i : Nat) (logits : Nat → List F32) :
    List (Nat × RowEntry) → List Nat → List Nat × Option (Nat × Nat) × State
  | [], got => (got, none, s)
  | (k, _) :: rest, got =>
    match s.sampleRow i (logits k) with
    | (none, s) => (got, some (6, 0x55), s)
    | (some t, s) =>
      match s.takeToken i t with
      | (some e, s) => (got ++ [t], some e, s)
      | (none, s) =>
        if rest.head?.any fun r => r.2.token == t then s.sampleRows i logits rest (got ++ [t]) else (got ++ [t], none, s)

/-- A turn ends and the request parks (R254, R270, R531). -/
def park (s : State) (i reason status : Nat) (tokens : List Nat) (first : Nat) : State :=
  let s := s.busy.modSlot i fun x => { x with st := slParked, endReason := reason, endStatus := status, parkedAt := s.cadNow }
  let (text, s) := s.detok i (((s.copyOf i).map (·.tok)).getD default) tokens true
  s.produce i 0x12 text tokens first

/-- What a request's tokens of one step lead to (R259, R270): its item, the end of its turn, or its end. -/
def finishTokens (s : State) (i : Nat) (tokens : List Nat) (first : Nat) (e : Option (Nat × Nat)) : State :=
  match e with
  | some (r, st) =>
    if (r ≤ 2 ∨ r = 4) ∧ (s.slot i).par.keep ∧ !(s.slot i).cancelled then s.park i r st tokens first
    else s.endSlot i r st tokens first
  | none =>
    let (text, s) := s.detok i (((s.copyOf i).map (·.tok)).getD default) tokens false
    s.produce i 0x10 text tokens first

/-- The rows of one request at the end of a step: masses of its accepted rows, prompt positions processed, tokens, truncation. A request
that turns ENDING drops them (R279). -/
def endSegment (s : State) (i : Nat) (rows : List (Nat × RowEntry)) (r : StepResult) (held : List RowMass) : State :=
  let x := s.slot i
  if !x.running || x.endDue then s
  else
    let masses := fun (l : List (Nat × RowEntry)) (s : State) =>
      forEach l (fun e s => s.addMasses i e.2.pos (held.filter fun m => m.row == e.1)) s
    let pre := x.todo.length
    let s := s.modSlot i fun x => { x with todo := x.todo.drop rows.length }
    let sampled := rows.filter fun e => e.2.sample
    if sampled.isEmpty then masses rows s
    else
      let s := s.modSlot i fun x => { x with st := if x.st = slPrefill then slDecode else x.st }
      let first := (s.slot i).generated
      let logits := fun k => ((r.rows.find? fun l => l.row == k).map (·.logits)).getD []
      let (got, e, s) := s.sampleRows i logits sampled []
      let keep := if pre = 0 then got.length else rows.length
      let s := masses (rows.take keep) s
      let drafts := sampled.length - 1
      let s := if drafts = 0 then s
        else (s.modSlot i fun x => { x with draftProp := x.draftProp + drafts, draftAcc := x.draftAcc + (got.length - 1) }).truncatePages i
          (((rows.head?.map fun h => h.2.pos).getD 0) + got.length)
      s.finishTokens i got first e

/-- Whether the running step of a span is abandoned: a whole-cell fence, or a step to be repeated (R182, R494). -/
def abandoned (s : State) (sp : Nat) : Bool := (s.span sp).again || (s.span sp).faults.any (·.2)

/-- A step ends (R259). -/
def stepEnd (s : State) (sp : Nat) (r : StepResult) : State :=
  match (s.span sp).batch with
  | none => s
  | some b =>
    let s := s.after r.dt
    if s.abandoned sp then s
    else
      let rows := b.rows.mapIdx fun k e => (k, e)
      let ids := (b.rows.map (·.slot)).dedup
      let s := if (s.span sp).faults.isEmpty then s else forEach ids (fun i t => t.countOverrun i) s
      let s := match r.late with
        | none => s
        | some (o, tile) =>
          forEach ids (fun i t => (t.countOverrun i).notice ((t.slot i).ident - 1) 0x01 sp i (t.slot i).gen o tile) s
      let held := s.rowMasses sp
      let s := forEach ids (fun i t => t.endSegment i (rows.filter fun e => e.2.slot == i) r held) s
      let s := (forEach b.pins (fun o t => t.unpin o) (s.dropMasses sp)).pumpAll
      let s := (s.bump64 Fld.srvSpanStep_steps 0 sp).clrBit Fld.kvwStatus_busy sp
      s.modSpan sp fun x => { x with batch := none, appended := [] }

end State

/-- STEP_END. -/
def execStepEnd (sp : SpanId) (r : StepResult) (s : State) : Out := .next (s.stepEnd sp r)

end Sys2Proof.Machine
end

