-- ==== Sys2Proof/Machine/Spans.lean ====
section
/-!
DEFINITION. The span map (01, R18 to R23; 04, R123; 05, R150; 08, R240; 09, R276, R282 to R285; 13, R406; 16, R475, R490, R495): its records, checks and changes.
-/
namespace Sys2Proof.Machine

/-- A span record of R406 with the KVW_CFG bits of its byte 0x1F. -/
def SpanRec.ofBody (b : List Byte) : SpanRec :=
  { on := leAt b 0 8 != 0, cells := leAt b 0 8, dram := leAt b 8 8, flash := leAt b 0x10 4, kv := leAt b 0x14 4, latch0 := leAt b 0x18 2,
    latchN := leAt b 0x1A 2, chunk := leAt b 0x1C 2, draft := if byteAt b 0x1E = 0xFF then none else some (byteAt b 0x1E),
    bits := byteAt b 0x1F, roles := [] }

/-- The record's own ranges (R22, R406). A record that grants no latch still names a first latch in the Abutment range (log entry 78). -/
def SpanRec.inRange (r : SpanRec) : Bool :=
  !r.on || (r.cells < 2 ^ 56 && r.dram % (64 * 2 ^ 20) == 0 && 57344 ≤ r.latch0 && r.latch0 + r.latchN ≤ 65536 &&
    32 ≤ r.chunk && r.chunk ≤ 512 && r.draft.all (· < 8) && r.bits < 16)

/-- Whether two records share a cell. -/
def shareCells (a b : SpanRec) : Bool := a.on && b.on && a.cells &&& b.cells != 0
/-- Whether two records share an Abutment latch. -/
def shareLatch (a b : SpanRec) : Bool :=
  a.on && b.on && a.latchN != 0 && b.latchN != 0 && a.latch0 < b.latch0 + b.latchN && b.latch0 < a.latch0 + a.latchN

namespace State

/-! ### Cells (R19, R123, R447) -/

/-- The destination of a move that a span reset ended is indeterminate (R137): free values in every unit of it (log entry 15). -/
def spoilMove (s : State) (m : Move) : State :=
  let d := m.desc
  forEach (List.range (Desc.count d)) (fun i t =>
    let (l, t) := t.freeBytes (Desc.dstUnit d)
    match m.dst with
    | some (c, v) => t.modCell c fun x => x.store v (Desc.dstOff d + i * Desc.dstUnit d) l
    | none =>
      let o := Desc.dstObj d
      if (t.obj o).e.st = 0 ∨ (t.obj o).e.st = stLost then t
      else t.objWrite m.id o (t.objOff o (Desc.dstTile d) i (Desc.lines d)) l) s

/-- Moves in flight of engine `e` that `f` picks ended with status 0x12, their data indeterminate and their signals discarded (R137, R150). -/
def endMovesIf (s : State) (e : Nat) (f : Move → Bool) : State :=
  forEach ((s.movesOf e).filter f) (fun m t => (t.spoilMove m).endMove e m 0x12) s

/-- Walkers' moves that `f` picks ended with status 0x12 in the same way. -/
def endPiecesIf (s : State) (f : PieceMove → Bool) : State :=
  forEach (s.kv.pieces.filter f) (fun p t =>
    let t := t.modKv fun k => { k with pieces := k.pieces.filter fun x => !(x.id == p.id) }
    let t := t.modTier fun x => { x with legs := x.legs.filter fun l => !(l.engine == 58 && l.move == p.id),
                                         legWait := x.legWait.filter fun l => !(l.engine == 58 && l.move == p.id) }
    let (l, t) := t.freeBytes (pieceBytes (t.runningHdr p.span))
    (t.modCell p.cell fun c => c.store p.view p.off l).descError (pieceIdent p.span p.early) 0 0x12) s

/-- Every move in flight of cell `n`, and every one that a walker delivers to it, ended. -/
def endMoves (s : State) (n : Nat) : State :=
  let s := s.modCell n fun c => { c with stall := none }
  let s := s.modKv fun k => { k with held := k.held.filter fun h => !(h.cell == n) }
  (s.endPiecesIf fun p => p.cell == n).endMovesIf n fun _ => true

/-- The memory domain of cell `n` gated, or powered up afresh (R123, R449): its contents and registers are lost, but for those at the
block offsets that `keep` names; its place in the span map, its spare bit and its fences stay. -/
def wipeCellBut (s : State) (n : Nat) (keep : Nat → Bool) : State :=
  let s := s.endMoves n
  let base := 0x100000 + n * 0x10000
  let st := s.reg .celStatus n
  let lo := Fld.celStatus_arrayFenced.lo
  let hi := Fld.celStatus_cellFenced.lo
  let s : State := { s with regs := s.regs.filter fun e => e.1 < base + 8 || base + 0x10000 ≤ e.1 || keep (e.1 - base),
                            cells := SMap.put {} s.cells n { role := (s.cell n).role },
                            waiters := s.waiters.filter (fun w => w.engine != n && latchHome w.latch != n),
                            latchOps := s.latchOps.filter fun o => latchHome o.latch != n }
  (s.wr Fld.celStatus_arrayFenced (b2n (st.toNat.testBit lo)) n).wr Fld.celStatus_cellFenced (b2n (st.toNat.testBit hi)) n

/-- The memory domain of cell `n` gated, or powered up afresh, with nothing kept. -/
def wipeCell (s : State) (n : Nat) : State := s.wipeCellBut n fun _ => false

/-- Cell `n` given to span `sp`, or to none (0xF): a cell that joins is powered and initialised (R19, R123). -/
def placeCell (s : State) (n sp : Nat) : State :=
  if s.cellSpan n = sp then s
  else
    let s := ((s.wipeCell n).modCell n fun c => { c with role := none }).wr Fld.celId_span sp n
    if sp = 0xF then s else s.initDone n

/-- Cells of span `sp`. -/
def spanCells (s : State) (sp : Nat) : List Nat := (List.range 56).filter fun n => s.cellSpan n == sp

/-- A span reset (R150, R353, R475): its cells' sequencers, its moves in flight, its latches with their waiters, and what its walker holds. -/
def spanReset (s : State) (sp : Nat) : State :=
  let cells := s.spanCells sp
  let s := forEach cells (fun n t => t.seqReset n) s
  let s := s.modKv fun k => { k with held := k.held.filter fun h => !(h.span == sp) }
  let s := s.modTier fun t => { t with pushes := t.pushes.filter fun p => !(p.1 == 0x30 + sp) }
  let s := forEach ((s.span sp).batch.elim [] (·.pins)) (fun o t => t.unpin o) s
  let s := (s.endPiecesIf fun p => p.span == sp).endMovesIf 56 fun m => m.who == 0x30 + sp
  let s := forEach cells (fun n t => t.endMoves n) s
  let r := (s.span sp).cfg
  let own := fun (k : Nat) =>
    cells.any (fun n => 0x108000 + n * 0x10000 ≤ k && k < 0x108000 + n * 0x10000 + 0x2000) ||
    (0xC0000 + 8 * (r.latch0 - 57344) ≤ k && k < 0xC0000 + 8 * (r.latch0 - 57344 + r.latchN))
  let s : State := { s with regs := s.regs.filter (fun e => !own e.1), waiters := s.waiters.filter (fun w => !s.ownsLatch sp w.latch),
                            latchOps := s.latchOps.filter fun o => !s.ownsLatch sp o.latch }
  s.resetWalker sp

/-! ### Step programmes (R240, R495) -/

/-- The step programme of role `r` of a model installed in its cell: each latch number in the relocation list rises by the first latch of the cell
that runs the role it counts from. -/
def installProgramme (s : State) (sp r : Nat) (h : ImageHdr) : State :=
  let n := s.roleCell sp r
  if 56 ≤ n then s
  else
    let fix := fun (l : List Byte) (e : Nat × Nat) =>
      l.take e.1 ++ leBytes 2 (leAt l e.1 2 + s.roleCell sp e.2 * 1024) ++ l.drop (e.1 + 2)
    let bytes := (Config.relocations h.modelId h.generation r).foldl fix (Config.programme h.modelId h.generation r)
    s.modCell n fun c =>
      { c with progs := c.progs.filter (fun p => !(p.modelId == h.modelId && p.generation == h.generation)) ++
          [{ modelId := h.modelId, generation := h.generation, role := r, bytes }] }

/-- The step programmes of every role of a model installed (R240). -/
def installAll (s : State) (sp : Nat) (h : ImageHdr) : State := forEach (List.range h.roles) (fun r t => t.installProgramme sp r h) s

/-- The programmes installed again after role `r` has moved to another cell (R495): its own, and those whose streams name its latches. Steward
firmware resets each of their cells first (R475, log entry 76). -/
def reinstall (s : State) (sp r : Nat) (h : ImageHdr) : State :=
  let roles := (List.range h.roles).filter fun q => q == r || (Config.relocations h.modelId h.generation q).any fun e => e.2 == r
  forEach roles (fun q t => (t.cellReset (t.roleCell sp q)).installProgramme sp q h) s

/-! ### The map -/

/-- The span map with the records of commits that wait, the latest of a span first, and then the given ones laid over it (log entry 77). -/
def mapWith (s : State) (l : List (Nat × SpanRec)) (sp : Nat) : SpanRec :=
  match (l ++ s.commits.reverse.flatMap (·.recs)).find? fun e => e.1 == sp with
  | some e => e.2
  | none => (s.span sp).cfg

/-- Every span. -/
def eightSpans : List Nat := List.range 8

/-- Usable DRAM bytes (R407, R432): the slices less their spill areas and retired frames. -/
def dramUsable (s : State) : Nat := Config.dramUsable - 65536 * s.tier.retired.length

/-- The refusals of R22 on a map: 0x27 or 0x35. -/
def mapStatus (s : State) (m : Nat → SpanRec) : Option Nat :=
  let bad := eightSpans.any fun a =>
    ((m a).on && (bitList (m a).cells 56).any fun n => !(s.rd Fld.keySpare_cells).testBit n || (s.rd Fld.keyFenced_cells).testBit n) ||
    eightSpans.any fun b => a < b && (shareCells (m a) (m b) || shareLatch (m a) (m b))
  if bad then some 0x27
  else if s.dramUsable < (eightSpans.map fun a => if (m a).on then (m a).dram else 0).sum then some 0x35
  else none

/-- Whether span `sp` holds a model. -/
def holdsModel (s : State) (sp : Nat) : Bool := (s.span sp).cur.isSome || (s.span sp).old.isSome || (s.span sp).building.isSome

/-- Whether the pairing of a target with its draft span is legal (R276). -/
def pairOk (s : State) (m : Nat → SpanRec) (sp : Nat) : Bool :=
  match (m sp).draft with
  | none => true
  | some d =>
    d != sp && (m d).on && (m d).draft.isNone && (eightSpans.filter fun a => (m a).on && (m a).draft == some d).length == 1 &&
    match (s.span sp).cur, (s.span d).cur with
    | some a, some b => a.hdr.vocab == b.hdr.vocab && a.tokSum == b.tokSum && b.hdr.flags.testBit 0
    | _, _ => false

/-- Whether a training job runs on span `sp`. -/
def training (s : State) (sp : Nat) : Bool := s.ops.any fun e => e.2.live && e.2.span == sp && e.2.opcode == 0x60

/-- The registers that report the map (`SRV_SPAN_CFG`, the map's fields of `KVW_CFG`). -/
def writeSpanCfg (s : State) (sp : Nat) : State :=
  let r := (s.span sp).cfg
  let s := s.setReg .srvSpanCfg 0 sp (BitVec.ofNat 64
    (b2n (s.isDraft sp) * 2 ^ 16 + b2n r.draft.isSome * 2 ^ 15 + r.draft.getD 0 * 2 ^ 12 + (if r.on then r.chunk else 256)))
  if r.on then
    ((((s.wr Fld.kvwCfg_gust (b2n (r.bits.testBit 0)) 0 sp).wr Fld.kvwCfg_train (b2n (r.bits.testBit 1)) 0 sp).wr
      Fld.kvwCfg_t3En (b2n (r.bits.testBit 2)) 0 sp).wr Fld.kvwCfg_parkDemote (b2n (r.bits.testBit 3)) 0 sp)
  else s

/-- One record put into the map (R18, R19, R406): cells that leave are gated, cells that join are powered; roles and cells of roles stay. -/
def applyRec (s : State) (sp : Nat) (r : SpanRec) : State :=
  let old := (s.span sp).cfg
  let s := s.modSpan sp fun x => { x with cfg := if r.on then { r with roles := old.roles } else {} }
  forEach (List.range 56) (fun n t =>
    if r.on && r.cells.testBit n then t.placeCell n sp else if t.cellSpan n = sp then t.placeCell n 0xF else t) s

/-- Records put into the map: first those that give up cells. -/
def applyRecs (s : State) (l : List (Nat × SpanRec)) : State :=
  let s := forEach l (fun e t => forEach (List.range 56) (fun n u =>
    if u.cellSpan n = e.1 ∧ !(e.2.on && e.2.cells.testBit n) then u.placeCell n 0xF else u) t) s
  forEach eightSpans (fun sp t => t.writeSpanCfg sp) (forEach l (fun e t => t.applyRec e.1 e.2) s)

/-- A committed configuration (R285, R490): the epoch rises, and the dies that answer return it. -/
def newEpoch (s : State) (deaf : List Nat) : State :=
  let s := s.wr Fld.srvCfgEpoch_epoch (s.rd Fld.srvCfgEpoch_epoch + 1)
  let e := s.rd Fld.srvCfgEpoch_epoch
  forEach (List.range 6) (fun i t => if t.dieServing i && !deaf.contains i then t.wr Fld.keyDie_epoch e 0 i else t) s

/-! ### Commands -/

/-- Whether a commit drains its spans (R285): one that touches several. -/
def draining (s : State) : Bool := s.commits.any fun c => 2 ≤ c.spans.length

/-- The owner of the shadow set; 0 is none. -/
def shadowOwner (s : State) : Nat := s.rd Fld.srvStatus_shadowOwner

/-- The shadow set discarded. -/
def dropShadow (s : State) : State :=
  (({ s with shadow := [] } : State).wr Fld.srvStatus_shadowOwner 0).wr Fld.srvStatus_shadowHeld 0

/-- SPAN_CONFIGURE (R282): at once, for an EMPTY span that takes nothing from another; the refusals of R22 come first. -/
def spanConfigure (s : State) (c : Caller) (pkt : Packet) : State :=
  let sp := pkt.span
  let r := SpanRec.ofBody pkt.body
  let m := s.mapWith [(sp, r)]
  if r.on ∧ !r.inRange then s.fin c 0x27
  else match s.mapStatus m with
    | some st => s.fin c st
    | none =>
      if s.rd Fld.imgSpan_state 0 sp ≠ 0 ∨ s.spanBusy sp ∨ s.training sp ∨
          (eightSpans.any fun a => a != sp && (shareCells r (s.span a).cfg || shareLatch r (s.span a).cfg)) ∨ !s.pairOk m sp then s.fin c 0x2E
      else (s.applyRecs [(sp, r)]).fin c 0x00

/-- CONFIG_STAGE (R283). -/
def configStage (s : State) (c : Caller) (pkt : Packet) : State :=
  let sp := pkt.span
  let r := SpanRec.ofBody pkt.body
  if s.draining then s.fin c 0x14
  else if s.shadowOwner ≠ 0 ∧ s.shadowOwner ≠ portIdent c.port then s.fin c 0x15
  else if r.on ∧ !r.inRange then s.fin c 0x27
  else if r.on ∧ s.holdsModel sp ∧ r.bits ≠ (s.span sp).cfg.bits then s.fin c 0x2E
  else
    let s := (s.wr Fld.srvStatus_shadowOwner (portIdent c.port)).wr Fld.srvStatus_shadowHeld 1
    ({ s with shadow := s.shadow.filter (fun e => e.1 != sp) ++ [(sp, r)] } : State).fin c 0x00

/-- The spans with a map in place of theirs, for the test of R284. -/
def withMap (s : State) (l : List (Nat × SpanRec)) : State := forEach l (fun e t => t.modSpan e.1 fun x => { x with cfg := e.2 }) s

/-- Whether every affected span carries its admitted requests on the new layout (R284). -/
def carries (s : State) (l : List (Nat × SpanRec)) : Bool :=
  let t := s.withMap l
  l.all fun e => t.passes e.1 ((t.guaranteed e.1).map t.loadOf)

/-- Guarantees withdrawn until the new layout carries the rest (R284). -/
def forceCarry (s : State) (l : List (Nat × SpanRec)) : State :=
  let t := forEach l (fun e t => t.shed e.1) (s.withMap l)
  forEach l (fun e t => t.modSpan e.1 fun x => { x with cfg := (s.span e.1).cfg }) t

/-- The first refusal of R284 for the shadow set; `none` passes. -/
def commitStatus (s : State) (force : Bool) : Option Nat :=
  let m := s.mapWith s.shadow
  match s.mapStatus m with
  | some st => some st
  | none =>
    if eightSpans.any fun sp => (s.holdsModel sp && (s.span sp).cfg.roles.any fun n => !(m sp).cells.testBit n) || !s.pairOk m sp then some 0x2E
    else if s.shadow.any fun e => s.spanBusy e.1 || s.training e.1 then some 0x12
    else if !force && !s.carries s.shadow then some 0x31
    else none

/-- CONFIG_COMMIT (R283 to R285): one span takes its record at its next boundary; several are drained. -/
def configCommit (s : State) (c : Caller) (pkt : Packet) : State :=
  if s.draining then s.fin c 0x14
  else if s.shadowOwner ≠ 0 ∧ s.shadowOwner ≠ portIdent c.port then s.fin c 0x15
  else if s.shadow.isEmpty then s.fin c 0x2F
  else if pkt.discard then s.dropShadow.fin c 0x00
  else match s.commitStatus pkt.force with
    | some st => s.fin c st
    | none =>
      let l := s.shadow
      let s := if s.carries l then s else s.forceCarry l
      let k : Commit := { recs := l, spans := l.map (·.1), drained := [], paused := [], force := pkt.force }
      let s := ({ s with commits := s.commits ++ [k] } : State).dropShadow
      let s := if 2 ≤ l.length then s.wr Fld.srvStatus_draining (maskOf (l.map (·.1))) else s
      s.fin c 0x00

/-- Whether a commit has to wait for another (R18): one of the same spans came before it, or a cell or latch that it takes still belongs to another
span under the map in force (log entry 79). -/
def commitWaits (s : State) (k : Commit) : Bool :=
  ((s.commits.takeWhile fun c => c != k).any fun c => c.spans.any k.spans.contains) ||
  k.recs.any fun e => eightSpans.any fun a =>
    !(k.spans.contains a) && (shareCells e.2 (s.span a).cfg || shareLatch e.2 (s.span a).cfg)

/-- A commit at a step boundary of span `sp` (R260 item 3, R285): a single span's record applies; of several, each first stops admission,
then pauses, and the last to pause switches the map. Admission stays stopped in a span that is being unloaded (R248). -/
def commitStep (s : State) (sp : Nat) (deaf : List Nat) (k : Commit) : State :=
  let done := fun (s : State) => (({ s.busy with commits := s.commits.erase k } : State).applyRecs k.recs).newEpoch deaf
  let put := fun (s : State) (k' : Commit) => ({ s with commits := s.commits.map fun c => if c = k then k' else c } : State)
  if !k.spans.contains sp || k.paused.contains sp || s.commitWaits k then s
  else if k.spans.length = 1 then done s
  else if !k.drained.contains sp then (put s { k with drained := sp :: k.drained }).modSpan sp fun x => { x with admitStop := true }
  else if k.spans.all fun a => a == sp || k.paused.contains a then
    (forEach k.spans (fun a t => t.modSpan a fun x => { x with admitStop := x.unload.isSome || x.lost, paused := false }) (done s)).wr
      Fld.srvStatus_draining 0
  else (put s { k with paused := sp :: k.paused }).modSpan sp fun x => { x with paused := true }

/-- Every commit that waits, in the order they came. -/
def commitBoundary (s : State) (sp : Nat) (deaf : List Nat) : State := forEach s.commits (fun k t => t.commitStep sp deaf k) s

end State

/-- SPAN_CONFIGURE, opcode 0x30. -/
def execSpanConfigure (p : PortId) (pkt : Packet) (s : State) : Out := .next (s.serve 0x30 p pkt fun c pkt s => s.spanConfigure c pkt)
/-- CONFIG_STAGE, opcode 0x31. -/
def execConfigStage (p : PortId) (pkt : Packet) (s : State) : Out := .next (s.serve 0x31 p pkt fun c pkt s => s.configStage c pkt)
/-- CONFIG_COMMIT, opcode 0x32. -/
def execConfigCommit (p : PortId) (pkt : Packet) (s : State) : Out := .next (s.serve 0x32 p pkt fun c pkt s => s.configCommit c pkt)

/-- A die has not returned the new epoch within 100 µs (R490): one more write; when it still disagrees, a module reset follows. -/
def execEpochReadbackTimeout (die : Fin 6) (again : Bool) (s : State) : Out :=
  let e := s.rd Fld.srvCfgEpoch_epoch
  if !s.dieServing die || s.rd Fld.keyDie_epoch 0 die == e then .next s
  else if again then .next ((s.keyFault 0x07 0 die.val).requestReset .dieMismatch)
  else .next (s.wr Fld.keyDie_epoch e 0 die)

end Sys2Proof.Machine
end

