-- ==== Sys2Proof/Machine/Tiers.lean ====
section
/-!
DEFINITION. Objects and tiers at work (06, R164 to R167, R173 to R185; 16, R502): the object commands, the ends of moves, evictions, the
patrol scrub, retired frames and channels, completion timeouts.
-/
namespace Sys2Proof.Machine
namespace State

/-! ### Ends of moves and revokes (R164, R176, R177) -/

/-- A request's data object lost in a forced revoke: the request ends as its port's cancellation mode lays down (R177). -/
def cancelHolders (s : State) (o : Nat) : State :=
  forEach s.slots (fun e t =>
    if e.2.st ≠ 0 ∧ e.2.pageObj = o + 1 then t.cancelSlot e.1 (t.flag Fld.hptCtrl_cancelMode (e.2.ident - 1)) else t) s

/-- A place applied to a RESIDENT object: at once where it already lives there, else by a move; 0x35 without room (R175). -/
def applyPlace (s : State) (o : Nat) (h : HeldCmd) : State :=
  if (s.obj o).e.home = h.tier then s.fin h.who 0x00
  else match s.placeObj o h.tier h.col (some h) with
    | some t => t
    | none => s.fin h.who 0x35

/-- Whether the tier runtime may move an object out of T1 (R166, R173). -/
def evictable (s : State) (o tier : Nat) : Bool :=
  let e := (s.obj o).e
  !e.window && e.home == 1 && (if tier = 2 then e.originEn && e.ro else tier == 3)

/-- An eviction of object `o` to a lower tier (R173). -/
def evict (s : State) (o tier : Nat) : State :=
  let x := s.obj o
  if x.e.st = stMoving then
    (s.modObj o fun x => { x with e := { x.e with defer := true }, deferTo := tier }).bump Fld.tieDeferCnt_count
  else if x.e.st = stResident ∧ x.e.pins = 0 ∧ s.evictable o tier then (s.placeObj o tier 0 none).getD s
  else s

/-- The bytes of an object that moves within T1 copied to its new home, with their poison; every other move carries its tiles by legs, or no
data at all (R166). -/
def copyHome (s : State) (o : Nat) : State :=
  let x := s.obj o
  let n := x.e.bytes
  if x.e.home = 1 ∧ x.e.dest = 1 then (s.homeWrite x.e 1 x.destAddr 0 (s.objRead o 0 n)).poisonT1 x.destAddr (s.objPoison o 0 n) else s

/-- Every move in flight with its engine. -/
def allMoves (s : State) : List (Nat × Move) := (List.range 57).flatMap fun e => (s.movesOf e).map fun m => (e, m)

/-- Moves whose writes to object `o` the tier engine held end with their status, in issue order (R165). -/
def endHeld (s : State) (o : Nat) : State :=
  let l := s.allMoves.filter fun m => m.2.held.isSome && Desc.dstKind m.2.desc == 2 && Desc.dstObj m.2.desc == o
  forEach (sortBy (fun (m : Nat × Move) => m.2.id) l) (fun m t => t.endMove m.1 m.2 (m.2.held.getD 0)) s

/-- The end of an object's move (R164, R165): its new home, held writes in issue order, then a held revoke or a held place, and a deferred
eviction looked at again. -/
def arrive (s : State) (o : Nat) : State :=
  let x := s.obj o
  let left := if x.e.home = 3 then x.e.parent else none
  let s := s.modObj o fun x =>
    { x with e := { x.e with st := stResident, home := x.e.dest, dest := 0, addr := x.destAddr, defer := false,
                             parent := if x.e.dest = 3 then x.e.parent else none },
             slot := false, placing := none, place := none, writes := [], load := 0, pack := none, deferTo := 0 }
  let e := (s.obj o).e
  let s := forEach (sortBy (fun (w : HeldWrite) => w.order) x.writes)
    (fun w t => (t.homeWrite e e.home e.addr w.off w.bytes).objSpoil o w.off w.poison) s
  let s := (s.endHeld o).finHeld x.placing 0x00
  let s := match x.revoke, x.place with
    | some h, p => (s.finHeld p 0x00).startRevoke o h
    | none, some h => s.applyPlace o h
    | none, none => s
  let s := if x.e.defer then s.evict o x.deferTo else s
  (s.leaveWindow left).pumpAll

/-- Whether a read of object `o` issued against its old home is still out (R164, R167): a move that has begun, or a walker's. -/
def readsOut (s : State) (o : Nat) : Bool :=
  s.allMoves.any (fun m => !m.2.waiting && m.2.held.isNone && Desc.srcKind m.2.desc == 2 && Desc.srcObj m.2.desc == o) ||
  s.kv.pieces.any fun p => (s.slot p.slot).pageObj == o + 1

/-- OBJECT_MOVE_END for a move that the tier engine carries out: it has its slot, every tile has arrived, and every read against the old home is
complete (R142, R164). -/
def moveEnd (s : State) (o : Nat) : State :=
  let x := s.obj o
  if x.e.st ≠ stMoving ∨ x.load ≠ 0 ∨ !x.slot ∨ (x.byLegs ∧ x.got < x.e.tiles) ∨ s.readsOut o then s else (s.copyHome o).arrive o

/-! ### The object commands (R174 to R177, R179) -/

/-- OBJ_REGISTER. -/
def objRegister (s : State) (c : Caller) (pkt : Packet) : State :=
  let addr := pkt.fld 0 8
  let len := pkt.fld 8 8
  let kind := pkt.fld 0x11 1
  let fmt := pkt.fld 0x12 1
  let b := pkt.fld 0x13 1
  let mx := b.testBit 0
  let gust := b / 2 % 8
  let tile := tileBytes fmt mx gust
  if 1 < kind ∨ 32 ≤ b ∨ !fmtOk fmt ∨ 4 < gust ∨ (kind = 1 ∧ tile = 0) then s.fin c 0x27
  else if addr % 4096 ≠ 0 ∨ len % 4096 ≠ 0 ∨ len = 0 ∨ 2 ^ 64 < addr + len ∨ (kind = 1 ∧ len % tile ≠ 0) ∨
      2 ^ 32 ≤ len / (if kind = 1 then tile else 4096) then s.fin c 0x22
  else
    let e : DirEntry := { st := stResident, home := 3, window := kind == 0, fmt := if kind = 1 then fmt else 0, mx := kind == 1 && mx,
                          gust := if kind = 1 then gust else 0, grant := pkt.fld 0x10 1, owner := portIdent c.port,
                          ro := kind == 1 && b.testBit 4, addr, tiles := len / (if kind = 1 then tile else 4096) }
    match s.allocObj { e, buffer := if kind = 1 then addr + 1 else 0 } with
    | none => s.fin c 0x34
    | some (n, t) => t.final c 0x00 0 (leBytes 4 n ++ leBytes 4 0)

/-- Whether a port may place or query an object: its own, or a device object with the model-load permission (R175). -/
def mayPlace (s : State) (p : Nat) (e : DirEntry) : Bool := e.owner == portIdent p || (e.owner == 0 && s.perm p 0)

/-- OBJ_PLACE. -/
def objPlace (s : State) (c : Caller) (pkt : Packet) : State :=
  let o := pkt.fld 0 4
  let tier := pkt.fld 4 1
  let col := pkt.fld 5 1
  let x := s.obj o
  let h : HeldCmd := { who := c, tier, col, force := false }
  if 131072 ≤ o ∨ x.e.st = 0 then s.fin c 0x21
  else if !s.mayPlace c.port x.e then s.fin c 0x41
  else if 3 < tier then s.fin c 0x27
  else if pkt.query then s.final c 0x00 0 x.e.encode
  else if tier = 0 then s.fin c 0x27
  else if x.e.st = stLost then s.fin c 0x51
  else if x.e.st = stRevoking then s.fin c 0x13
  else if tier = 1 ∧ 8 ≤ col then s.fin c 0x22
  else if x.e.window ∨ (tier = 2 ∧ !(x.e.originEn && x.e.ro)) then s.fin c 0x21
  else if x.e.st = stMoving then (s.finHeld x.place 0x00).modObj o fun x => { x with place := some h }
  else s.applyPlace o h

/-- The objects of a window sent to T1 before it is revoked (R177); those that T1 cannot take become LOST under FORCE. One that is on the move
goes on when it has arrived, and loses its held place (R164). -/
def drainChildren (s : State) (force : Bool) : List Nat → Option State
  | [] => some s
  | o :: r =>
    let x := s.obj o
    if x.e.st = stMoving then ((s.finHeld x.place 0x00).modObj o fun x => { x with place := none }).drainChildren force r
    else match (List.range 8).findSome? fun c => s.placeObj o 1 c none with
      | some t => t.drainChildren force r
      | none => if force then ((s.cancelHolders o).loseObj o).drainChildren force r else none

/-- OBJ_REVOKE. -/
def objRevoke (s : State) (c : Caller) (pkt : Packet) : State :=
  let o := pkt.fld 0 4
  let x := s.obj o
  let h : HeldCmd := { who := c, tier := 0, col := 0, force := pkt.force }
  if 131072 ≤ o ∨ x.e.st = 0 then s.fin c 0x21
  else if x.e.owner ≠ portIdent c.port then s.fin c 0x41
  else if !x.e.window && x.buffer == 0 then s.fin c 0x21
  else if x.e.st = stLost then s.fin c 0x51
  else if x.e.st = stRevoking ∨ x.revoke.isSome then s.fin c 0x13
  else if x.e.st = stMoving then
    (s.finHeld x.place 0x00).modObj o fun x => { x with place := none, revoke := some h }
  else if x.e.window then
    match s.drainChildren pkt.force (s.children o) with
    | none => s.fin c 0x35
    | some t => (t.modObj o fun x => { x with revoke := some h }).drainWindow o
  else s.startRevoke o h

/-- An object that arrived in a window whose revoke waits goes on to T1 (R177); without room there the revoke ends with 0x35 and the window
stays, or under FORCE the object is lost (log entry 75). -/
def drainArrivals (s : State) (o : Nat) : State :=
  let e := (s.obj o).e
  match e.parent with
  | none => s
  | some w =>
    match (if e.st = stResident ∧ e.home = 3 then (s.obj w).revoke else none) with
    | none => s
    | some h =>
      match s.drainChildren h.force [o] with
      | some t => t.drainWindow w
      | none => (s.modObj w fun x => { x with revoke := none }).fin h.who 0x35

/-! ### DRAM errors (R126, R130, R180 to R185) -/

/-- A channel retired (R184, R185): its copy to the spare of its stack starts, or there is none; either is a capacity loss (R311). The stacks' copies run independently. -/
def retireChannel (s : State) (ch : Nat) : State :=
  let st := ch / 17
  let used := if st = 0 then s.flag Fld.tieSlotMap_s0Used else s.flag Fld.tieSlotMap_s1Used
  if s.tier.copies.contains (st, ch % 17) then s
  else if used || s.tier.copies.any (fun c => c.1 == st) || ch % 17 == 16 || s.tier.spareBad.contains st then
    ((s.wr (if st = 0 then Fld.tieStatus_noSpare0 else Fld.tieStatus_noSpare1) 1).noticeDev 0x07 noSpan st).capacityLossAll
  else ((s.modTier fun t => { t with copies := t.copies ++ [(st, ch % 17)] }).wr Fld.tieStatus_migrating 1).capacityLossAll

/-- Whether an object is a page-pool object of a span. -/
def poolOwner (s : State) (o : Nat) : Option (Nat × Nat) :=
  s.spans.findSome? fun e => (e.2.pools.find? fun p => p.2.obj == o && p.2.total != 0).map fun p => (e.1, p.1)

/-- A pool object that a retired frame meets becomes LOST (R183): the requests whose pages lie in the frame end with 0x52 at the next boundary.
Its other pages still serve their requests, and its frames in the retired one are never given out again (log entry 47). -/
def losePoolFrames (s : State) (sp k a : Nat) : State :=
  let p : PoolObj := SMap.get {} (s.span sp).pools k
  let x := s.obj p.obj
  let n := cdiv x.e.bytes (max 1 p.total)
  let hit := (List.range p.total).filter fun f => a < x.e.addr + (f + 1) * n && x.e.addr + f * n < a + 65536
  let slots := (s.spanSlots sp).filter fun i => !(s.slot i).t3 && (List.range (s.layersOf i)).any fun l =>
    (s.kvBlock i l).entries.any fun e => e.pool == k && hit.contains e.frame
  (s.loseObj p.obj).modSpan sp fun y => { y with
    pools := SMap.put {} y.pools k { p with used := hit ++ p.used }
    forced := y.forced ++ slots.map fun i => { slot := i, reason := 9, status := 0x52 } }

/-- An object with an origin brought to a fresh place, the tiles of the retired frame rewritten from its image (R183). -/
def rehome (s : State) (o a : Nat) : State :=
  let x := s.obj o
  let n := x.e.bytes
  match s.t1Find (x.e.addr / Config.sliceBytes) n with
  | none => s.loseObj o
  | some b =>
    let img := (s.lib x.e.image).first * 2 ^ 30 + x.e.originTile * x.e.tile
    let t := max 1 x.e.tile
    let fresh := (List.range x.e.tiles).filter fun i => a < x.e.addr + (i + 1) * t && x.e.addr + i * t < a + 65536
    let bad := (s.objPoison o 0 n).filter fun j => !fresh.any fun i => i * t < j * 64 + 64 && j * 64 < (i + 1) * t
    let s := s.dramWrite b (s.objRead o 0 n)
    let s := forEach fresh (fun i u => u.dramWrite (b + i * t) (u.flashRead (img + i * t) t)) s
    let s := s.modTier fun t => { t with poison := (t.poison ++ bad.map fun j => b / 64 + j).eraseDups }
    s.modObj o fun x => { x with e := { x.e with addr := b } }

/-- What a retired frame does to one object (R183). -/
def frameHits (s : State) (a o : Nat) : State :=
  let x := s.obj o
  let n := x.e.bytes
  let meets := fun (b : Nat) => a < b + n && b < a + 65536
  if x.e.st = stMoving ∧ x.e.dest = 1 ∧ meets x.destAddr then
    match s.t1Find (x.destAddr / Config.sliceBytes) n with
    | none => s.loseObj o
    | some b => (s.dramWrite b (readBytes 0 s.tier.dram x.destAddr n)).modObj o fun x => { x with destAddr := b }
  else if (x.e.st = stResident ∨ x.e.st = stMoving ∨ (s.poolOwner o).isSome) ∧ x.e.home = 1 ∧ meets x.e.addr then
    if x.e.originEn then s.rehome o a
    else match s.poolOwner o with
      | some (sp, k) => s.losePoolFrames sp k a
      | none => s.loseObj o
  else s

/-- Steward firmware retires the 64 KiB frame at T1 address `a` (R183). -/
def retireFrame (s : State) (a : Nat) : State :=
  let f := a / 65536
  if s.tier.retired.contains f then s
  else
    let s := s.modTier fun t => { t with retired := f :: t.retired }
    forEach s.objNums (fun o t => t.frameHits (f * 65536) o) s

/-- A corrected read counted, and the channel retired when it exceeds its threshold (R180, R184). -/
def dramCorrected (s : State) (ch : Nat) : State :=
  let win := ((SMap.get [] s.tier.ceWin ch) ++ [s.periods]).filter fun p => s.periods < p + max 1 (s.rd Fld.tieCeThresh_periods)
  let s := (s.bump Fld.tieDramCe_count 0 ch).modTier fun t => { t with ceWin := SMap.put [] t.ceWin ch win }
  if s.rd Fld.tieCeThresh_count < win.length then
    (s.modTier fun t => { t with ceWin := SMap.put [] t.ceWin ch [] }).retireChannel ch
  else s

/-- An uncorrectable word that persists (R181, R183, R184, R501): one that recurs at an address that has been rewritten since retires the
channel. -/
def dramUe (s : State) (ch n : Nat) : State :=
  let s := s.bump Fld.tieDramUe_count 0 ch
  let s := if s.flag Fld.tieStatus_dramUe then s
    else s.setReg .tieDramAddr 0 0 (BitVec.ofNat 64 (ch * 2 ^ 58 + s.periods % 2 ^ 20 * 2 ^ 32 + n))
  let s := (s.wr Fld.tieStatus_dramUe 1).aerAll .correctedInternal
  match s.lineAddr ch n with
  | none => s
  | some a =>
    let k := a / 64
    let again := s.tier.ueAt.any fun e => e.1 == k && e.2
    let s := s.modTier fun t => { t with ueAt := t.ueAt.filter (fun e => !(e.1 == k)) ++ [(k, false)], poison := (t.poison ++ [k]).eraseDups }
    let s := s.retireFrame a
    if again then s.retireChannel ch else s

/-- What the check bits met in a read of the T1 line at address `a` (R180, R181). -/
def dramRead (s : State) (a : Nat) (ecc : EccOutcome) : State :=
  let p := s.channelOf a
  match ecc with
  | .clean => s
  | .corrected => s.dramCorrected p.1
  | .uncorrectable _ _ => s.dramUe p.1 p.2

/-- The patrol's next line of a channel (R180). -/
def patrolRead (s : State) (ch : Nat) (ecc : EccOutcome) : State :=
  if !s.flag Fld.tieScrub_en then s
  else
    let n := SMap.get 0 s.tier.patrol ch
    let s := s.modTier fun t => { t with patrol := SMap.put 0 t.patrol ch ((n + 1) % channelLines) }
    match ecc with
    | .clean => s
    | .corrected => s.dramCorrected ch
    | .uncorrectable _ _ => s.dramUe ch n

/-- The oldest channel copy ends: the edge crossbar switches the slot to the spare (R126, R184). -/
def copyDone (s : State) : State :=
  match s.tier.copies with
  | [] => s
  | (st, j) :: r =>
    let s := (s.modTier fun t => { t with copies := r }).wr Fld.tieStatus_migrating (b2n (!r.isEmpty))
    if st = 0 then (s.wr Fld.tieSlotMap_s0Used 1).wr Fld.tieSlotMap_s0Slot j
    else (s.wr Fld.tieSlotMap_s1Used 1).wr Fld.tieSlotMap_s1Slot j

/-! ### Reads that meet errors (R119, R120, R180, R181) -/

/-- The T1 address of line `k` of the source of a move; `none` where the source lies elsewhere. -/
def srcAddr (s : State) (m : Move) (k : Nat) : Option Nat :=
  let e := (s.obj (Desc.srcObj m.desc)).e
  if Desc.srcKind m.desc ≠ 2 ∨ e.home ≠ 1 then none
  else
    let per := max 1 (Desc.srcUnit m.desc / 64)
    some (e.addr + s.objOff (Desc.srcObj m.desc) (Desc.srcTile m.desc) (k / per) (Desc.lines m.desc) + k % per * 64)

/-- What the reads of a move meet in its source before its data are carried: a cell's corrected words are counted, and uncorrectable lines are
poisoned where they stand. -/
def meetSource (s : State) (m : Move) (errs : List (Nat × EccOutcome)) : State :=
  forEach errs (fun e t => match e.2, m.src with
    | .clean, _ => t
    | .corrected, some (c, _) => t.corrected c 1
    | .corrected, none => t
    | .uncorrectable _ _, some (c, v) =>
      if e.1 * 64 < Desc.count m.desc * Desc.srcUnit m.desc then
        t.modCell c fun x => x.poisonLines [v.key (Desc.srcOff m.desc + e.1 * 64) / 64]
      else t
    | .uncorrectable _ _, none => match t.srcAddr m e.1 with
      | some a => t.poisonT1 a [0]
      | none => t) s

/-- MOVE_COMPLETE for move `m` of engine `e` whose reads meet `errs`, by line of the source. -/
def finishMove (s : State) (e : Nat) (m : Move) (errs : List (Nat × EccOutcome)) : State :=
  let addrs := errs.filterMap fun x => (s.srcAddr m x.1).map fun a => (a, x.2)
  forEach addrs (fun x t => t.dramRead x.1 x.2) ((s.meetSource m errs).completeMove e m errs)

/-- MOVE_COMPLETE for a walker's move whose reads meet `errs`, by line of the piece. -/
def finishPiece (s : State) (p : PieceMove) (errs : List (Nat × EccOutcome)) : State :=
  match s.pieceAddr p with
  | none => s.completePiece p
  | some a =>
    let bad := errs.filterMap fun x => match x.2 with
      | .uncorrectable _ _ => some x.1
      | _ => none
    forEach errs (fun x t => t.dramRead (a + x.1 * 64) x.2) ((s.poisonT1 a bad).completePiece p)

/-- OBJECT_MOVE_END for a move whose reads of T1 meet `errs`, by line of the object. -/
def finishObj (s : State) (o : Nat) (errs : List (Nat × EccOutcome)) : State :=
  let x := s.obj o
  if x.e.home ≠ 1 then s.moveEnd o
  else
    let bad := errs.filterMap fun e => match e.2 with
      | .uncorrectable _ _ => some e.1
      | _ => none
    forEach errs (fun e t => t.dramRead (x.e.addr + e.1 * 64) e.2) ((s.poisonT1 x.e.addr bad).moveEnd o)

/-- The counts of replays in a row on the links of cell `n` start again (log entry 40). -/
def linksFresh (s : State) (n : Nat) : State := { s with meshRetry := s.meshRetry.filter fun e => !(e.1 / 5 == n) }

/-! ### Lost objects of requests (R178, R502) -/

/-- Spans whose running step has a row of a request whose pages object `o` holds repeat that step (R502). -/
def repeatHolders (s : State) (o : Nat) : State :=
  forEach (List.range 8) (fun sp t =>
    if ((t.span sp).batch.elim [] (·.rows)).any fun r => (t.slot r.slot).pageObj == o + 1 then
      t.modSpan sp fun x => { x with again := true }
    else t) s

/-- A completion timeout of T3 leg `l` (R502, R501). -/
def t3Timeout (s : State) (l : Leg) : State :=
  let s := s.aer l.port .completionTimeout
  let s := (s.loseObj l.obj).repeatHolders l.obj
  s.legFail l

end State

/-- OBJ_REGISTER, opcode 0x40. -/
def execObjRegister (p : PortId) (pkt : Packet) (s : State) : Out := .next (s.serve 0x40 p pkt fun c pkt s => s.objRegister c pkt)
/-- OBJ_PLACE, opcode 0x41. -/
def execObjPlace (p : PortId) (pkt : Packet) (s : State) : Out := .next (s.serve 0x41 p pkt fun c pkt s => s.objPlace c pkt)
/-- OBJ_REVOKE, opcode 0x42. -/
def execObjRevoke (p : PortId) (pkt : Packet) (s : State) : Out := .next (s.serve 0x42 p pkt fun c pkt s => s.objRevoke c pkt)

/-- A tile move completes (R136), when nothing holds it: the one with place `e.id` in flight of cell `n`, after those the ones that walkers deliver to it,
or with n = 56 among those that the tier engine issued. A fenced cell's engine stands still. A cell's links' replay counts start again (log entry 40). -/
def execMoveComplete (n : Fin 57) (e : ReadsEnd) (s : State) : Out :=
  let l := s.movesOf n
  if n.val < 56 && s.cellFenced n then .next s
  else
    let fresh := s.linksFresh n
    match l[e.id]? with
    | some m => if s.canComplete n m then .next (fresh.finishMove n m e.errs) else .next s
    | none =>
      match (s.piecesTo n)[e.id - l.length]? with
      | some p => if p.leg || (State.inWeights p.view && s.dualRuns n) then .next s else .next (fresh.finishPiece p e.errs)
      | none => .next s

/-- The tier runtime evicts an object (R173). -/
def execEviction (obj tier : Nat) (s : State) : Out := .next (s.evict obj tier)
/-- The patrol scrub of a channel reads its next line (R180). -/
def execDramPatrolRead (ch : Fin 34) (ecc : EccOutcome) (s : State) : Out := .next (s.patrolRead ch ecc)
/-- A channel copy ends (R184). -/
def execChannelCopyDone (s : State) : Out := .next s.copyDone
/-- A T3 fetch leg suffers Completion Timeout (R502). -/
def execT3CompletionTimeout (leg : Nat) (s : State) : Out :=
  match (s.tier.legs.find? fun l => l.id == leg && l.tier == 3) with
  | some l => .next (s.t3Timeout l)
  | none => .next s

end Sys2Proof.Machine
end

