-- ==== Sys2Proof/Machine/Images.lean ====
section
/-!
DEFINITION. Images, their loading, swapping and unloading (08, R226 to R250; 11, R318 to R320), and the host jobs on the flash (07, R213, R221,
R225).
-/
namespace Sys2Proof.Machine

/-! ### The image (R226 to R228) -/

/-- The header's numbers (R227). -/
def ImageHdr.parse (l : List Byte) : ImageHdr :=
  { flags := leAt l 0x0A 2, roles := leAt l 0x0C 2, layers := leAt l 0x0E 2, imageBytes := leAt l 0x10 8, modelId := leAt l 0x18 16,
    generation := leAt l 0x28 4, vocab := leAt l 0x2C 4, maxPos := leAt l 0x30 4, kvHeads := leAt l 0x34 2, headDim := leAt l 0x36 2,
    kvFmt := byteAt l 0x38, kvBytesPos := leAt l 0x3C 4, t1Bytes := leAt l 0x40 8, t2StepBytes := leAt l 0x48 8, opsToken := leAt l 0x50 8 }

/-- Offset and length of section `k`: 0 roles, 1 objects, 2 layer map, 3 tokenizer, 4 step programme, 5 tile stream. -/
def hdrSection (l : List Byte) (k : Nat) : Nat × Nat := (leAt l (0x60 + 16 * k) 8, leAt l (0x68 + 16 * k) 8)

/-- ASCII "TODERIMG". -/
def imageMagic : List Byte := [0x54, 0x4F, 0x44, 0x45, 0x52, 0x49, 0x4D, 0x47]

/-- The rules of R226 and R227 on the header; `limit` is the space the image may take. -/
def headerOk (l : List Byte) (limit : Nat) : Bool :=
  let h := ImageHdr.parse l
  l.take 8 == imageMagic && leAt l 8 2 == 1 && h.flags < 8 && 1 ≤ h.roles && h.roles ≤ 48 && 1 ≤ h.layers && h.layers ≤ 1024 &&
  h.imageBytes % 4096 == 0 && 4096 ≤ h.imageBytes && h.imageBytes ≤ limit && 1 ≤ h.vocab && h.vocab ≤ 262144 &&
  (h.kvFmt == 0x3 || h.kvFmt == 0x1) && bodyClean [(0, 0x39), (0x3C, 0x1C), (0x60, 0xF1), (0x154, 96)] l &&
  (List.range 6).all fun k =>
    let (o, n) := hdrSection l k
    o % 4096 == 0 && 4096 ≤ o && o + n ≤ h.imageBytes

/-- An object-table entry (R228). -/
structure ImgObj where
  role   : Nat
  fmt    : Nat
  mx     : Bool
  gust   : Nat
  tier   : Nat
  ro     : Bool
  tiles  : Nat
  offset : Nat
  layer  : Nat
  clean  : Bool
  deriving DecidableEq, Repr

/-- The entry that 32 bytes spell. -/
def ImgObj.parse (l : List Byte) : ImgObj :=
  let w := leAt l 0 8
  { role := nbits w 15 0, fmt := nbits w 19 16, mx := w.testBit 20, gust := nbits w 23 21, tier := nbits w 25 24, ro := w.testBit 26,
    tiles := nbits w 63 32, offset := leAt l 8 8, layer := leAt l 16 2, clean := nbits w 31 27 == 0 && leAt l 18 14 == 0 }

/-- Tile bytes of an entry. -/
def ImgObj.tile (o : ImgObj) : Nat := tileBytes o.fmt o.mx o.gust
/-- Bytes of an entry's extent. -/
def ImgObj.bytes (o : ImgObj) : Nat := o.tiles * o.tile

/-- The rules of R226 and R228 on an entry of an image of `layers` layers whose tile stream is `n` bytes at `a`. -/
def ImgObj.ok (o : ImgObj) (layers a n : Nat) : Bool :=
  o.clean && (o.layer < layers || o.layer == 0xFFFF) && (o.tier == 1 || o.tier == 2) && o.tile != 0 && 1 ≤ o.tiles && o.offset % 4096 == 0 && o.offset % o.tile == 0 &&
    a ≤ o.offset && o.offset + o.bytes ≤ a + n

/-- A role of no cell: module-level (R228). -/
def noRole : Nat := 0xFFFF

namespace State

/-- `n` bytes of image `i` from `off`. -/
def imgBytes (s : State) (i off n : Nat) : List Byte := s.flashRead ((s.lib i).first * 2 ^ 30 + off) n
/-- The header of image `i`. -/
def imgHeader (s : State) (i : Nat) : List Byte := s.imgBytes i 0 4096
/-- Section `k` of image `i`. -/
def imgSection (s : State) (i k : Nat) : List Byte :=
  let (o, n) := hdrSection (s.imgHeader i) k
  s.imgBytes i o n
/-- The object table of image `i`. -/
def imgObjs (s : State) (i : Nat) : List ImgObj :=
  let t := s.imgSection i 1
  (List.range (t.length / 32)).map fun j => ImgObj.parse (slice t (32 * j) 32)
/-- The tables of image `i` that the source gives no layout for: role table, layer map, step programme (log entry 20). -/
def imgTables (s : State) (i : Nat) : List Byte := s.imgSection i 0 ++ s.imgSection i 2 ++ s.imgSection i 4

/-- Every rule of R226 to R228. -/
def imgRules (s : State) (i : Nat) : Bool :=
  let h := s.imgHeader i
  let (a, n) := hdrSection h 5
  headerOk h ((s.lib i).units * 2 ^ 30) && (hdrSection h 1).2 % 32 == 0 && (s.imgObjs i).all fun o => o.ok (ImageHdr.parse h).layers a n

/-! ### Checks of an image (R229) -/

/-- The key slot and the signature of image `i` (R229, R234). -/
def imgSigned (s : State) (i : Nat) : Bool :=
  let h := s.imgHeader i
  let key := slice h 0xF0 97
  s.keyIn 3 15 key && signatureOk (sha384 (h.take 0x154)) key (slice h 0x154 96)

/-- The four checks of R229. -/
def imgValid (s : State) (i : Nat) : Bool :=
  let h := s.imgHeader i
  s.imgSigned i && sha384 (s.imgBytes i 4096 ((ImageHdr.parse h).imageBytes - 4096)) == slice h 0xC0 48 && s.imgRules i

/-! ### Long operations of a span -/

/-- An object given up by its span: FREE when no pin holds it, else when the last has gone (R162). Legs of a move of its own end. -/
def dropObj (s : State) (o : Nat) : State :=
  let own := fun (l : Leg) => l.engine == 57 && l.obj == o
  (s.modTier fun t => { t with legs := t.legs.filter fun l => !own l, legWait := t.legWait.filter fun l => !own l }).freeObj o

/-- The pool objects of copy `k` of a span given up. -/
def dropPools (s : State) (sp k : Nat) : State :=
  let l := (s.span sp).pools.filter fun e => e.1 / 8 == k
  (forEach l (fun e t => t.dropObj e.2.obj) s).modSpan sp fun x => { x with pools := x.pools.filter fun e => e.1 / 8 != k }

/-- The step programmes of a copy taken out of its span's cells, unless another copy there is of the same image (R240). -/
def dropProgs (s : State) (sp : Nat) (c : ModelCopy) : State :=
  let x := s.span sp
  let same := fun (d : ModelCopy) => d.copyNo != c.copyNo && d.hdr.modelId == c.hdr.modelId && d.hdr.generation == c.hdr.generation
  if [x.cur, x.old, x.building].any fun d => d.any same then s
  else forEach (s.spanCells sp) (fun n t => t.modCell n fun y =>
    { y with progs := y.progs.filter fun p => !(p.modelId == c.hdr.modelId && p.generation == c.hdr.generation) }) s

/-- A model copy's objects, pools and step programmes given up. -/
def dropCopy (s : State) (sp : Nat) (c : Option ModelCopy) : State :=
  match c with
  | none => s
  | some c => ((forEach c.objs (fun o t => t.dropObj o) s).dropPools sp c.copyNo).dropProgs sp c

/-- Columns that hold cells of a span, ascending. -/
def spanColumns (s : State) (sp : Nat) : List Nat :=
  (List.range 8).filter fun c => (List.range 7).any fun r => (s.span sp).cfg.cells.testBit (r * 8 + c)

/-- The INT8 tiles that a span's own T1 object of `n` bytes takes (log entry 45), with the port whose request owns its data, if any (R158). -/
def plainEntry (sp addr n owner : Nat) : DirEntry :=
  { st := stResident, home := 1, fmt := 0x8, grant := 2 ^ sp, owner, addr, tiles := cdiv n 4096 }

/-- The pool objects of one copy carved (R320): one for each column with cells of the span, the frames split evenly with the remainder in the
lowest columns. -/
def carvePools (s : State) (sp k : Nat) (h : ImageHdr) : Option State :=
  let cols := s.spanColumns sp
  let n := (s.span sp).cfg.kv
  let share := fun (j : Nat) => n / max 1 cols.length + b2n (decide (j < n % max 1 cols.length))
  (cols.zipIdx).foldl (fun a e => a.bind fun t =>
    let m := share e.2
    if m = 0 then some t
    else (t.t1Find e.1 (m * t.frameBytes sp h)).bind fun b =>
      (t.allocObj { e := plainEntry sp b (m * t.frameBytes sp h) 0 }).map fun (o, u) =>
        u.modSpan sp fun x => { x with pools := SMap.put {} x.pools (k * 8 + e.1) { obj := o, total := m, used := [] } }) (some s)

/-- The registers that report a span's current copy (`IMG_SPAN`, `KVW_FRAME`, `KVW_ROPE`). -/
def showCopy (s : State) (sp : Nat) : State :=
  match (s.span sp).cur with
  | none => ((s.wr Fld.kvwFrame_pieces 0 0 sp).wr Fld.kvwFrame_lines 0 0 sp).wr Fld.kvwRope_valid 0 0 sp
  | some c =>
    let s := (s.wr Fld.imgSpan_generation c.hdr.generation 0 sp).wr Fld.imgSpan_image c.image 0 sp
    let s := (s.wr Fld.kvwFrame_pieces c.hdr.pieces 0 sp).wr Fld.kvwFrame_lines (s.frameBytes sp c.hdr / 64) 0 sp
    match c.rope with
    | some o => (s.wr Fld.kvwRope_object o 0 sp).wr Fld.kvwRope_valid 1 0 sp
    | none => s.wr Fld.kvwRope_valid 0 0 sp

/-- The running roles of a span's cells (R233). -/
def showRoles (s : State) (sp : Nat) : State :=
  let roles := (s.span sp).cfg.roles
  forEach (bitList (s.span sp).cfg.cells 56) (fun n t => t.modCell n fun c => { c with role := roles.findIdx? (· == n) }) s

/-- A span emptied: objects, pools, adapters and relay state freed; it stays configured (R248). -/
def emptySpan (s : State) (sp : Nat) : State :=
  let x := s.span sp
  let s := ((s.dropCopy sp x.cur).dropCopy sp x.old).dropCopy sp x.building
  let vers := (s.adapters.filter fun e => e.1 / 65536 == sp).flatMap fun e => e.2.vers.flatMap (·.objs)
  let s := forEach vers (fun o t => t.dropObj o) s
  let s : State := { s with adapters := s.adapters.filter fun e => e.1 / 65536 != sp }
  let s := s.modSpan sp fun x => { x with cur := none, old := none, building := none, dual := false, loading := false, unload := none,
                                          admitStop := false, turnOld := false, pools := [], swapPort := none, cfg := { x.cfg with roles := [] } }
  ((s.showRoles sp).showCopy sp).setReg .imgSpan 0 sp 0

/-! ### MODEL_LOAD and MODEL_SWAP (R232 to R247) -/

/-- Roles of a new image of `n` roles (R233): the cells of the current roles in the map's order, then the span's other active cells in ascending
order. The map keeps the cells of the current copy's roles beside them. -/
def newRoles (s : State) (sp n : Nat) : List Nat :=
  let r := (s.span sp).cfg.roles
  (r ++ (bitList (s.span sp).cfg.cells 56).filter fun c => !r.contains c).take (max n r.length)

/-- Whether a header, its tables and its tokenizer are those of a model that the span can take (R232, R318, R441). -/
def imgLoadable (s : State) (sp i : Nat) : Bool :=
  let h := ImageHdr.parse (s.imgHeader i)
  s.imgRules i && h.roles ≤ popCount (s.span sp).cfg.cells 56 && (h.headDim == 64 || h.headDim == 128) && 1 ≤ h.kvHeads && h.kvHeads ≤ 32 &&
    Config.tablesOk (s.imgTables i) && (Config.tokenizerOf (s.imgSection i 3)).texts.all fun t => t.length ≤ 40

/-- The refusals of R232, with those of a swap (R247, R248); `none` passes. -/
def loadStatus (s : State) (sp i : Nat) (swap : Bool) : Option Nat :=
  let x := s.span sp
  let h := ImageHdr.parse (s.imgHeader i)
  let objs := s.imgObjs i
  let t2 := h.t2StepBytes + (x.cur.map (·.hdr.t2StepBytes)).getD 0
  if !x.cfg.on ∨ s.spanBusy sp ∨ s.training sp ∨ x.dual ∨ (s.commits.any fun k => 2 ≤ k.spans.length && k.spans.contains sp) then some 0x12
  else if 64 ≤ i ∨ (s.lib i).st ≠ 2 ∨ !s.libServes then some 0x23
  else if !s.imgLoadable sp i then some 0x24
  else if !swap ∧ x.cur.isSome then some 0x25
  else if swap ∧ x.cur.isNone then some 0x2E
  else if s.shareFree sp < h.t1Bytes + x.cfg.kv * s.frameBytes sp h then some 0x35
  else if s.dirFree < objs.length then some 0x34
  else if swap ∧ t2 ≠ 0 ∧ 15 * s.rd Fld.cadPeriod_admitNs * x.cfg.flash < t2 * 1000 * 16 then some 0x36
  else none

/-- The directory entry of one object of a load (R235): a tier-2 object is homed in its extent at once; a tier-1 object has its T1 place
and stays MOVING. -/
def allocLoaded (s : State) (sp i op : Nat) (roles : List Nat) (o : ImgObj) : Option (Nat × State) :=
  let addr := (s.lib i).first * 2 ^ 30 + o.offset
  let e : DirEntry := { st := stResident, home := 2, fmt := o.fmt, mx := o.mx, gust := o.gust, grant := 2 ^ sp, owner := 0, originEn := true,
                        ro := o.ro, addr, tiles := o.tiles, image := i, originTile := o.offset / o.tile }
  if o.tier = 2 then s.allocObj { e }
  else
    let cols := match roles[o.role]? with
      | some n => [n % 8]
      | none => s.spanColumns sp
    (cols.findSome? fun c => s.t1Find c o.bytes).bind fun a =>
      s.allocObj { e := { e with st := stMoving, dest := 1 }, destAddr := a, load := op + 1,
                   role := if o.role = noRole then none else some o.role }

/-- All objects of a load allocated, in object-table order. -/
def allocAll (s : State) (sp i op : Nat) (roles : List Nat) : List ImgObj → Option (List Nat × State)
  | [] => some ([], s)
  | o :: r => (s.allocLoaded sp i op roles o).bind fun (n, s) => (s.allocAll sp i op roles r).map fun (l, s) => (n :: l, s)

/-- The 64 KiB legs of the objects of a list that load into T1 (R236). -/
def relayLegs (l : List (Nat × ImgObj)) : List (Nat × Nat) :=
  l.flatMap fun e => if e.2.tier = 1 then (List.range (cdiv e.2.bytes 65536)).map fun q => (e.1, q) else []
/-- The packets of the objects of a list that load into T1, in order, for a load with operation handle `handle`. -/
def relayTiles (l : List (Nat × ImgObj)) (handle : Nat) : List RelayHdr :=
  l.flatMap fun e => if e.2.tier = 1 then (List.range e.2.tiles).map fun t => { role := e.2.role, obj := e.1, tile := t, handle } else []

/-- The handle of operation `i` (R405). -/
def opHandle (s : State) (i : Nat) : Nat := (s.op i).gen * 64 + i

/-- A load job replaced. -/
def setLoad (s : State) (i : Nat) (j : LoadJob) : State := s.modOp i fun o => { o with job := .load j }

/-- Whether a leg is one of load `i`'s relay. -/
def relayLeg (i : Nat) (l : Leg) : Bool := l.engine == 59 && l.move == i
/-- Relay legs of load `i` in flight. -/
def relayOut (s : State) (i : Nat) : Nat := (s.tier.legs.filter (relayLeg i)).length

/-- Bytes of a relay packet: one header line and the tile (R236). -/
def packetBytes (s : State) (h : RelayHdr) : Nat := 64 + (s.obj h.obj).e.tile
/-- Bytes that stand in a relay buffer. -/
def hopBytes (s : State) (j : LoadJob) (k : Nat) : Nat := ((SMap.get [] j.hops k).map s.packetBytes).sum
/-- Whether the relay buffer of role `k`'s cell has a credit for a packet: 64 KiB in its pool for the life of the load (R239). -/
def hopRoom (s : State) (j : LoadJob) (k : Nat) (h : RelayHdr) : Bool := s.hopBytes j k + s.packetBytes h ≤ 65536
/-- A packet put at the end of a relay buffer. -/
def pushHop (j : LoadJob) (k : Nat) (h : RelayHdr) : LoadJob := { j with hops := SMap.put [] j.hops k (SMap.get [] j.hops k ++ [h]) }
/-- The packet at the head of a relay buffer taken out. -/
def popHop (j : LoadJob) (k : Nat) : LoadJob := { j with hops := SMap.put [] j.hops k (SMap.get [] j.hops k).tail }

/-- Whether every leg that covers tile `t` of object `o` has been read. -/
def tileRead (s : State) (i : Nat) (j : LoadJob) (o t : Nat) : Bool :=
  let n := (s.obj o).e.tile
  let meets := fun (q : Nat) => q * 65536 < (t + 1) * n && t * n < (q + 1) * 65536
  !(j.legs.any fun e => e.1 == o && meets e.2) && !(s.tier.legs.any fun l => relayLeg i l && l.obj == o && meets l.tile)

/-- Packets whose tiles have been read enter the chain at role 0's cell, over the trestle link of its row (R127, R236), each against a credit of its
relay buffer (R239). -/
def relayEnter (s : State) (i : Nat) (j : LoadJob) : Nat → LoadJob
  | 0 => j
  | n + 1 =>
    match j.todo with
    | h :: r =>
      if h.role ≠ noRole ∧ s.tileRead i j h.obj h.tile ∧ s.hopRoom j 0 h then s.relayEnter i (pushHop { j with todo := r } 0 h) n else j
    | [] => j

/-- What a load has brought is freed, and the span left as it was (R238, R246). -/
def undoLoad (s : State) (i : Nat) : State :=
  let o := s.op i
  match o.job with
  | .load j =>
    let s := s.modTier fun t => { t with legs := t.legs.filter fun l => !(relayLeg i l) }
    let s := match j.ready, (s.span o.span).building with
      | true, some c => (s.dropPools o.span c.copyNo).dropProgs o.span c
      | _, _ => s
    let s := forEach j.objs (fun n t => t.dropObj n) s
    let keep := ((s.span o.span).cur.map (·.hdr.roles)).getD 0
    let s := s.modSpan o.span fun x => { x with building := none, loading := false, cfg := { x.cfg with roles := x.cfg.roles.take keep } }
    ((s.showRoles o.span).wr Fld.imgSpan_state (if j.swap then 2 else 0) 0 o.span).clrBit Fld.imgStatus_active o.span
  | _ => s

/-- A load ends with a status, its objects freed. -/
def failLoad (s : State) (i status : Nat) : State := (s.undoLoad i).endOp i status []

/-- An aborted operation ends with 0x0F, and its OP_ABORT is answered after it (R410). -/
def endAborted (s : State) (i : Nat) : State :=
  let a := (s.op i).abort
  let s := s.endOp i 0x0F []
  match a with
  | some c => (s.modOp i fun o => { o with abort := none }).fin c 0x00
  | none => s

/-- The relay of load `i` goes on (R236, R241): legs that have all their pages leave the pool and their packets enter the chain; new legs are
issued, up to 256 slots of the issued-move pool, when no admitted fetch leg waits. A suspended load issues none (R409); an aborted one ends with
its last leg. -/
def relayGo (s : State) (i : Nat) : State :=
  let o := s.op i
  match o.job with
  | .load j =>
    let s := s.modTier fun t => { t with legs := t.legs.filter fun l => !(relayLeg i l && l.rest == 0) }
    if o.st = 2 then (if s.relayOut i = 0 then (s.undoLoad i).endAborted i else s)
    else
      let j := s.relayEnter i j j.todo.length
      let n := if o.st = 1 ∨ !s.tier.legWait.isEmpty then 0 else min (256 - s.relayOut i) (512 - s.issuedUsed)
      let s := s.setLoad i { j with legs := j.legs.drop n }
      forEach (j.legs.take n) (fun e t =>
        let x := (t.obj e.1).e
        let id := t.tier.nextLeg
        let l : Leg := { id, engine := 59, move := i, obj := e.1, tile := e.2, write := false, tier := 2, port := noPort, rest := 0, bad := false }
        (t.modTier fun y => { y with nextLeg := id + 1 }).startPages l (x.addr + e.2 * 65536) (min 65536 (x.bytes - e.2 * 65536)) (some i)) s
  | _ => s

/-- Whether every cell of a load has signalled its latch and nothing is left to relay (R240). -/
def relayed (j : LoadJob) (roles : Nat) : Bool := j.latch == roles && j.todo.isEmpty && j.hops.isEmpty

/-- A load whose tiles have all arrived (R240): the step programme is installed in each cell and, with the copy, in the step sequencer, pools are
carved and the span serves; a swap waits for its switch (R243). -/
def loadDone (s : State) (i : Nat) : State :=
  let o := s.op i
  match o.job, (s.span o.span).building with
  | .load j, some c =>
    match s.carvePools o.span c.copyNo c.hdr with
    | none => s.failLoad i 0x35
    | some s =>
      let s := s.installAll o.span c.hdr
      if j.swap then s.setLoad i { j with ready := true }
      else
        let s := s.modSpan o.span fun x => { x with cur := some c, building := none, loading := false }
        let s := ((s.showCopy o.span).wr Fld.imgSpan_state 2 0 o.span).clrBit Fld.imgStatus_active o.span
        s.endOp i 0x00 []
  | _, _ => s

/-- The signature or key slot of a valid image fails at a load (R231, R234). -/
def imgBad (s : State) (i : Nat) : State := ((s.setLibState i 3).wr Fld.imgStatus_damaged 1).wr Fld.imgStatus_sigFail 1

/-- A load or swap accepted: signature and key slot checked again, objects allocated, the relay begun (R233 to R236). -/
def loadBegin (s : State) (sp img : Nat) (swap : Bool) (i : Nat) : State :=
  let s := s.setBit Fld.imgStatus_active sp
  if !s.imgSigned img then ((s.imgBad img).clrBit Fld.imgStatus_active sp).endOp i 0x54 []
  else
    let h := ImageHdr.parse (s.imgHeader img)
    let objs := s.imgObjs img
    let roles := s.newRoles sp h.roles
    match s.allocAll sp img i (roles.take h.roles) objs with
    | none => (s.clrBit Fld.imgStatus_active sp).endOp i 0x35 []
    | some (nums, s) =>
      let l := nums.zip objs
      let copyNo := match (s.span sp).cur with
        | some c => 1 - c.copyNo
        | none => 0
      let tok := s.imgSection img 3
      let c : ModelCopy := { image := img, hdr := h, tok := if h.flags.testBit 2 then Config.tokenizerOf tok else default,
                             tokSum := ofBe (sha384 tok), objs := nums, t2 := (l.filter fun e => e.2.tier != 1).map (·.1), copyNo, pair4 := Config.pairRate4 (s.imgTables img),
                             rope := (l.find? fun e => e.2.role == noRole && e.2.fmt == 0x0).map (·.1) }
      let todo := relayTiles l (s.opHandle i)
      let idle := (List.range h.roles).filter fun r => !(todo.any fun p => p.role == r)
      let j : LoadJob := { image := img, swap, todo, legs := relayLegs l, objs := nums, ready := false, latch := idle.length }
      let s := s.modSpan sp fun x => { x with building := some c, loading := true, cfg := { x.cfg with roles } }
      let s := ((s.showRoles sp).wr Fld.imgSpan_state (if swap then 3 else 1) 0 sp).wr Fld.imgProg_bytes 0 0 sp
      let s := ((s.modOp i fun o => { o with total := ((l.filter fun e => e.2.tier == 1).map (·.2.bytes)).sum }).setLoad i j).relayGo i
      if relayed j h.roles then s.loadDone i else s

/-- MODEL_LOAD and MODEL_SWAP. -/
def modelLoad (s : State) (c : Caller) (pkt : Packet) (swap : Bool) : State :=
  let img := pkt.fld 0 1
  match s.loadStatus pkt.span img swap with
  | some st => s.fin c st
  | none =>
    s.startOp c (if swap then 0x12 else 0x10) pkt.span 0
      (.load { image := img, swap, todo := [], legs := [], objs := [], ready := false }) fun i s =>
        (s.modSpan pkt.span fun x => { x with swapPort := if swap then some c.port else none }).loadBegin pkt.span img swap i

/-- A role whose cell is not fenced and has such a packet at the head of its relay buffer. -/
def relayHop (s : State) (sp : Nat) (j : LoadJob) (is : RelayHdr → Bool) : Option (Option Nat × RelayHdr) :=
  j.hops.findSome? fun e => match e.2 with
    | h :: _ => if is h ∧ !s.cellFenced (s.roleCell sp e.1) then some (some e.1, h) else none
    | [] => none

/-- Where a packet of a span's load stands for its next hop: at the tier engine, when module-level (log entry 48), or in a relay buffer. -/
def relayAt (s : State) (sp : Nat) (i : Nat) (j : LoadJob) (is : RelayHdr → Bool) : Option (Option Nat × RelayHdr) :=
  match j.todo with
  | h :: _ => if h.role = noRole ∧ is h ∧ s.tileRead i j h.obj h.tile then some (none, h) else s.relayHop sp j is
  | [] => s.relayHop sp j is

/-- The load of a span that has such a packet, and where it stands. -/
def relayOwner (s : State) (sp : Nat) (is : RelayHdr → Bool) : Option (Nat × LoadJob × Option Nat × RelayHdr) :=
  s.ops.findSome? fun e => match e.2.job with
    | .load j => if e.2.live ∧ e.2.span = sp ∧ e.2.st ≠ 2 then (s.relayAt sp e.1 j is).map fun r => (e.1, j, r) else none
    | _ => none

/-- A relayed tile written to its object (R237, R240): the cell that has written the last tile of its role signals the load's latch. `j` is the job
without the packet. -/
def relayWrite (s : State) (sp i : Nat) (j : LoadJob) (h : RelayHdr) : State :=
  let x := s.obj h.obj
  let b := x.e.tile
  let s := s.dramWrite (x.destAddr + h.tile * b) (s.flashRead (x.e.addr + h.tile * b) b)
  let s := (s.bump64 Fld.imgProg_bytes 0 sp b).modOp i fun q => { q with done := q.done + b }
  let s := if h.tile + 1 = x.e.tiles then s.arrive h.obj else s
  let left := (j.todo ++ j.hops.flatMap (·.2)).any fun p => p.role == h.role
  let j := if left || h.role == noRole then j else { j with latch := j.latch + 1 }
  let s := (s.setLoad i j).relayGo i
  if relayed j (((s.span sp).building.map (·.hdr.roles)).getD 0) ∧ (s.op i).st = 0 then s.loadDone i else s

/-- A relay packet at its next hop (R237 to R239): the cell of its role writes the tile, any other forwards it to the next cell in role order,
module-level tiles the tier engine writes itself; each against a credit, of the DRAM controller or of the next relay buffer, until which the packet
waits. A packet that no role takes ends the load with 0x24. `waited` counts mesh cycles that the hop waited. -/
def relayPacket (s : State) (sp : Nat) (is : RelayHdr → Bool) (credit : Bool) (waited : Nat) : State :=
  match s.relayOwner sp is with
  | none => s
  | some (i, j, at_, h) =>
    let n := ((s.span sp).building.map (·.hdr.roles)).getD 0
    let s := s.bump Fld.imgRelayStall_count 0 0 waited
    match at_ with
    | none => if credit then s.relayWrite sp i { j with todo := j.todo.tail } h else s
    | some k =>
      if h.role = k then (if credit then s.relayWrite sp i (popHop j k) h else s)
      else if n ≤ k + 1 then s.failLoad i 0x24
      else if credit && s.hopRoom j (k + 1) h then (s.setLoad i (pushHop (popHop j k) (k + 1) h)).relayGo i
      else s

/-- A suspended load or swap goes on (R409). -/
def loadResume (s : State) (i : Nat) (j : LoadJob) : State :=
  if relayed j (((s.span (s.op i).span).building.map (·.hdr.roles)).getD 0) ∧ !j.ready then s.loadDone i else s.relayGo i

/-- Loads and swaps that read image `i` now (`IMG_LIB`). -/
def imgReaders (s : State) (i : Nat) : Nat :=
  (s.ops.filter fun e => e.2.live && match e.2.job with
    | .load j => j.image == i && !j.ready
    | _ => false).length

/-- Requests bound to a span in any state. -/
def boundTo (s : State) (sp : Nat) : Nat := (s.spanSlots sp).length

/-- MODEL_UNLOAD (R248). -/
def modelUnload (s : State) (c : Caller) (pkt : Packet) : State :=
  let sp := pkt.span
  if !(s.span sp).cfg.on ∨ s.spanBusy sp ∨ s.training sp then s.fin c 0x12
  else if (s.span sp).cur.isNone then s.fin c 0x2E
  else s.startOp c 0x11 sp (s.boundTo sp) (.unload pkt.force) fun i s =>
    let l := if pkt.force then s.spanSlots sp else []
    let s := s.modSpan sp fun x => { x with unload := some (i, pkt.force), admitStop := true,
                                            forced := x.forced ++ l.map fun k => { slot := k, reason := 8, status := 0x38 } }
    (s.wr Fld.imgSpan_state 5 0 sp).setBit Fld.imgStatus_active sp

/-! ### Host jobs on the flash (R213, R221, R225) -/

/-- A descriptor of the controller: operation, die, row, page, planes. -/
def flashWord (code d row page planes : Nat) : Inst256 :=
  BitVec.ofNat 256 (code + d * 2 ^ 8 + row * 2 ^ 16 + page * 2 ^ 32 + planes * 2 ^ 64)

/-- Every plane. -/
def allPlanes : Nat := 2 ^ 64 - 1

/-- The next page that some plane of a row still lacks; 512 when the row is whole. -/
def rowNext (s : State) (d row : Nat) : Nat := ((List.range 64).map fun k => (s.block d k (s.physOf d k row)).next).foldl min 512

/-- Whether RESUME keeps a row: ROW_DONE, or examined and found INTACT (R225). -/
def rowKept (s : State) (d row : Nat) : Bool :=
  s.rowNext d row == 512 ||
    (!(s.flash.needs.any fun n => n.1 == d && n.2.1 == row) && (s.lastRec d row).any fun r => r.type == recChecked && r.page == 0)

/-- What fills a row further: an erase of planes whose block needs it, else the program of its next page. -/
def rowWord (s : State) (d row : Nat) : Inst256 :=
  let blk := fun k => s.block d k (s.physOf d k row)
  let bad := (List.range 64).filter fun k => !(blk k).erased || s.flash.needs.contains (d, row, k)
  if !bad.isEmpty then flashWord 0x20 d row 0 (maskOf bad)
  else
    let p := s.rowNext d row
    flashWord 0x10 d row p (maskOf ((List.range 64).filter fun k => (blk k).next == p))

/-- Planes that have a block of row `row` when a REBUILD counts their reserve blocks after the logical ones (R186, R213). -/
def rebuildPlanes (row : Nat) : Nat := maskOf ((List.range 64).filter fun k => row + Config.testBlocks k < Config.physBlocks)

/-- The job's next descriptor, with the job standing at it; `none` when its work is done. -/
def flashNext (s : State) (j : FlashJob) : Option (FlashJob × Inst256) :=
  let rows := List.range (2 * j.units)
  match j.kind with
  | .erase => if j.at_ < 2 * j.units then some (j, flashWord 0x20 (j.at_ % 2) (j.first + j.at_ / 2) 0 allPlanes) else none
  | .rebuild => if rebuildPlanes j.at_ ≠ 0 then some (j, flashWord 0x20 j.die j.at_ 0 (rebuildPlanes j.at_)) else none
  | .read => ((pagesOf j.addr j.bytes)[j.at_]?).map fun f => (j, pageReadWord f)
  | .write =>
    let erase := if j.phase = 0 then rows.find? fun k => j.at_ ≤ k && !(j.resume && s.rowKept (k % 2) (j.first + k / 2)) else none
    match erase with
    | some k => some ({ j with at_ := k }, flashWord 0x20 (k % 2) (j.first + k / 2) 0 allPlanes)
    | none =>
      match (if j.phase ≤ 1 then rows.find? fun k => s.rowNext (k % 2) (j.first + k / 2) < 512 else none) with
      | some k => some ({ j with phase := 1 }, s.rowWord (k % 2) (j.first + k / 2))
      | none =>
        let a := if j.phase = 2 then j.at_ else 0
        if a < j.units * 1024 then
          some ({ j with phase := 2, at_ := a }, flashWord 0x01 (a % 2) (j.first + a / 1024) (a / 2 % 512) allPlanes)
        else none

/-- The end of a job whose work is done: the library's change (R221, R231) and the final reply. -/
def flashEnd (s : State) (i : Nat) (j : FlashJob) : State :=
  match j.kind with
  | .read => s.endOp i 0x00 []
  | .erase => (s.putLib j.image fun _ => { period := s.periods % 2 ^ 32 }).endOp i 0x00 []
  | .rebuild =>
    let s := forEach (s.flash.lib.filter fun e => e.2.st != 0) (fun e t => t.modLib e.1 fun _ => { period := s.periods % 2 ^ 32 }) s
    (s.writeDir.writeTable j.die).endOp i 0x00 []
  | .write =>
    let body := leBytes 8 j.image
    if s.imgValid j.image then
      let b := s.imgHeader j.image
      let h := ImageHdr.parse b
      (s.putLib j.image fun e =>
        { e with st := 2, period := s.periods % 2 ^ 32, bytes := h.imageBytes, model := h.modelId, gen := h.generation, digest := ofLe (sha384 (b.take 0x154)) }).endOp i 0x00 body
    else (s.wr Fld.imgStatus_sigFail 1).endOp i 0x54 body

/-- A job ended early; a write's final reply carries its image number (R400). -/
def flashFail (s : State) (i : Nat) (j : FlashJob) (status : Nat) : State :=
  s.endOp i status (if j.kind = .write then leBytes 8 j.image else [])

/-- A flash job replaced. -/
def setFlashJob (s : State) (i : Nat) (j : FlashJob) : State := s.modOp i fun o => { o with job := .flash j }

/-- Whether the object that a job reads or writes can still be reached. -/
def jobObject (s : State) (j : FlashJob) : Bool :=
  j.kind == .erase || j.kind == .rebuild ||
    (let e := (s.obj j.src).e
     (e.st == stResident || e.st == stMoving) && (e.home != 3 || s.portUp (s.t3Port e)))

/-- The job issues its next operation, one at a time; a suspended or ending one issues none (R409). -/
def flashIssue (s : State) (i : Nat) : State :=
  let o := s.op i
  match o.job with
  | .flash j =>
    if o.st ≠ 0 ∨ (s.flash.ops.any fun x => x.job == some i) then s
    else if !s.jobObject j then s.flashFail i j 0x51
    else match s.flashNext j with
      | some (j, w) => (s.setFlashJob i j).flashAccept 0x10 w (some i)
      | none => s.flashEnd i j
  | _ => s

/-- Bytes of an image's rows that stand programmed. -/
def rowsWritten (s : State) (j : FlashJob) : Nat :=
  ((List.range (2 * j.units)).map fun k =>
    ((List.range 64).map fun p => (s.block (k % 2) p (s.physOf (k % 2) p (j.first + k / 2))).next).sum * 16384).sum

/-- One page of a FLASH_READ copied into its destination. -/
def readPage (s : State) (j : FlashJob) : State :=
  match (pagesOf j.addr j.bytes)[j.at_]? with
  | none => s
  | some _ =>
    let p := (j.addr / 16384 + j.at_) * 16384
    let a := max j.addr p
    let z := min (j.addr + j.bytes) (p + 16384)
    s.objWrite s.tier.nextMove j.src (a - j.addr) (s.flashRead a (z - a))

/-- An operation of job `i` has completed with a status of R199. -/
def flashStep (s : State) (i st : Nat) : State :=
  let o := s.op i
  match o.job with
  | .flash j =>
    let on := { j with at_ := j.at_ + 1 }
    if o.st = 2 then s.endAborted i
    else if st = 5 then s.flashFail i j 0x2E
    else if st = 6 then s
    else match j.kind with
      | .read => if st = 4 then s.flashFail i j 0x52
        else ((s.readPage j).setFlashJob i on).modOp i fun o => { o with done := min o.total ((j.at_ + 1) * 16384) }
      | .erase => (s.setFlashJob i on).modOp i fun o => { o with done := (j.at_ + 1) * 2 ^ 29 }
      | .rebuild => (s.setFlashJob i on).modOp i fun o => { o with done := min o.total ((j.at_ + 1) * 2 ^ 29) }
      | .write =>
        if st = 3 then s.flashFail i j 0x39
        else if st = 4 then s.flashFail i j 0x52
        else
          let s := if j.phase = 1 then s else s.setFlashJob i on
          s.modOp i fun o => { o with done := if j.phase = 0 then 0 else min o.total (s.rowsWritten j) }
  | .load _ => s.failLoad i st
  | _ => s

/-- Steward firmware takes the completions of its long operations from `FLC_DONE`, and every job goes on. -/
def runJobs (s : State) : State :=
  let l := s.flash.done.filterMap (·.job) ++ s.flash.jobDone
  let s := forEach l (fun e t => t.flashStep e.1 e.2) (s.modFlash fun x => { x with done := x.done.filter (·.job.isNone), jobDone := [] })
  forEach (List.range 64) (fun i t =>
    match (t.op i).job with
    | .flash _ => t.flashIssue i
    | .load _ => t.relayGo i
    | .fw j => t.fwStep i j
    | _ => t) s

/-- Whether an image is in use: a load reads it, a job works on it, or an object is homed in it (R225, R231). -/
def imgInUse (s : State) (i : Nat) : Bool :=
  (s.ops.any fun e => e.2.live && match e.2.job with
    | .load j => j.image == i
    | .flash j => (j.kind == .write || j.kind == .erase) && j.image == i
    | _ => false) ||
  s.tier.objs.any fun e => e.2.e.st != 0 && e.2.e.st != stLost && e.2.e.home == 2 && e.2.e.image == i

/-- The status of an object that a job of port `p` reads (`write` false) or writes; `none` passes. -/
def jobObjStatus (s : State) (p o n : Nat) (write : Bool) : Option Nat :=
  let x := s.obj o
  if 131072 ≤ o ∨ x.e.st = 0 ∨ x.e.window ∨ !(x.e.owner == portIdent p || (!write && x.e.owner == 0)) ∨ x.e.home = 2 ∨
      (write ∧ (x.buffer = 0 ∨ x.e.ro)) then some 0x21
  else if x.e.st = stLost then some 0x51
  else if x.e.st = stRevoking ∨ x.revoke.isSome then some 0x13
  else if x.e.bytes < n then some 0x22
  else none

/-- FLASH_WRITE_IMAGE. -/
def flashWriteImage (s : State) (c : Caller) (pkt : Packet) : State :=
  let src := pkt.fld 0 4
  let n := pkt.fld 8 8
  let want := pkt.fld 4 1
  let units := cdiv n (2 ^ 30)
  let img := if want = 0xFF then (List.range 64).find? fun i => (s.lib i).st == 0 else if want < 64 then some want else none
  if !s.libServes then s.fin c 0x2E
  else match s.jobObjStatus c.port src n false with
    | some st => s.fin c st
    | none =>
      if n = 0 ∨ n % 4096 ≠ 0 then s.fin c 0x22
      else match img with
        | none => s.fin c (if want = 0xFF then 0x39 else 0x27)
        | some i =>
          let e := s.lib i
          if s.imgInUse i then s.fin c 0x13
          else if e.st ≠ 0 ∧ e.st ≠ 1 then s.fin c 0x2E
          else if pkt.resume ∧ (e.st ≠ 1 ∨ e.units ≠ units) then s.fin c 0x2E
          else
            match (if pkt.resume then some e.first else (s.modLib i fun _ => {}).freeUnits units) with
            | none => s.fin c 0x39
            | some u =>
              let t := if pkt.resume then s
                else (s.modFlash fun x => { x with writeSeq := x.writeSeq + 1 }).putLib i fun _ =>
                  { st := 1, first := u, units, seq := s.flash.writeSeq + 1, period := s.periods % 2 ^ 32 }
              let j : FlashJob := { kind := .write, image := i, first := u, units, src, bytes := n, phase := 0, at_ := 0, resume := pkt.resume,
                                    die := 0, addr := 0 }
              t.startOp c 0x50 noSpan n (.flash j) fun k s => s.flashIssue k

/-- FLASH_ERASE, or with REBUILD the erase of a die whose table is lost (R213). A die that keystone holds in reset (R489) takes no REBUILD;
after a REBUILD the die serves again from the next boot (R231; log entry 84). -/
def flashErase (s : State) (c : Caller) (pkt : Packet) : State :=
  let i := pkt.fld 0 1
  let d := pkt.fld 1 1
  let job := fun (kind : FlashKind) (first units : Nat) => Job.flash
    { kind, image := i, first, units, src := 0, bytes := 0, phase := 0, at_ := 0, resume := false, die := d, addr := 0 }
  if pkt.rebuild then
    if 2 ≤ d then s.fin c 0x27
    else if !(s.rd Fld.flcStatus_tableLost).testBit d ∨ !s.dieServing (4 + d) then s.fin c 0x2E
    else
      let own := fun (k : Nat) => k / 64 == d
      let s := s.modFlash fun x => { x with map := x.map.filter fun e => !own (e.1 / 512), spare := x.spare.filter fun e => !own e.1,
                                            bad := x.bad.filter fun b => b.die != d, scanned := x.scanned.erase d }
      s.startOp c 0x51 noSpan (Config.flashUnits * 2 ^ 29) (job .rebuild 0 Config.flashUnits) fun k s => s.flashIssue k
  else if d ≠ 0 ∨ 64 ≤ i then s.fin c 0x27
  else if !s.libServes ∨ (s.lib i).st = 0 then s.fin c 0x2E
  else if s.imgInUse i then s.fin c 0x13
  else
    let e := s.lib i
    let s := s.setLibState i 4
    let s := forEach s.objNums (fun o t => t.modObj o fun x =>
      if x.e.originEn ∧ x.e.image = i then { x with e := { x.e with originEn := false } } else x) s
    s.startOp c 0x51 noSpan (e.units * 2 ^ 30) (job .erase e.first e.units) fun k s => s.flashIssue k

/-- FLASH_READ. -/
def flashReadCmd (s : State) (c : Caller) (pkt : Packet) : State :=
  let a := pkt.fld 0 8
  let n := pkt.fld 8 8
  let o := pkt.fld 0x10 4
  if n = 0 ∨ Config.flashUnits * 2 ^ 30 < a + n then s.fin c 0x22
  else match s.jobObjStatus c.port o n true with
    | some st => s.fin c st
    | none =>
      if (pagesOf a n).any fun f => !s.dieServes f.die then s.fin c 0x2E
      else
        let j : FlashJob := { kind := .read, image := 0, first := 0, units := 0, src := o, bytes := n, phase := 0, at_ := 0, resume := false,
                              die := 0, addr := a }
        s.startOp c 0x52 noSpan n (.flash j) fun k s => s.flashIssue k

/-- The running operation of a plane is cut (R222, R223): only under sag_hold or in the hold of a reset. -/
def cutPlane (s : State) (d k : Nat) : State :=
  let p := s.plane d k
  if !(s.flag Fld.flcStatus_sagHold || s.key.inReset.isSome) then s
  else match p.prog, p.ers with
    | some a, some b => (s.cutOp a).cutOp b
    | some a, none => s.cutOp a
    | none, some b => s.cutOp b
    | none, none => s

end State

/-- MODEL_LOAD, opcode 0x10. -/
def execModelLoad (p : PortId) (pkt : Packet) (s : State) : Out := .next (s.serve 0x10 p pkt fun c pkt s => s.modelLoad c pkt false)
/-- MODEL_UNLOAD, opcode 0x11. -/
def execModelUnload (p : PortId) (pkt : Packet) (s : State) : Out := .next (s.serve 0x11 p pkt fun c pkt s => s.modelUnload c pkt)
/-- MODEL_SWAP, opcode 0x12. -/
def execModelSwap (p : PortId) (pkt : Packet) (s : State) : Out := .next (s.serve 0x12 p pkt fun c pkt s => s.modelLoad c pkt true)
/-- FLASH_WRITE_IMAGE, opcode 0x50. -/
def execFlashWriteImage (p : PortId) (pkt : Packet) (s : State) : Out :=
  .next (s.serve 0x50 p pkt fun c pkt s => (s.flashWriteImage c pkt).runJobs)
/-- FLASH_ERASE, opcode 0x51. -/
def execFlashErase (p : PortId) (pkt : Packet) (s : State) : Out := .next (s.serve 0x51 p pkt fun c pkt s => (s.flashErase c pkt).runJobs)
/-- FLASH_READ, opcode 0x52. -/
def execFlashRead (p : PortId) (pkt : Packet) (s : State) : Out := .next (s.serve 0x52 p pkt fun c pkt s => (s.flashReadCmd c pkt).runJobs)
/-- A relay packet at its next hop (R237 to R239). -/
def execRelayPacket (sp : SpanId) (role obj : Nat) (t : RelayTile) (s : State) : Out :=
  .next (s.relayPacket sp (fun h => h.role == role && h.obj == obj && h.tile == t.tile) t.credit t.waited)

/-- A fetch leg delivers its tile (R168), when it is the next of its move; relay legs take the slots left (R241). -/
def execFetchLegComplete (leg ns : Nat) (poisoned : Bool) (s : State) : Out :=
  match s.tier.legs.find? fun l => l.id == leg with
  | none => .next s
  | some l => if s.legNext l then .next (s.legDone l ns (poisoned || l.bad)).runJobs else .next s

/-- READ, 0x01. -/
def execRead (writer : Ident) (w : Inst256) (s : State) : Out := .next (s.flashSubmit writer.toNat w 0x01).runJobs
/-- READ_RAW, 0x02. -/
def execReadRaw (writer : Ident) (w : Inst256) (s : State) : Out := .next (s.flashSubmit writer.toNat w 0x02).runJobs
/-- MARK_CHECK, 0x03. -/
def execMarkCheck (writer : Ident) (w : Inst256) (s : State) : Out := .next (s.flashSubmit writer.toNat w 0x03).runJobs
/-- PROGRAM, 0x10. -/
def execProgram (writer : Ident) (w : Inst256) (s : State) : Out := .next (s.flashSubmit writer.toNat w 0x10).runJobs
/-- ERASE, 0x20. -/
def execErase (writer : Ident) (w : Inst256) (s : State) : Out := .next (s.flashSubmit writer.toNat w 0x20).runJobs
/-- PARAM_READ, 0x30. -/
def execParamRead (writer : Ident) (w : Inst256) (s : State) : Out := .next (s.flashSubmit writer.toNat w 0x30).runJobs
/-- PARAM_PROGRAM, 0x31. -/
def execParamProgram (writer : Ident) (w : Inst256) (s : State) : Out := .next (s.flashSubmit writer.toNat w 0x31).runJobs
/-- PARAM_ERASE, 0x32. -/
def execParamErase (writer : Ident) (w : Inst256) (s : State) : Out := .next (s.flashSubmit writer.toNat w 0x32).runJobs
/-- RELOCATE, 0x40. -/
def execRelocate (writer : Ident) (w : Inst256) (s : State) : Out := .next (s.flashSubmit writer.toNat w 0x40).runJobs
/-- DIE_RESET, 0x7F. -/
def execDieReset (writer : Ident) (w : Inst256) (s : State) : Out := .next (s.flashSubmit writer.toNat w 0x7F).runJobs
/-- A write of `FLC_CLK` (R193 to R195). -/
def execFlcClkWrite (writer : Ident) (v : BitVec 32) (s : State) : Out := .next (s.byFirmware writer.toNat fun s => s.writeClk v.toNat)
/-- A write of `FLC_WAIT` (R194, R195). -/
def execFlcWaitWrite (writer : Ident) (v : BitVec 32) (s : State) : Out := .next (s.byFirmware writer.toNat fun s => s.writeWait v.toNat)
/-- A pending clock change takes effect (R195). -/
def execFlcClockSwitch (s : State) : Out := .next s.clockSwitch
/-- An array read ends (R203). -/
def execArrayReadDone (d : Fin 2) (k : Fin 64) (o : PageOutcome) (s : State) : Out := .next (s.readDone d k o).runJobs
/-- A plane suspends its program or erase (R208). -/
def execPlaneSuspend (d : Fin 2) (p : PlaneStep) (s : State) : Out := .next (s.planeSuspend d p.plane p.count).runJobs
/-- A plane resumes (R208). -/
def execPlaneResume (d : Fin 2) (k : Fin 64) (s : State) : Out := .next (s.planeResume d k).runJobs
/-- A program verifies (R208). -/
def execProgramVerifyPass (d : Fin 2) (p : PlaneStep) (s : State) : Out := .next (s.programPass d p.plane p.count).runJobs
/-- An erase verifies (R208). -/
def execEraseVerifyPass (d : Fin 2) (p : PlaneStep) (s : State) : Out := .next (s.erasePass d p.plane p.count).runJobs
/-- A pulse limit is reached (R201). -/
def execPulseLimitReached (d : Fin 2) (k : Fin 64) (s : State) : Out := .next (s.pulseLimit d k).runJobs
/-- A running operation is cut (R222, R223). -/
def execOperationCut (d : Fin 2) (k : Fin 64) (s : State) : Out := .next (s.cutPlane d k).runJobs
/-- The read counts are saved (R214). -/
def execReadCountSave (s : State) : Out := .next s.saveReads

end Sys2Proof.Machine
end

