-- ==== Sys2Proof/Machine/Adapters.lean ====
section
/-!
DEFINITION. Adapters (12, R357 to R369): packs, versions, loads, replacements, drops, and the end of an object's move.
-/
namespace Sys2Proof.Machine

/-- ASCII "RHOADPT1". -/
def packMagic : List Byte := [0x52, 0x48, 0x4F, 0x41, 0x44, 0x50, 0x54, 0x31]

/-- The header of an adapter pack (R357). -/
structure PackHdr where
  model   : Nat
  layers  : Nat
  rank    : Nat
  targets : Nat
  aFmt    : Nat
  bFmt    : Nat
  table   : Nat
  deriving DecidableEq, Repr

/-- The header that 256 bytes spell. -/
def PackHdr.parse (l : List Byte) : PackHdr :=
  { model := leAt l 8 16, layers := leAt l 0x18 2, rank := byteAt l 0x1A, targets := byteAt l 0x1B, aFmt := byteAt l 0x1C,
    bFmt := byteAt l 0x1D, table := leAt l 0x20 8 }

/-- The formats of the two factors for a base activation format (R358). -/
def factorFmts : Nat → Option (Nat × Nat)
  | 0x8 => some (0x8, 0x1)
  | 0x3 => some (0x3, 0x3)
  | 0x4 => some (0x3, 0x3)
  | 0x1 => some (0x1, 0x1)
  | 0x2 => some (0x2, 0x2)
  | _ => none

/-- One directory object of an adapter version (R359): format, tiles, and where in the pack its bytes stand; the cell's role. -/
structure FactorObj where
  role  : Nat
  fmt   : Nat
  tiles : Nat
  off   : Nat
  deriving DecidableEq, Repr

/-- A version number follows another, skipping 0 (12, "Indices, versions and references"). -/
def nextVer (v : Nat) : Nat := if 65535 ≤ v then 1 else v + 1

namespace State

/-- Whether a pack of model, layers and formats matches an image (R357, R358, R369). -/
def packMatches (s : State) (model layers aFmt bFmt : Nat) (c : ModelCopy) : Bool :=
  model == c.hdr.modelId && layers == c.hdr.layers && factorFmts (Config.baseActivation (s.imgTables c.image)) == some (aFmt, bFmt)

/-- The factor-table entries of a pack, by layer and target bit, with the layer and the target. -/
def packEntries (s : State) (o : Nat) (h : PackHdr) : List (Nat × Nat × Factor) :=
  let bitsOn := bitList h.targets 7
  (List.range h.layers).flatMap fun l => bitsOn.zipIdx.map fun b =>
    (l, b.1, Config.factorEntry (s.objRead o (h.table + 32 * (l * bitsOn.length + b.2)) 32))

/-- Whether a pack is well formed and matches the copy (R357, R358). -/
def packOk (s : State) (o : Nat) (c : ModelCopy) : Bool :=
  let l := s.objRead o 0 256
  let h := PackHdr.parse l
  let n := (s.obj o).e.bytes
  256 ≤ n && l.take 8 == packMagic && bodyClean [(0, 0x1E), (0x20, 8)] l && 1 ≤ h.rank && h.rank ≤ 64 && 1 ≤ h.targets && h.targets < 128 &&
  s.packMatches h.model h.layers h.aFmt h.bFmt c && h.table % 4096 == 0 && h.table + 32 * h.layers * popCount h.targets 7 ≤ n &&
  (s.packEntries o h).all fun e =>
    let f := e.2.2
    f.aOff % 4096 == 0 && f.bOff % 4096 == 0 && f.aOff + cdiv f.dIn 64 * tileBytes h.aFmt false 0 ≤ n &&
      f.bOff + cdiv f.dOut 64 * tileBytes h.bFmt false 0 ≤ n && (h.aFmt != 0x8 || (f.sOff % 4096 == 0 && f.sOff + 256 ≤ n))

/-- The objects of a version (R359): for every cell that computes part of a targeted projection a copy of A, its column scales with INT8, and
its columns of B. -/
def packObjects (s : State) (o : Nat) (c : ModelCopy) : List FactorObj :=
  let h := PackHdr.parse (s.objRead o 0 256)
  (s.packEntries o h).flatMap fun (l, t, f) =>
    (Config.factorParts c.hdr.modelId c.hdr.generation l t).flatMap fun (role, first, n) =>
      { role, fmt := h.aFmt, tiles := cdiv f.dIn 64, off := f.aOff } ::
      { role, fmt := h.bFmt, tiles := n, off := f.bOff + first * tileBytes h.bFmt false 0 } ::
      (if h.aFmt = 0x8 then [{ role, fmt := 0x8, tiles := 1, off := f.sOff }] else [])

/-- The directory objects of a version allocated in the home slices of their cells, MOVING from the pack. -/
def allocFactors (s : State) (sp op src : Nat) : List FactorObj → Option (List Nat × State)
  | [] => some ([], s)
  | f :: r =>
    let n := f.tiles * tileBytes f.fmt false 0
    let cell := ((s.span sp).cfg.roles[f.role]?).getD 0
    (s.t1Find (cell % 8) n).bind fun a =>
      (s.allocObj { e := { st := stMoving, home := 1, dest := 1, fmt := f.fmt, grant := 2 ^ sp, owner := 0, ro := true, addr := a,
                           tiles := f.tiles },
                    destAddr := a, load := op + 1, pack := some (src, f.off), role := some f.role }).bind fun (o, s) =>
        (s.allocFactors sp op src r).map fun (l, s) => (o :: l, s)

/-- References of a version (R365): slots bound to it, and a training job that reads it. -/
def verRefs (s : State) (sp a v : Nat) : Nat :=
  ((s.spanSlots sp).filter fun i => (s.slot i).par.adapter == a && (s.slot i).adVer == v).length +
  (s.ops.filter fun e => e.2.live && e.2.span == sp && match e.2.job with
    | .train j => j.init == a && j.initVer == v
    | _ => false).length

/-- The objects of a version given up. -/
def dropVersion (s : State) (v : AdVer) : State := forEach v.objs (fun o t => t.dropObj o) s

/-- The staged version of an index. -/
def AdIndex.staged (x : AdIndex) : Option AdVer := x.vers.find? fun v => v.role == 1
/-- The current version of an index. -/
def AdIndex.current (x : AdIndex) : Option AdVer := x.vers.find? fun v => v.role == 0

/-- A load or replacement that ends before its switch: the version is discarded (R366, R368). -/
def undoAdapter (s : State) (i : Nat) : State :=
  let o := s.op i
  match o.job with
  | .adapter a v _ =>
    let x := s.adapter o.span a
    let s := forEach (x.vers.filter fun y => y.ver == v && y.role == 1) (fun y t => t.dropVersion y) s
    s.modAdapter o.span a fun x =>
      let x := { x with vers := x.vers.filter fun y => !(y.ver == v && y.role == 1), op := none }
      if x.st = 1 then {} else x
  | _ => s

/-- A load or replacement ends with a status. -/
def failAdapter (s : State) (i status : Nat) : State := (s.undoAdapter i).endOp i status []

/-- A version whose objects are all RESIDENT (R366): a first load turns READY; a staged one waits for its switch. -/
def adapterLoaded (s : State) (i : Nat) : State :=
  let o := s.op i
  match o.job with
  | .adapter a v _ =>
    let x := s.adapter o.span a
    match x.vers.find? fun y => y.ver == v && y.role == 1 with
    | none => s
    | some y =>
      if !y.objs.all fun n => (s.obj n).e.st == stResident then s
      else if x.st = 1 then
        (s.modAdapter o.span a fun x => { x with st := 2, last := v, op := none, vers := [{ y with role := 0, loaded := true }] }).endOp i 0x00 []
      else s.modAdapter o.span a fun x => { x with vers := x.vers.map fun z => if z = y then { z with loaded := true } else z }
  | _ => s

/-- The end of an object's move, with the version it belongs to (R164, R366): a factor's bytes come from its pack. `errs` tells what its reads of
T1 met, by line. -/
def objectMoveEnd (s : State) (o : Nat) (errs : List (Nat × EccOutcome)) : State :=
  let x := s.obj o
  match x.pack with
  | none => (s.finishObj o errs).drainArrivals o
  | some (src, off) =>
    let i := x.load - 1
    let p := (s.obj src).e
    if x.e.st ≠ stMoving ∨ (s.op i).st ≠ 0 then s
    else if !(p.st == stResident || p.st == stMoving) then s.failAdapter i 0x51
    else
      let n := x.e.bytes
      let bad := s.objPoison src off n
      let s := s.dramWrite x.destAddr (s.objRead src off n)
      let s := s.poisonT1 x.destAddr bad
      ((s.arrive o).modOp i fun q => { q with done := q.done + n }).adapterLoaded i

/-- The status of the pack object (R357's owner rule, R376); `none` passes. -/
def packStatus (s : State) (p sp o : Nat) : Option Nat :=
  let x := s.obj o
  if 131072 ≤ o ∨ x.e.st = 0 ∨ x.e.window ∨
      !((x.e.home == 3 && x.e.owner == portIdent p && x.buffer != 0) || (x.e.home == 1 && x.e.grant.testBit sp)) then some 0x21
  else if x.e.st = stLost then some 0x51
  else if x.e.st = stRevoking ∨ x.revoke.isSome then some 0x13
  else none

/-- The refusals common to the adapter commands of a span. -/
def adapterSpan (s : State) (sp : Nat) : Option Nat :=
  if !(s.span sp).cfg.on ∨ s.spanBusy sp ∨ s.training sp then some 0x12
  else if (s.span sp).cur.isNone then some 0x2E
  else none

/-- The refusals of an index for a load or a replacement (R366, R367). -/
def indexStatus (x : AdIndex) (replace : Bool) : Option Nat :=
  if x.st = 3 then some 0x13
  else if replace then
    (if x.st ≠ 2 ∨ x.oldOnly then some 0x2A else if (AdIndex.staged x).isSome ∨ 4 ≤ x.vers.length then some 0x13 else none)
  else if x.st ≠ 0 then some 0x2E
  else none

/-- A new version accepted (R366): its objects allocated and on the move. -/
def adapterBegin (s : State) (sp a v src : Nat) (h : PackHdr) (l : List FactorObj) (i : Nat) : State :=
  match s.allocFactors sp i src l with
  | none => s.endOp i 0x35 []
  | some (nums, s) =>
    let y : AdVer := { ver := v, role := 1, objs := nums, loaded := false, port := (s.op i).who.port }
    (s.modAdapter sp a fun x =>
      { x with st := max 1 x.st, vers := x.vers ++ [y], op := some i, rank := h.rank, targets := h.targets, model := h.model,
               layers := h.layers, aFmt := h.aFmt, bFmt := h.bFmt }).adapterLoaded i

/-- ADAPTER_LOAD and ADAPTER_REPLACE. -/
def adapterCmd (s : State) (c : Caller) (pkt : Packet) (replace : Bool) : State :=
  let sp := pkt.span
  let a := pkt.fld 0 2
  let src := pkt.fld 4 4
  let x := s.adapter sp a
  let v := if replace then nextVer x.last else 1
  match s.adapterSpan sp with
  | some st => s.fin c st
  | none =>
    if 256 ≤ a then s.fin c 0x27
    else match indexStatus x replace, s.packStatus c.port sp src, (s.span sp).cur with
      | some st, _, _ => s.fin c st
      | none, some st, _ => s.fin c st
      | none, none, none => s.fin c 0x2E
      | none, none, some cp =>
        if !s.packOk src cp then s.fin c 0x24
        else
          let l := s.packObjects src cp
          let n := (l.map fun f => f.tiles * tileBytes f.fmt false 0).sum
          if s.shareFree sp < n then s.fin c 0x35
          else if s.dirFree < l.length then s.fin c 0x34
          else s.startOp c (if replace then 0x14 else 0x13) sp n (.adapter a v replace) fun i s =>
            s.adapterBegin sp a v src (PackHdr.parse (s.objRead src 0 256)) l i

/-- ADAPTER_DROP (R366). -/
def adapterDrop (s : State) (c : Caller) (pkt : Packet) : State :=
  let sp := pkt.span
  let a := pkt.fld 0 2
  let x := s.adapter sp a
  match s.adapterSpan sp with
  | some st => s.fin c st
  | none =>
    if 256 ≤ a then s.fin c 0x27
    else if x.st = 3 then s.fin c 0x13
    else if x.st ≠ 2 then s.fin c 0x2A
    else s.startOp c 0x15 sp x.vers.length (.drop a) fun i s =>
      let s := match x.op, AdIndex.staged x with
        | some k, some _ => s.failAdapter k 0x2E
        | _, _ => s
      s.modAdapter sp a fun x =>
        { x with st := 3, op := some i, vers := x.vers.map fun y => if y.role = 0 then { y with role := 2, port := c.port } else y }

/-! ### At a step boundary (R365, R366, R369) -/

/-- Adapter indices of a span that are not EMPTY. -/
def indicesOf (s : State) (sp : Nat) : List Nat := (s.adapters.filter fun e => e.1 / 65536 == sp).map fun e => e.1 % 65536

/-- Retiring versions of one index that nothing refers to are freed (R365); a DROPPING index without versions turns EMPTY. -/
def retireIndex (s : State) (sp a : Nat) : State :=
  let gone := ((s.adapter sp a).vers.filter fun v => v.role == 2 && s.verRefs sp a v.ver == 0)
  let s := forEach gone (fun v t =>
    (t.dropVersion v).notice v.port 0x04 sp noSlot 0 noObject (a * 65536 + v.ver)) s
  let s := s.modAdapter sp a fun x => { x with vers := x.vers.filter fun v => !gone.contains v }
  let x := s.adapter sp a
  if x.st = 3 ∧ x.vers.isEmpty then
    let s := s.modAdapter sp a fun _ => {}
    match x.op with
    | some i => s.endOp i 0x00 []
    | none => s
  else s

/-- Item 1 of R260 for adapters. -/
def retireVersions (s : State) (sp : Nat) : State := forEach (s.indicesOf sp) (fun a t => t.retireIndex sp a) s

/-- The switch of a staged version that is RESIDENT (R366). -/
def switchIndex (s : State) (sp a : Nat) : State :=
  let x := s.adapter sp a
  match x.st == 2, AdIndex.staged x, AdIndex.current x with
  | true, some v, some old =>
    if !v.loaded || (x.op.any fun i => (s.op i).st != 0) then s
    else
      let s := s.modAdapter sp a fun x => { x with op := none, last := v.ver, vers := x.vers.map fun y =>
        if y = v then { y with role := 0 } else if y = old then { y with role := 2, port := v.port } else y }
      match x.op with
      | some i => s.endOp i 0x00 (leBytes 2 old.ver ++ leBytes 2 v.ver ++ leBytes 4 0)
      | none => s
  | _, _, _ => s

/-- The switches of every index, after item 4 of R260. -/
def switchAdapters (s : State) (sp : Nat) : State := forEach (s.indicesOf sp) (fun a t => t.switchIndex sp a) s

/-- At the switch of a model, indices that do not match the new image stay with the old copy (R369). -/
def carryAdapters (s : State) (sp : Nat) (c : ModelCopy) : State :=
  forEach (s.indicesOf sp) (fun a t =>
    let x := t.adapter sp a
    if t.packMatches x.model x.layers x.aFmt x.bFmt c then t else t.modAdapter sp a fun x => { x with oldOnly := true }) s

/-- What becomes of a running load, replacement or drop of an index that goes away. -/
def endIndexOp (s : State) (sp a : Nat) : State :=
  let x := s.adapter sp a
  match x.op with
  | none => s
  | some i => s.endOp i (if x.st = 3 then 0x00 else 0x2E) []

/-- When the old copy retires, the indices that stayed with it are dropped (R369). -/
def dropOldOnly (s : State) (sp : Nat) : State :=
  forEach (s.indicesOf sp) (fun a t =>
    let x := t.adapter sp a
    if !x.oldOnly then t
    else
      let t := forEach x.vers (fun v u => u.dropVersion v) t
      let t := (t.endIndexOp sp a).modAdapter sp a fun _ => {}
      match (t.span sp).swapPort with
      | some p => t.notice p 0x05 sp noSlot 0 noObject a
      | none => t) s

/-- Adapter operations of a span that is emptied end. -/
def endAdapterOps (s : State) (sp : Nat) : State := forEach (s.indicesOf sp) (fun a t => t.endIndexOp sp a) s

end State

/-- ADAPTER_LOAD, opcode 0x13. -/
def execAdapterLoad (p : PortId) (pkt : Packet) (s : State) : Out := .next (s.serve 0x13 p pkt fun c pkt s => s.adapterCmd c pkt false)
/-- ADAPTER_REPLACE, opcode 0x14. -/
def execAdapterReplace (p : PortId) (pkt : Packet) (s : State) : Out := .next (s.serve 0x14 p pkt fun c pkt s => s.adapterCmd c pkt true)
/-- ADAPTER_DROP, opcode 0x15. -/
def execAdapterDrop (p : PortId) (pkt : Packet) (s : State) : Out := .next (s.serve 0x15 p pkt fun c pkt s => s.adapterDrop c pkt)
/-- The last tile of an object's move is written and the old home's reads are complete (R164, R165). -/
def execObjectMoveEnd (o : ReadsEnd) (s : State) : Out := .next (s.objectMoveEnd o.id o.errs)

end Sys2Proof.Machine
end

