-- ==== Sys2Proof/Machine/AdapterRuns.lean ====
section
/-!
DEFINITION. The rows of a step in groups (09, R265), and what adapters add to the step programme (12, R360 to R362).
-/
namespace Sys2Proof.Machine

/-- A field of an instruction or a descriptor set. -/
def setField {n : Nat} (w : BitVec n) (hi lo v : Nat) : BitVec n :=
  BitVec.ofNat n (w.toNat - bits w hi lo * 2 ^ lo + v % 2 ^ (hi + 1 - lo) * 2 ^ lo)

/-- The shape for `r` rows: full from 17, thin 16 from 9, thin 8 below (R265), with the codes of R85. -/
def shapeFor (r : Nat) : Nat := if 17 ≤ r then 0 else if 9 ≤ r then 2 else 3

/-- The groups of `n` rows, 64 at a time (R265). -/
def rowGroups (n : Nat) : List RowGroup :=
  (List.range (cdiv n 64)).map fun g =>
    let r := min 64 (n - g * 64)
    { first := g * 64, rows := r, shape := shapeFor r }

/-- The runs of a list of rows, each with its adapter index and version, from row `at_` of a group (R360). -/
def runsFrom (group at_ : Nat) : List (Nat × Nat) → List AdapterRun
  | [] => []
  | k :: r =>
    match runsFrom group (at_ + 1) r with
    | x :: rest =>
      if (x.index, x.ver) = k then { x with first := at_, rows := x.rows + 1, shape := shapeFor (x.rows + 1) } :: rest
      else { group, first := at_, rows := 1, index := k.1, ver := k.2, shape := shapeFor 1 } :: x :: rest
    | [] => [{ group, first := at_, rows := 1, index := k.1, ver := k.2, shape := shapeFor 1 }]

/-- Lines of one row of 64 elements of a format. -/
def rowLines (fmt : Nat) : Nat := elemBits fmt / 8

/-- Lines of one row of the partial sums of an instruction. -/
def sumLines (w : Inst256) : Nat := Mx.cols w / 16

/-- The format of the intermediate t for a format of A (R358). -/
def interFmt (aFmt : Nat) : Nat := if aFmt = 0x8 then 0x1 else aFmt

/-- A word with the listed fields (high bit, low bit, value) set. -/
def setFields {n : Nat} (w : BitVec n) (l : List (Nat × Nat × Nat)) : BitVec n := l.foldl (fun w f => setField w f.1 f.2.1 f.2.2) w

/-- The line of the run's first row of partial sums. -/
def runSums (w : Inst256) (r : AdapterRun) : Nat := bits w 175 160 + r.first * sumLines w

/-- The fields that make an instruction one of a run: shape, valid rows, and the rows of its partial sums and activations (R361). -/
def forRun (base : Inst256) (r : AdapterRun) : List (Nat × Nat × Nat) :=
  [(13, 11, r.shape), (46, 40, r.rows), (175, 160, runSums base r), (159, 144, bits base 159 144 + r.first * rowLines (Mx.afmt base))]

/-- Whether a base projection needs the two steps of R362: it accumulates in INT32, or scales its columns. -/
def needsCopy (base : Inst256) : Bool := Mx.intAcc base || Mx.sEn base

/-- The line of a run's first output row of a projection. -/
def runOut (base : Inst256) (r : AdapterRun) : Nat := bits base 191 176 + r.first * rowLines (Mx.ofmt base)

/-- The last base instruction of a projection, over the rows of an adapted run (R362): it leaves its FP32 sums in the partial-sum region, or
writes scaled FP32 sums to the pool. Its signal is the up product's (log entry 86). -/
def runBase (p : Projection) (r : AdapterRun) : Inst256 :=
  let w := setFields p.base (forRun p.base r)
  if needsCopy p.base then
    setFields w [(30, 30, 1), (35, 32, 0x0), (36, 36, 0), (93, 88, p.hCopy), (191, 176, r.first * sumLines p.base), (225, 225, 0)]
  else setFields w [(30, 30, 0), (225, 225, 0)]

/-- The line-counted move that copies a run's scaled sums back into the partial-sum region (R362). -/
def copyBack (p : Projection) (r : AdapterRun) : BitVec 512 :=
  setFields 0 [(4, 4, 1), (29, 24, p.hCopy), (37, 32, bits p.base 85 80), (63, 48, r.rows * sumLines p.base),
    (79, 64, r.first * sumLines p.base), (95, 80, runSums p.base r)]

/-- The down product of a run, t = xA (R361): full K, N = 64, its output in the format of t; with INT8 A the column scales apply. -/
def downProduct (p : Projection) (x : AdIndex) (r : AdapterRun) : Inst256 :=
  setFields p.base (forRun p.base r ++
    [(10, 8, 0), (15, 15, 0), (19, 16, x.aFmt), (24, 24, 0), (30, 30, 1), (35, 32, interFmt x.aFmt), (36, 36, 0), (57, 48, p.kBlocks),
     (69, 64, p.hA), (85, 80, p.hSum), (93, 88, p.hT), (101, 96, p.hScale), (102, 102, b2n (x.aFmt == 0x8)), (119, 104, 0), (143, 128, 0),
     (175, 160, r.first * 4), (191, 176, r.first * rowLines (interFmt x.aFmt)), (224, 224, 0), (225, 225, 0)])

/-- The up product of a run, tB (R361): k_blocks 1, added to the partial sums of the run's rows, with the output fields of the projection. For
the K and V projections, targets 1 and 2, h_o is the append handle (R362) and o_off stays the piece number of R338. -/
def upProduct (p : Projection) (x : AdIndex) (r : AdapterRun) (appHandle : Nat) : Inst256 :=
  let t := interFmt x.aFmt
  let out := if p.target = 1 ∨ p.target = 2 then [(93, 88, appHandle)] else [(191, 176, runOut p.base r)]
  setFields p.base (forRun p.base r ++
    [(10, 8, 0), (15, 15, 1), (19, 16, x.bFmt), (23, 20, t), (24, 24, 0), (25, 25, 0), (30, 30, 1), (57, 48, 1), (69, 64, p.hB), (77, 72, p.hT),
     (102, 102, 0), (143, 128, 0), (159, 144, r.first * rowLines t), (224, 224, 0)] ++ out)

namespace State

/-- The adapter index and version of a row's request, version 0 for none. -/
def rowAdapter (s : State) (r : RowEntry) : Nat × Nat :=
  let x := s.slot r.slot
  if x.par.adapter = 0xFFFF then (0xFFFF, 0) else (x.par.adapter, x.adVer)

/-- The runs of the groups of a step (R360, R361). -/
def adapterRuns (s : State) (rows : List RowEntry) (groups : List RowGroup) : List AdapterRun :=
  groups.zipIdx.flatMap fun (g, i) => runsFrom i 0 (((rows.drop g.first).take g.rows).map s.rowAdapter)

/-- What the adapters of a step add to the step programme (R361, R362): for each role and group of the copy that the step runs, the projections that
a run's adapter targets. -/
def adaptedInsts (s : State) (sp : Nat) (c : ModelCopy) (rows : List RowEntry) (groups : List RowGroup) : List AdapterInsts :=
  let runs := (s.adapterRuns rows groups).filter fun r => r.ver != 0
  let app := s.rd Fld.kvwCfg_appHandle 0 sp
  (List.range c.hdr.roles).flatMap fun role => runs.flatMap fun r =>
    let x := s.adapter sp r.index
    ((Config.projections c.hdr.modelId c.hdr.generation role r.group).filter fun p => x.targets.testBit p.target).map fun p =>
      { role, layer := p.layer, target := p.target, run := r, base := runBase p r,
        copy := if needsCopy p.base then some (copyBack p r) else none,
        down := downProduct p x r, up := upProduct p x r app }

end State
end Sys2Proof.Machine
end

