-- ==== Sys2Proof/Machine/Backward.lean ====
section
/-!
DEFINITION. The attention of the backward pass (11, R355, R356): scores recomputed, row statistics, probabilities, and the gradients of
queries, keys and values of one query head.
-/
namespace Sys2Proof.Machine

/-- An output-stationary sum: every product added to the running sum in the MACs (R44, R83; log entry 61). -/
def osDot (a b : List Num) : F32 := (List.zip a b).foldl (fun acc p => accAdd acc (arrayProduct p.1 p.2)) 0

/-- An input-stationary sum: passes of 64 elements, `n` of them, each added to the sum of those before it (R44, R83). -/
def isDot : Nat → List Num → List Num → F32
  | 0, _, _ => 0
  | n + 1, a, b =>
    let rest := (List.range n).map fun k => osDot ((a.drop (64 * (k + 1))).take 64) ((b.drop (64 * (k + 1))).take 64)
    rest.foldl (fun acc q => accAdd acc (numF32 q)) (osDot (a.take 64) (b.take 64))

/-- Column `i` of a matrix given by rows. -/
def column {α : Type} (d : α) (i : Nat) (l : List (List α)) : List α := l.map fun r => r.getD i d

/-- Element-wise products under RNE summed in the order of R95. -/
def dotF32 (a b : List F32) : F32 := reduceF32 (addF32 .rne) 0 (List.zipWith (mulF32 .rne) a b)

/-- A value as an array operand of the backward pass (log entry 22). -/
def gradNum (kind : Nat) (x : F32) : Num := let e := Config.gradOperand kind x; decodeElem e.1 e.2

end Sys2Proof.Machine

namespace Sys2Proof.HeadBack
open Sys2Proof.Machine

/-- The head size. -/
def dim (h : HeadBack) : Nat := (h.q.headD []).length

/-- The scaled scores of row `r`, masked (R335, R356): the output-stationary products of the forward pass. A training span evicts nothing, so
a key is masked where it stands behind the row. -/
def scores (h : HeadBack) (r : Nat) : List F32 :=
  let q := (h.q.getD r []).map (decodeElem h.qFmt)
  (List.zip h.k h.keys).map fun (k, p) =>
    if p ≤ h.rows.getD r 0 then mulF32 .rne (osDot q (k.map (decodeElem h.kFmt))) (Config.scoreScale h.dim) else negInf

/-- The two statistics of row `r` (R355). -/
def stat (h : HeadBack) (r : Nat) : RowStat :=
  let s := h.scores r
  let m := reduceF32 maxF32 negInf s
  { layer := h.layer, head := h.head, row := h.rows.getD r 0, m,
    l := addF32 .rne m (canonNaN (Config.logSum (reduceF32 (addF32 .rne) 0 (s.map fun x => expF32 (subF32 .rne x m))))) }

/-- The probabilities of row `r` (R356): exp((s − m) − (ℓ − m)). -/
def probs (h : HeadBack) (r : Nat) : List F32 :=
  let t := h.stat r
  (h.scores r).map fun x => expF32 (subF32 .rne (subF32 .rne x t.m) (subF32 .rne t.l t.m))

/-- dS of row `r` (R356): P ⊙ (dP − Δ), with dP = d*O* *V*ᵀ as an output-stationary product and Δ the row sum of d*O* ⊙ *O*. -/
def dScores (h : HeadBack) (r : Nat) : List F32 :=
  let dO := h.dOut.getD r []
  let delta := dotF32 dO (h.out.getD r [])
  List.zipWith (fun p v => mulF32 .rne p (subF32 .rne (osDot (dO.map (gradNum 2)) (v.map (decodeElem h.kFmt))) delta)) (h.probs r) h.v

/-- The gradients of the head before they are rotated back (R356): dQ = dS K, and the weight-side products dV = Pᵀ dO and dK = dSᵀ Q in IS mode. -/
def grads (h : HeadBack) : HeadGrad :=
  let rows := List.range h.q.length
  let cols := List.range h.dim
  let ps := rows.map h.probs
  let ds := rows.map h.dScores
  let num := fun (fmt : Nat) (l : List (List Nat)) => l.map fun r => r.map (decodeElem fmt)
  let passes := cdiv h.q.length 64
  let weightSide := fun (kind : Nat) (a : List (List F32)) (b : List (List Machine.Num)) =>
    (List.range h.k.length).map fun j => cols.map fun c => isDot passes ((column 0 j a).map (gradNum kind)) (column .nan c b)
  { layer := h.layer, head := h.head,
    dq := ds.map fun d => cols.map fun c => osDot (d.map (gradNum 1)) (column .nan c (num h.kFmt h.k)),
    dk := weightSide 1 ds (num h.qFmt h.q),
    dv := weightSide 0 ps (h.dOut.map fun r => r.map (gradNum 2)) }

end Sys2Proof.HeadBack

namespace Sys2Proof.Machine.State

/-- A gradient of a row at position `p` rotated back, when the span rotates its keys (R356). -/
def rotateBack (s : State) (sp p : Nat) (x : List F32) : List F32 :=
  if s.flag Fld.kvwCfg_ropeEn 0 sp && s.flag Fld.kvwRope_valid 0 sp then
    (List.range (cdiv x.length 64)).flatMap fun j => s.rotateHalf sp x.length p j true ((x.drop (64 * j)).take 64)
  else x

/-- The gradients of a head as they reach the projection gradients (R356). -/
def headGrads (s : State) (sp : Nat) (h : HeadBack) : HeadGrad :=
  let g := h.grads
  { g with dq := (List.zip g.dq h.rows).map fun e => s.rotateBack sp e.2 e.1,
           dk := (List.zip g.dk h.keys).map fun e => s.rotateBack sp e.2 e.1 }

end Sys2Proof.Machine.State
end

