-- ==== Sys2Proof/Machine/Training.lean ====
section
/-!
DEFINITION. Training jobs (12, R370 to R375): their start, the optimiser step, checkpoints and the install at their end.
-/
namespace Sys2Proof.Machine

/-- The records of a dataset from byte `off` on (R371): each a length and so many words. -/
def records (b : List Byte) : Nat → Nat → List (List Nat)
  | _, 0 => []
  | off, k + 1 =>
    let n := leAt b off 4
    (List.range n).map (fun i => leAt b (off + 4 + 4 * i) 4) :: records b (off + 4 + 4 * n) k

/-- Whether a record is used (R371): every token lies below the vocabulary, and some word is a target. -/
def usable (vocab : Nat) (l : List Nat) : Bool := (l.all fun w => w % 2 ^ 18 < vocab) && l.any fun w => w.testBit 31

/-- ASCII "RHODATA1". -/
def dataMagic : List Byte := [0x52, 0x48, 0x4F, 0x44, 0x41, 0x54, 0x41, 0x31]

/-- 1 in FP32. -/
def oneF32 : F32 := 0x3F800000

namespace TrainJob

/-- The first value of factor element `i` (R370): of a fresh adapter, or of the version the job started from. -/
def first (j : TrainJob) (held : List Byte) (i : Nat) : F32 :=
  if j.init = 0xFFFF then Config.freshFactor j.seed j.rank j.targets i else Config.heldFactor held i

/-- The factor for the AdamW update of one element (R373): the new m, v and w. -/
def adam (j : TrainJob) (t : Nat) (w m v g : F32) : F32 × F32 × F32 :=
  let mul := mulF32 .rne
  let add := addF32 .rne
  let sub := subF32 .rne
  let div := divF32 .rne
  let m := add (mul j.beta1 m) (mul (sub oneF32 j.beta1) g)
  let v := add (mul j.beta2 v) (mul (mul (sub oneF32 j.beta2) g) g)
  let mh := div m (sub oneF32 (canonNaN (Config.powAssist j.beta1 t)))
  let vh := div v (sub oneF32 (canonNaN (Config.powAssist j.beta2 t)))
  let step := add (mul mh (rsqrtF32 (add vh (mul j.eps j.eps)))) (mul j.wd w)
  (m, v, sub w (mul j.lr step))

/-- The gradients of a step after the clip of R373. -/
def clipped (j : TrainJob) (g : List Grad) : List Grad :=
  if ltF32 0 j.clip then
    let norm := canonNaN (Config.normAssist (reduceF32 (addF32 .rne) 0 (g.map fun x => mulF32 .rne x.g x.g)))
    let k := minF32 oneF32 (divF32 .rne j.clip norm)
    g.map fun x => { x with g := mulF32 .rne x.g k }
  else g

/-- One optimiser update over finite gradients (R373). -/
def update (j : TrainJob) (held : List Byte) (g : List Grad) : TrainJob :=
  let t := j.t + 1
  (j.clipped g).foldl (fun j x =>
    let d := j.first held x.index
    let (m, v, w) := j.adam t (SMap.get d j.w x.index) (SMap.get 0 j.m x.index) (SMap.get 0 j.v x.index) x.g
    { j with w := SMap.put d j.w x.index w, m := SMap.put 0 j.m x.index m, v := SMap.put 0 j.v x.index v }) { j with t, bad := 0 }

/-- A step's gradients taken (R373): a step with a NaN or an infinity updates nothing and is counted. -/
def take (j : TrainJob) (held : List Byte) (g : List Grad) : TrainJob :=
  let j := if g.all fun x => isFin32 x.g then j.update held g else { j with bad := j.bad + 1, skipUpd := j.skipUpd + 1 }
  { j with done := j.done + 1 }

/-- The order in which an epoch visits the records (R372): a Fisher-Yates shuffle with the draws of a cell generator that starts from the job's
seed and the epoch (log entry 22). -/
def order (j : TrainJob) (epoch : Nat) : List Nat :=
  let start := seedRng (BitVec.ofNat 32 (j.seed ^^^ epoch))
  (forEach (List.range (j.records - 1)) (fun k (p : BitVec 32 × List Nat) =>
    let last := j.records - 1 - k
    let x := xorshift p.1
    let pick := Config.shufflePick x.toNat (last + 1) % (last + 1)
    (x, (p.2.set last (p.2.getD pick 0)).set pick (p.2.getD last 0))) (start, List.range j.records)).2

/-- The job past the next record of its epoch; the last record ends the epoch. -/
def nextRecord (j : TrainJob) : TrainJob :=
  if j.cursor + 1 < j.records then { j with cursor := j.cursor + 1 } else { j with epoch := j.epoch + 1, cursor := 0 }

/-- The records of a step's batch visited (R371, R372): one that is not to be used is skipped and counted, until the batch is full or nothing in
two epochs can be used. -/
def visit (use : Nat → Bool) : Nat → Nat → TrainJob → TrainJob
  | 0, _, j => j
  | _, 0, j => j
  | fuel + 1, need + 1, j =>
    if use ((j.order j.epoch).getD j.cursor 0) then visit use fuel need j.nextRecord
    else visit use fuel (need + 1) { j.nextRecord with skipRec := j.skipRec + 1 }

/-- What a checkpoint of the job holds (R374). -/
def checkpoint (j : TrainJob) : Checkpoint := { w := j.w, m := j.m, v := j.v, t := j.t, epoch := j.epoch, cursor := j.cursor }

/-- The job with the state of a checkpoint (RESUME). -/
def restore (j : TrainJob) (c : Checkpoint) : TrainJob :=
  let put := fun (l : List (Nat × F32)) => l.foldl (fun m e => SMap.put 0 m e.1 e.2) ([] : SMap F32)
  { j with w := c.w.foldl (fun m e => SMap.ins (SMap.del m e.1) e.1 e.2) ([] : SMap F32), m := put c.m, v := put c.v, t := c.t, epoch := c.epoch,
           cursor := c.cursor }

/-- The parameters of a TRAIN_START body (R370, R402). -/
def ofBody (b : List Byte) : TrainJob :=
  let f := fun (o : Nat) => (BitVec.ofNat 32 (leAt b o 4) : F32)
  { init := leAt b 0 2, rank := byteAt b 2, targets := byteAt b 3, dataset := leAt b 4 4, lr := f 8, beta1 := f 0x0C, beta2 := f 0x10,
    eps := f 0x14, wd := f 0x18, clip := f 0x1C, batch := leAt b 0x20 2, steps := leAt b 0x24 4, ckpt := leAt b 0x28 4,
    every := leAt b 0x2C 4, seed := leAt b 0x30 4, insSpan := byteAt b 0x34, insIdx := leAt b 0x36 2, done := 0, t := 0, epoch := 0,
    cursor := 0, bad := 0, skipRec := 0, skipUpd := 0, w := [], m := [], v := [], initVer := 0, records := 0, finishing := false }

/-- The ranges of R370. -/
def inRange (j : TrainJob) (resume : Bool) : Bool :=
  let unit := fun (x : F32) => Params.fpIn 0 oneF32 x && ltF32 x oneF32
  (j.init == 0xFFFF || j.init < 256) && 1 ≤ j.rank && j.rank ≤ 64 && 1 ≤ j.targets && j.targets < 128 && isFin32 j.lr && isFin32 j.wd &&
  unit j.beta1 && unit j.beta2 && isFin32 j.eps && ltF32 0 j.eps && isFin32 j.clip && !ltF32 j.clip 0 && 1 ≤ j.batch && j.batch ≤ 256 &&
  1 ≤ j.steps && (j.insSpan == 0xFF || (j.insSpan < 8 && j.insIdx < 256)) && (!resume || j.ckpt != 0)

end TrainJob

namespace State

/-- The bytes of the version that a job started from. -/
def heldBytes (s : State) (sp : Nat) (j : TrainJob) : List Byte :=
  ((s.adapter sp j.init).vers.filter fun v => v.ver == j.initVer).flatMap fun v => v.objs.flatMap fun o => s.objRead o 0 (s.obj o).e.bytes

/-- The status of a dataset object (R370); `none` passes. -/
def datasetStatus (s : State) (p sp o : Nat) : Option Nat :=
  match s.packStatus p sp o with
  | some st => some st
  | none => if !(s.obj o).e.ro then some 0x21 else none

/-- The status of a checkpoint object (R370): none, or the port's own and writable. -/
def ckptStatus (s : State) (p o : Nat) : Option Nat := if o = 0 then none else s.jobObjStatus p o 0 true

/-- TRAIN_START (R370, R371). -/
def trainStart (s : State) (c : Caller) (pkt : Packet) : State :=
  let sp := pkt.span
  let j := TrainJob.ofBody pkt.body
  let x := s.adapter sp j.init
  if !(s.span sp).cfg.on ∨ s.spanBusy sp ∨ s.training sp then s.fin c 0x12
  else if !j.inRange pkt.resume then s.fin c 0x27
  else match (s.span sp).cur with
    | none => s.fin c 0x2E
    | some cp =>
      if !s.isTrain sp ∨ s.boundTo sp ≠ 0 then s.fin c 0x2E
      else if !Config.hasTrainingPlan (s.imgSection cp.image 4) then s.fin c 0x24
      else if j.init ≠ 0xFFFF ∧ (x.st ≠ 2 ∨ x.oldOnly) then s.fin c 0x2A
      else match s.datasetStatus c.port sp j.dataset, s.ckptStatus c.port j.ckpt with
        | some st, _ => s.fin c st
        | none, some st => s.fin c st
        | none, none =>
          let hdr := s.objRead j.dataset 0 64
          let (vocab, n, _) := Config.datasetHeader hdr
          if hdr.take 8 ≠ dataMagic ∨ vocab ≠ cp.hdr.vocab ∨ n = 0 then s.fin c 0x24
          else
            let j := { j with records := n }
            let j := if j.init = 0xFFFF then j
              else { j with rank := x.rank, targets := x.targets, initVer := ((AdIndex.current x).map (·.ver)).getD 0 }
            let j := if pkt.resume then j.restore (Config.ckptDecode (s.objRead j.ckpt 0 (s.obj j.ckpt).e.bytes)) else j
            s.startOp c 0x60 sp j.steps (.train j) fun _ s => s

/-- A job written back. -/
def setTrain (s : State) (i : Nat) (j : TrainJob) : State := s.modOp i fun o => { o with job := .train j, done := j.done }

/-- The job's state written into its checkpoint object (R374). -/
def writeCkpt (s : State) (j : TrainJob) : State :=
  if j.ckpt = 0 then s
  else s.objWrite s.tier.nextMove j.ckpt 0 ((Config.ckptEncode j.checkpoint).take (s.obj j.ckpt).e.bytes)

/-- The body of a TRAIN_START's final reply (R400). -/
def trainBody (j : TrainJob) : List Byte := leBytes 4 j.skipRec ++ leBytes 4 j.skipUpd ++ leBytes 4 j.done ++ leBytes 4 0

/-- A training job ends. -/
def trainEnd (s : State) (i : Nat) (j : TrainJob) (status : Nat) : State := s.endOp i status (trainBody j)

/-- Objects of an installed adapter, RESIDENT with the bytes of the trained factors. -/
def allocTrained (s : State) (sp : Nat) (w : List (Nat × F32)) : List ((Nat × Nat × Nat) × Nat) → Option (List Nat × State)
  | [] => some ([], s)
  | ((role, fmt, tiles), k) :: r =>
    let n := tiles * tileBytes fmt false 0
    let cell := ((s.span sp).cfg.roles[role]?).getD 0
    (s.t1Find (cell % 8) n).bind fun a =>
      (s.allocObj { e := { st := stResident, home := 1, fmt, grant := 2 ^ sp, owner := 0, ro := true, addr := a, tiles },
                    role := some role }).bind
        fun (o, s) => ((s.dramWrite a (slice (Config.installBytes w k) 0 n)).allocTrained sp w r).map fun (l, s) => (o :: l, s)

/-- The refusals of the span that a job `i` installs into (R374): those of an adapter command (R366), the job itself apart. -/
def installSpan (s : State) (i sp : Nat) : Option Nat :=
  if !(s.span sp).cfg.on ∨ s.spanBusy sp ∨ (s.ops.any fun e => e.1 != i && e.2.live && e.2.span == sp && e.2.opcode == 0x60) then some 0x12
  else if (s.span sp).cur.isNone then some 0x2E
  else none

/-- The install at the end of a job (R374): as ADAPTER_LOAD to an EMPTY index, as ADAPTER_REPLACE to a READY one; 0x00, or its refusal. -/
def install (s : State) (i : Nat) (j : TrainJob) (model gen : Nat) (port : Nat) : Nat × State :=
  let sp := j.insSpan
  let a := j.insIdx
  let x := s.adapter sp a
  let replace := x.st == 2
  match s.installSpan i sp, indexStatus x replace, (s.span sp).cur with
  | some st, _, _ => (st, s)
  | none, some st, _ => (st, s)
  | none, none, none => (0x2E, s)
  | none, none, some c =>
    if c.hdr.modelId ≠ model then (0x24, s)
    else
      let plan := Config.installPlan model gen j.rank j.targets
      let n := (plan.map fun p => p.2.2 * tileBytes p.2.1 false 0).sum
      let (af, bf) := (factorFmts (Config.baseActivation (s.imgTables c.image))).getD (0, 0)
      if s.shareFree sp < n then (0x35, s)
      else if s.dirFree < plan.length then (0x34, s)
      else match s.allocTrained sp j.w plan.zipIdx with
        | none => (0x35, s)
        | some (objs, s) =>
          let v := if replace then nextVer x.last else 1
          let y : AdVer := { ver := v, role := if replace then 1 else 0, objs, loaded := true, port }
          (0x00, s.modAdapter sp a fun x =>
            { x with st := 2, vers := x.vers ++ [y], last := if replace then x.last else v, rank := j.rank, targets := j.targets, model,
                     layers := c.hdr.layers, aFmt := af, bFmt := bf })

/-- Whether record `k` of a job's dataset is used (R371). -/
def usesRecord (s : State) (j : TrainJob) (k : Nat) : Bool :=
  let b := s.objRead j.dataset 0 (s.obj j.dataset).e.bytes
  let (vocab, n, off) := Config.datasetHeader (b.take 64)
  usable vocab ((records b off n).getD k [])

/-- The gradients of a step with what its attention gives them (R356, R372). -/
def allGrads (s : State) (sp : Nat) (heads : List HeadBack) (g : List Grad) : List Grad :=
  let hs := heads.map (s.headGrads sp)
  if hs.isEmpty then g else g.map fun x => { x with g := canonNaN (Config.factorGrad hs x.index x.g) }

/-- A step's work is done (R373, R374); the row statistics of its forward pass are kept (R355). -/
def trainTake (s : State) (i : Nat) (j : TrainJob) (heads : List HeadBack) (g : List Grad) : State :=
  let sp := (s.op i).span
  let g := s.allGrads sp heads g
  let j := { j with stats := heads.flatMap fun (h : HeadBack) => (List.range h.q.length).map h.stat }
  let j := (j.take (s.heldBytes sp j) g).visit (s.usesRecord j) (j.batch * (2 * j.records)) j.batch
  let gone := j.ckpt ≠ 0 && !((s.obj j.ckpt).e.st == stResident || (s.obj j.ckpt).e.st == stMoving)
  let s := s.setTrain i j
  if gone then s.trainEnd i j 0x57
  else if 8 ≤ j.bad then s.trainEnd i j 0x56
  else if j.done < j.steps then
    let s := if j.finishing || (j.every != 0 && j.done % j.every == 0) then s.writeCkpt j else s
    if j.finishing then s.setTrain i { j with finishing := false } else s
  else if j.insSpan = 0xFF then s.trainEnd i j 0x00
  else
    let c := (s.span sp).cur
    let (st, s) := s.install i j ((c.map (·.hdr.modelId)).getD 0) ((c.map (·.hdr.generation)).getD 0) (s.op i).who.port
    (if st = 0x00 then s else s.writeCkpt j).trainEnd i j st

/-- The end of a training step's work (R373, R374; 12, "Control and faults during a job"). A step in which a cell has faulted restarts, so its
work is not taken. -/
def trainStep (s : State) (i : Nat) (out : TrainOutcome) : State :=
  let o := s.op i
  match o.live, o.job with
  | true, .train j =>
    if o.st = 1 ∧ !j.finishing ∨ !(s.span o.span).faults.isEmpty then s
    else match out with
      | .gradients heads g => s.trainTake i j heads g
      | .datasetLost => s.trainEnd i j 0x57
      | .ckptLost => s.trainEnd i j 0x57
  | _, _ => s

end State

/-- TRAIN_START, opcode 0x60. -/
def execTrainStart (p : PortId) (pkt : Packet) (s : State) : Out := .next (s.serve 0x60 p pkt fun c pkt s => s.trainStart c pkt)
/-- The work of one optimiser step ends (R373). -/
def execTrainStep (op : Fin 64) (o : TrainOutcome) (s : State) : Out := .next (s.trainStep op o)

end Sys2Proof.Machine
end

