-- ==== Sys2Proof/Machine/Boundary.lean ====
section
/-!
DEFINITION. The step boundary (09, R260 to R265; 08, R243 to R248; 11, R322, R323, R332, R341, R346, R348; 12, R360, R365, R366; 16, R494 to
R498, R500): its items in order, the remap of a faulty cell, admission, and the composition of the next step.
-/
namespace Sys2Proof.Machine

/-- The objects of requests that wait for something or run: pages, page tables and masks. -/
def slotObjs (x : Slot) : List Nat :=
  (if x.pageObj = 0 then [] else [x.pageObj - 1]) ++ (if x.tabObj = 0 then [] else [x.tabObj - 1]) ++ x.par.mask.toList

namespace State

/-! ### Items 1 and 2 of R260: ends -/

/-- Slot `i` freed with its pages (R271): the items of a PACED request that wait for their release stay with the queue engine (R302). -/
def freeSlot (s : State) (i : Nat) : State :=
  let x := s.slot i
  let s := s.busy.freePages i
  let s : State := if x.held.isEmpty then s else { s with leaving := s.leaving ++ [(i, { x with st := 0 })] }
  ({ s with slotFreed := s.slotFreed ++ [i] } : State).modSlot i fun _ => { gen := x.gen }

/-- A request in ENDING, or one that turns ENDING here (R279): its final item if that is still owed, then its slot. -/
def endAndFree (s : State) (i : Nat) : State :=
  let x := s.slot i
  (if x.finalDue then s.endSlot i x.endReason x.endStatus [] x.generated
   else if x.endDue then s.endSlot i 5 0x0E [] x.generated else s).freeSlot i

/-- Item 1: requests in ENDING freed (R271), EVICTING pages freed (R348), adapter versions without references (R365). -/
def endRequests (s : State) (sp : Nat) : State :=
  let s := forEach ((s.spanSlots sp).filter fun i => (s.slot i).st == slEnding || (s.slot i).endDue) (fun i t => t.endAndFree i) s
  (forEach (s.spanSlots sp) (fun i t => t.freeEvicting i) s).retireVersions sp

/-- Requests of a span whose own data have become LOST (R183, R352, R502). -/
def lostSlots (s : State) (sp : Nat) : List Nat :=
  (s.spanSlots sp).filter fun i => (slotObjs (s.slot i)).any fun o => (s.obj o).e.st == stLost

/-- A request ended at once by its span: final item, slot and pages. -/
def forceEnd (s : State) (i reason status : Nat) : State :=
  let x := s.slot i
  if x.st = 0 then s
  else ((s.dropTurn i status).endSlot i reason status [] x.generated).freeSlot i

/-- T3 pages lost are reported by the walker (`KVW_STATUS.t3_lost`). -/
def reportT3 (s : State) (sp i : Nat) : State :=
  if (s.slot i).t3 && (s.obj ((s.slot i).pageObj - 1)).e.st == stLost then (s.wr Fld.kvwStatus_t3Lost 1).kvError 3 sp i 0 else s

/-- Item 2: the forced ends of R248, R183 and R204. -/
def forcedEnds (s : State) (sp : Nat) : State :=
  let l := (s.span sp).forced
  let s := s.modSpan sp fun x => { x with forced := [] }
  let s := forEach l (fun f t => if (t.slot f.slot).span = sp then t.forceEnd f.slot f.reason f.status else t) s
  forEach (s.lostSlots sp) (fun i t => (t.reportT3 sp i).forceEnd i 9 0x52) s

/-- Whether a request, a waiting request, a long operation, a model copy, a pool or an adapter names object `o`. -/
def objNamed (s : State) (o : Nat) : Bool :=
  s.slots.any (fun e => e.2.st != 0 && (slotObjs e.2).contains o) || s.reqs.any (fun r => r.par.mask == some o) ||
  s.ops.any (fun e => e.2.live && match e.2.job with
    | .flash j => j.src == o
    | .fw j => j.src == o
    | .train j => j.dataset == o || j.ckpt == o
    | .load j => j.objs.contains o
    | _ => false) ||
  s.spans.any (fun e => [e.2.cur, e.2.old, e.2.building].any (fun c => c.any fun c => c.objs.contains o) ||
    e.2.pools.any fun p => p.2.obj == o) ||
  s.adapters.any (fun e => e.2.vers.any fun v => v.objs.contains o) || s.tier.objs.any (fun e => e.2.pack.any fun p => p.1 == o)

/-- Objects that nothing holds any more: LOST ones (R164), and those of a port that has gone down (R178). -/
def sweepObjs (s : State) : State :=
  forEach s.objNums (fun o t =>
    let x := t.obj o
    let orphan := x.e.st == stResident && x.e.owner == 0 && x.buffer != 0 && x.e.home == 1
    if (x.e.st = stLost ∨ orphan) ∧ x.e.pins = 0 ∧ !t.legsOf o ∧ !t.objNamed o then t.freeObj o else t) s

/-- The old copy of a swap retires at the first boundary after its last request has ended (R243); cells that no role of the current copy needs keep
none (R233). -/
def retireOld (s : State) (sp : Nat) : State :=
  let x := s.span sp
  match x.old with
  | none => s
  | some c =>
    if (s.spanSlots sp).any fun i => (s.slot i).old then s
    else
      let s := (s.dropOldOnly sp).dropCopy sp (some c)
      let keep := (x.cur.map (·.hdr.roles)).getD 0
      let s := (s.modSpan sp fun x => { x with old := none, dual := false, turnOld := false, swapPort := none,
                                               cfg := { x.cfg with roles := x.cfg.roles.take keep } }).showRoles sp
      let s := s.wr Fld.imgSpan_state 2 0 sp
      match x.swapPort with
      | some p => s.notice p 0x03 sp noSlot 0 noObject c.hdr.generation
      | none => s

/-- An unload, or the unload of a span without a spare (R498), completes once no request is bound to the span (R248). -/
def unloadDone (s : State) (sp : Nat) : State :=
  let x := s.span sp
  if (x.unload.isNone && !x.lost) || s.boundTo sp != 0 then s
  else
    let s := (s.endAdapterOps sp).emptySpan sp
    let s := (s.modSpan sp fun x => { x with lost := false }).clrBit Fld.imgStatus_active sp
    match x.unload with
    | some (i, _) => s.endOp i 0x00 []
    | none => s

/-! ### The remap of a faulty cell (R494 to R498) -/

/-- What a self-test of cell `c` finds: 0 pass, 1 array, 2 memory (R484). -/
def testOf (env : BoundaryEnv) (c : Nat) : Nat := ((env.selfTest.find? fun e => e.1 == c).map (·.2)).getD 0

/-- The spare chosen for cell `c` (R485): one that fails its self-test is fenced, and the next is tried. -/
def chooseSpare (s : State) (env : BoundaryEnv) (c : Nat) : Nat → Option Nat × State
  | 0 => (none, s)
  | n + 1 =>
    match s.spareFor c (s.sparesTaken [] ((s.key.faulted.map (·.1)).takeWhile fun k => k != c)) with
    | none => (none, s)
    | some d =>
      match testOf env d with
      | 0 => (some d, s)
      | k => (s.cellFault d 0x04 (k == 2)).chooseSpare env c n

/-- An object of a cell that moves to a spare of another column (R494): its bytes stand in the spare's home slice afterwards. -/
def moveSlice (s : State) (o col : Nat) : State :=
  let x := s.obj o
  let n := x.e.bytes
  if x.e.st = stResident ∧ x.e.home = 1 then
    match s.t1Find col n with
    | none => s
    | some a =>
      let bad := s.objPoison o 0 n
      let s := (s.dramWrite a (s.objRead o 0 n)).poisonT1 a bad
      s.modObj o fun x => { x with e := { x.e with addr := a } }
  else if x.e.st = stMoving ∧ x.e.dest = 1 then
    match s.t1Find col n with
    | none => s
    | some a => (s.dramWrite a (readBytes 0 s.tier.dram x.destAddr n)).modObj o fun x => { x with destAddr := a }
  else s

/-- One object of a load brought back to the state before its relay (R497). -/
def unrelay (s : State) (i o : Nat) : State :=
  let x := s.obj o
  if x.e.st = stResident ∧ x.e.home = 1 ∧ x.e.originEn then
    s.modObj o fun x =>
      { x with e := { x.e with st := stMoving, home := 2, dest := 1, addr := (s.lib x.e.image).first * 2 ^ 30 + x.e.originTile * x.e.tile },
               destAddr := x.e.addr, load := i + 1 }
  else s

/-- The relay of a span's load restarts from the first object of a remapped role (R497): packets in the relay buffers go back to the tier engine,
and the load's latch counts the roles that have nothing left to relay. -/
def restartRelay (s : State) (sp role : Nat) : State :=
  match s.ops.find? fun e => e.2.live && e.2.span == sp && (match e.2.job with | .load j => !j.ready | _ => false) with
  | none => s
  | some (i, op) =>
    match op.job with
    | .load j =>
      let l := (j.objs.zip (s.imgObjs j.image)).dropWhile fun e => e.2.role != role
      let ids := l.map (·.1)
      let s := s.modTier fun t => { t with legs := t.legs.filter fun g => !(relayLeg i g && ids.contains g.obj) }
      let s := forEach (l.filter fun e => e.2.tier == 1) (fun e t => t.unrelay i e.1) s
      let keep := fun (h : RelayHdr) => !ids.contains h.obj
      let todo := (j.hops.reverse.flatMap (·.2)).filter keep ++ j.todo.filter keep ++ relayTiles l (s.opHandle i)
      let legs := (j.legs.filter fun e => !ids.contains e.1) ++ relayLegs l
      let roles := ((s.span sp).building.map (·.hdr.roles)).getD 0
      let idle := (List.range roles).filter fun r => !(todo.any fun p => p.role == r)
      (s.setLoad i { j with todo, legs, hops := [], latch := idle.length }).relayGo i
    | _ => s

/-- The headers of the copies whose step programmes stand in a span's cells. -/
def installedHdrs (s : State) (sp : Nat) : List ImageHdr :=
  let x := s.span sp
  (([x.cur, x.old, x.building].filterMap id).map (·.hdr)).filter fun h =>
    (s.spanCells sp).any fun n => (s.cell n).progs.any fun p => p.modelId == h.modelId && p.generation == h.generation

/-- Spare `d` takes the role and the place of cell `c` in span `sp`; the configuration epoch rises (R490, R494), and the step programmes that name
its latches are installed again (R495). -/
def replaceCell (s : State) (sp c d : Nat) (env : BoundaryEnv) : State :=
  let role := (s.span sp).cfg.roles.findIdx? (· == c)
  let hdrs := s.installedHdrs sp
  let fix := fun (r : SpanRec) => { r with cells := r.cells - (if r.cells.testBit c then 2 ^ c else 0) ||| (if r.cells.testBit c then 2 ^ d else 0),
                                           roles := r.roles.map fun n => if n = c then d else n }
  let s := if c % 8 = d % 8 then s
    else forEach (s.objNums.filter fun o => (s.obj o).role == role && role.isSome && (s.obj o).e.grant.testBit sp) (fun o t => t.moveSlice o (d % 8)) s
  let s := s.modSpan sp fun x => { x with cfg := fix x.cfg }
  let s : State := { s with commits := s.commits.map fun k => { k with recs := k.recs.map fun e => (e.1, fix e.2) } }
  let s := ((s.placeCell c 0xF).placeCell d sp).showRoles sp
  let s := (s.takeOver c (some d)).newEpoch env.deafDies
  match role with
  | some r => (forEach hdrs (fun h t => t.reinstall sp r h) s).restartRelay sp r
  | none => s

/-- A span record without cell `c` (R498); a record that has no cell left configures no span. -/
def recWithout (r : SpanRec) (c : Nat) : SpanRec :=
  if !r.cells.testBit c then r
  else if r.cells = 2 ^ c then {} else { r with cells := r.cells - 2 ^ c, roles := r.roles.filter (· != c) }

/-- No spare remains for cell `c` (R498, R500): the span's model is unloaded as by a forced unload, and no map names the cell any more. -/
def loseSpan (s : State) (sp c : Nat) : State :=
  let s := (s.takeOver c none).placeCell c 0xF
  let s := s.modSpan sp fun x => { x with lost := true, admitStop := true, cfg := recWithout x.cfg c }
  let s : State := { s with commits := s.commits.map fun k => { k with recs := k.recs.map fun e => (e.1, recWithout e.2 c) } }
  let s := s.noticeDev 0x2B sp c
  let held := s.ops.filter fun e => e.2.live && e.2.span == sp
  let s := forEach held (fun e t => match e.2.job with
    | .load _ => t.failLoad e.1 0x24
    | .train j => t.trainEnd e.1 j 0x38
    | _ => t) s
  let l := s.spanSlots sp
  let s := if l.isEmpty then s else s.forceRelease 0x4 (cellIdent c) l.length sp
  let s := if s.holdsModel sp then s.forceRelease 0x6 (cellIdent c) sp sp else s
  (forEach l (fun i t => t.forceEnd i 8 0x38) s).unloadDone sp

/-- One faulty cell of a span (R494): SPAN_PAUSED, what it holds released (`n` moves in flight, R500), then a spare in its place or the span
lost. -/
def remapCell (s : State) (sp : Nat) (env : BoundaryEnv) (c n : Nat) : State :=
  if (s.span sp).lost ∨ !(s.span sp).cfg.cells.testBit c then s.modKey fun k => { k with faulted := k.faulted.filter fun e => e.1 != c }
  else
    let s := s.noticeDev 0x29 sp c
    let s := s.forceRelease 0x2 (cellIdent c) sp sp
    let s := if n = 0 then s else s.forceRelease 0x3 (cellIdent c) n sp
    let (d, s) := s.chooseSpare env c 56
    let s := match d with
      | some d => s.replaceCell sp c d env
      | none => s.loseSpan sp c
    s.modKey fun k => { k with faulted := k.faulted.filter fun e => e.1 != c }

/-- Every guarantee of a span withdrawn for its pause (R311, R312, R494); a span that serves nothing yet has none (R497). -/
def withdrawAll (s : State) (sp : Nat) : State := forEach (s.shedOrder sp) (fun i t => t.withdraw i) s

/-- The pause of a remap in µs (`KEY_PAUSE`). -/
def notePause (s : State) (us : Nat) : State :=
  (s.wr Fld.keyPause_lastUs us).wr Fld.keyPause_worstUs (max us (s.rd Fld.keyPause_worstUs))

/-- The faulty cells of a span with the moves that each has in flight (R140). -/
def faultMoves (s : State) (sp : Nat) : List (Nat × Nat) := (s.span sp).faults.map fun f => (f.1, s.inFlight f.1)

/-- The remap of every faulty cell of a span at its boundary; `l` are the cells with the moves they had in flight. -/
def remap (s : State) (sp : Nat) (env : BoundaryEnv) (l : List (Nat × Nat)) : State :=
  if l.isEmpty then s
  else
    let s := s.withdrawAll sp
    let s := s.modSpan sp fun x => { x with faults := [] }
    let s := forEach l (fun f t => t.remapCell sp env f.1 f.2) (s.spanReset sp)
    if (s.span sp).lost ∨ !(s.span sp).cfg.on then s else (s.notePause env.pauseUs).noticeDev 0x2A sp env.pauseUs

/-! ### Items 3 and 4: configuration, the model pointer, adapters -/

/-- Prompts tokenized with the tables of a copy that ceases to be current are tokenized again (R257). -/
def retokenize (s : State) (sp : Nat) : State :=
  { s with reqs := s.reqs.map fun r =>
      if r.st = 1 ∧ r.kind = 0 ∧ (s.spansFor r.span r.modelId).head? = some sp then { r with st := 0, tokens := [] } else r }

/-- The switch of R243: new requests bind the new copy, the others keep the old one. -/
def switchModel (s : State) (sp i : Nat) (old new : ModelCopy) : State :=
  let s := s.retokenize sp
  let s := forEach (s.spanSlots sp) (fun k t => t.modSlot k fun x => { (x.setFlag 8) with old := true }) s
  let s := s.modSpan sp fun x => { x with old := some old, cur := some new, building := none, loading := false, dual := true, turnOld := true }
  let s := ((s.carryAdapters sp new).showCopy sp).wr Fld.imgSpan_state 4 0 sp
  (s.clrBit Fld.imgStatus_active sp).endOp i 0x00 (leBytes 4 old.hdr.generation ++ leBytes 4 new.hdr.generation)

/-- Item 4: a swap whose second copy is complete switches when no commit of the span waits (R243). -/
def switchPointer (s : State) (sp : Nat) : State :=
  let x := s.span sp
  let job := s.ops.find? fun e => e.2.live && e.2.span == sp && e.2.st == 0 && (match e.2.job with | .load j => j.swap && j.ready | _ => false)
  match job, x.cur, x.building with
  | some (i, _), some old, some new => if s.commits.any fun k => k.spans.contains sp then s else s.switchModel sp i old new
  | _, _, _ => s

/-! ### Item 5: admission (R254, R256, R260, R261, R305 to R307, R322, R323) -/

/-- Bytes of the KV reservation of slot parameters in a copy. -/
def kvBytes (s : State) (sp : Nat) (c : ModelCopy) (budget : Nat) : Nat :=
  reservedPages budget * c.hdr.layers * s.frameBytes sp c.hdr

/-- A window of port `p` granted to span `sp` with room for `n` bytes (R322). -/
def t3Room (s : State) (sp p n : Nat) : Option (Nat × Nat) := s.windowRoom p n fun g => g.testBit sp

/-- A T3 page object of `n` bytes in a window of port `p` (R322). -/
def allocT3 (s : State) (sp p n : Nat) : Option (Nat × State) :=
  (s.t3Room sp p n).bind fun (w, a) =>
    s.allocObj { e := { st := stResident, home := 3, fmt := 0x8, grant := 2 ^ sp, owner := portIdent p, addr := a, tiles := cdiv n 4096,
                        parent := some w } }

/-- The bytes of every page of slot `i`, by layer and first position. -/
def pageImages (s : State) (i : Nat) (c : ModelCopy) : List (Nat × Pte × List Byte) :=
  let sp := (s.slot i).span
  let n := s.frameBytes sp c.hdr
  (List.range c.hdr.layers).flatMap fun l => (s.kvBlock i l).entries.map fun e =>
    (l, e, if e.tier = 1 then s.objRead ((s.slot i).pageObj - 1) (e.frame * n) n
           else s.objRead (SMap.get {} (s.span sp).pools e.pool).obj (e.frame * n) n)

/-- One page of slot `i` written to a fresh frame of the tier that the slot now uses. -/
def putPage (s : State) (i : Nat) (c : ModelCopy) (p : Nat × Pte × List Byte) : State :=
  let (l, e, bytes) := p
  let sp := (s.slot i).span
  let n := s.frameBytes sp c.hdr
  let add := fun (s : State) (e : Pte) =>
    s.putKvBlock i l { s.kvBlock i l with entries := (s.kvBlock i l).entries ++ [e] }
  if (s.slot i).t3 then
    let f := s.takeT3Frame i
    (add s { e with tier := 1, pool := 0, frame := f }).homeWrite (s.obj ((s.slot i).pageObj - 1)).e 3
      (s.obj ((s.slot i).pageObj - 1)).e.addr (f * n) bytes
  else match s.takeFrame sp c.copyNo with
    | none => s
    | some (k, f, t) =>
      (add t { e with tier := 0, pool := k, frame := f }).dramWrite
        ((t.obj (SMap.get {} (t.span sp).pools k).obj).e.addr + f * n) bytes

/-- The pages of slot `i` moved between the pool and T3 (R323); `page` is the T3 page object (+ 1), 0 for the pool. -/
def rePage (s : State) (i : Nat) (c : ModelCopy) (page : Nat) : State :=
  let l := s.pageImages i c
  let was := (s.slot i).pageObj
  let s := s.eachLayer i fun k s => s.freePagesIf i k fun _ => true
  let s := s.modSlot i fun x => { x with pageObj := page, t3 := page != 0 }
  let s := forEach l (fun p t => t.putPage i c p) s
  (if was = 0 then s else s.freeObj (was - 1)).labDrop i

/-- PARKED requests whose pages go to T3 until the pool holds one more reservation (R323). -/
def demoteParked (s : State) (sp : Nat) (c : ModelCopy) (budget : Nat) : List Nat → State
  | [] => s
  | i :: r =>
    if s.poolHolds sp c budget then s
    else
      let x := s.slot i
      match (if x.st = slParked ∧ !x.t3 then s.copyOf i else none) with
      | none => s.demoteParked sp c budget r
      | some k =>
        match (if k.copyNo = c.copyNo then s.allocT3 sp (x.ident - 1) (s.kvBytes sp k x.par.kvBudget) else none) with
        | none => s.demoteParked sp c budget r
        | some (o, t) => (t.rePage i k (o + 1)).demoteParked sp c budget r

/-- Room for a reservation (R306, R322, R323): the pool, after demotions where they are allowed; else T3; `none` where neither holds it.
The answer is the state and whether the pages go to T3. -/
def kvRoom (s : State) (sp p : Nat) (c : ModelCopy) (budget : Nat) : Option (Bool × State) :=
  let parked := s.spanSlots sp
  let t := if s.flag Fld.kvwCfg_t3En 0 sp && s.flag Fld.kvwCfg_parkDemote 0 sp then s.demoteParked sp c budget parked else s
  if s.poolHolds sp c budget then some (false, s)
  else if t.poolHolds sp c budget then some (false, t)
  else if s.flag Fld.kvwCfg_t3En 0 sp && (s.t3Room sp p (s.kvBytes sp c budget)).isSome then some (true, s)
  else none

/-- The number of the next slot to assign: one never used, else the one free longest (R251). -/
def nextSlot (s : State) : Option Nat := if s.slotFresh < 4096 then some s.slotFresh else s.slotFreed.head?

/-- Requests of a span in PREFILL, DECODE and RUNOUT. -/
def runningIn (s : State) (sp : Nat) : Nat := ((s.spanSlots sp).filter fun i => (s.slot i).running).length

/-- Whether a load passes R305 beside the guaranteed set; IDLE requests and those without a guarantee are best effort (R309). -/
def admits (s : State) (sp : Nat) (l : Load) (best : Bool) : Bool :=
  best || s.passes sp ((s.guaranteed sp).map s.loadOf ++ [l])

/-- The seed of a request (R269). -/
def drawSeed (s : State) (seed : Nat) : Nat × State :=
  if seed = 0 then ((xorshift s.admRng).toNat, { s with admRng := xorshift s.admRng }) else (seed, s)

/-- A request takes slot `i` (R251 to R254, R269, R364, R439): its pages, page table, version and copy are bound. -/
def assignSlot (s : State) (sp i : Nat) (c : ModelCopy) (r : Req) (t3 : Bool) (addr : Nat) : Option State :=
  let n := c.hdr.layers * blockBytes (reservedPages r.par.kvBudget)
  (s.allocObj { e := plainEntry sp addr n (portIdent r.who.port) }).bind fun (tab, s) =>
    (if t3 then (s.allocT3 sp r.who.port (s.kvBytes sp c r.par.kvBudget)).map fun (o, t) => (o + 1, t) else some (0, s)).map fun (page, s) =>
      let (seed, s) := s.drawSeed r.par.seed
      let k := 4 * sp + r.par.cls
      let q := s.rd Fld.queRoute_routes r.who.port (k / 16) / 16 ^ (k % 16) % 16
      let start := (r.par.mask.map fun o => s.objField o 20 2).getD 0
      let ver := if r.par.adapter = 0xFFFF then 0 else ((AdIndex.current (s.adapter sp r.par.adapter)).map (·.ver)).getD 0
      let gen := ((s.slot i).gen + 1) % 65536
      let x : Slot := { st := slPrefill, ident := portIdent r.who.port, span := sp, par := { r.par with seed }, tag := r.who.tag, gen,
                        xflags := if r.fffd then 512 else 0, modelGen := c.hdr.generation, adVer := ver, maskState := start, maskNow := start,
                        promptLen := r.tokens.length, positions := r.tokens.length, pageRoot := addr, tReceipt := r.stamp, tAdmit := s.cadNow,
                        hTokens := r.tokens, todo := r.tokens, order := s.nextOrder, queue := q, t3, pageObj := page, tabObj := tab + 1 }
      let s := if s.slotFresh < 4096 then { s with slotFresh := s.slotFresh + 1 } else { s with slotFreed := s.slotFreed.tail }
      let s := ({ s with nextOrder := s.nextOrder + 1, reqs := s.reqs.erase r } : State).modSlot i fun _ => x
      s.final r.who 0x00 0 (leBytes 2 i ++ leBytes 2 gen ++ leBytes 1 sp ++ leBytes 3 0 ++ leBytes 4 seed ++ leBytes 4 0)

/-- A waiting request notes why it still waits (R286). -/
def stillWaits (s : State) (r : Req) (why : Nat) : State := s.putReq r { r with why }

/-- One PENDING request at a boundary of span `sp`: whether admission goes on to the next. Its page table takes T1 within the span's DRAM share
(R155). -/
def admitReq (s : State) (sp : Nat) (c : ModelCopy) (r : Req) : Bool × State :=
  let l := s.loadOfReq r
  if r.span = 0xFF ∧ (s.tooLong sp r ∨ !s.couldFit sp c l ∨ !s.adapterReady sp r.par.adapter) then (true, s)
  else if !s.adapterReady sp r.par.adapter then (true, s.dropReq r 0x2A)
  else
    let l := if r.par.adapter = 0xFFFF then l
      else { l with ver := (AdIndex.current (s.adapter sp r.par.adapter)).map fun v => (r.par.adapter, v.ver) }
    let n := c.hdr.layers * blockBytes (reservedPages r.par.kvBudget)
    let place := if s.shareHolds (2 ^ sp) n then (s.spanColumns sp).findSome? fun k => s.t1Find k n else none
    match s.kvRoom sp r.who.port c r.par.kvBudget, place with
    | some (t3, t), some a =>
      if 256 ≤ s.runningIn sp ∨ !s.admits sp { l with t3 := if t3 then some r.who.port else none } (r.par.cls == 3) then
        (false, s.stillWaits r 0x30)
      else match t.nextSlot with
        | none => (false, s.stillWaits r 0x32)
        | some i =>
          if s.key.noSpill then (false, s.stillWaits r 0x33)
          else match t.assignSlot sp i c r t3 a with
            | some t => (true, t)
            | none => (false, s.stillWaits r 0x30)
    | _, _ => (false, s.stillWaits r 0x30)

/-- The parked turn of slot `i` admitted (R531): the carried token comes first, then the prompt. -/
def beginTurn (s : State) (i : Nat) (t : Turn) : State :=
  s.modSlot i fun x =>
    { x with st := slPrefill, turnGen := 0, gotItem := false, released := false, tReceipt := t.stamp, turn := none, begun := false,
             par := { x.par with maxNew := t.maxNew }, todo := x.hTokens.getLast?.toList ++ t.tokens, hTokens := x.hTokens ++ t.tokens,
             positions := x.positions + t.tokens.length, promptLen := x.promptLen + t.tokens.length }

/-- The pages of a turn brought back to the pool where it holds them (R323). -/
def promote (s : State) (i : Nat) (c : ModelCopy) : State :=
  let x := s.slot i
  if x.t3 ∧ s.flag Fld.kvwCfg_parkDemote 0 x.span ∧ s.poolHolds x.span c x.par.kvBudget then s.rePage i c 0 else s

/-- One parked turn at a boundary: whether admission goes on. -/
def admitTurn (s : State) (sp i : Nat) : Bool × State :=
  match (s.slot i).turn, s.copyOf i with
  | some t, some c =>
    let u := s.promote i c
    let x := u.slot i
    if 256 ≤ s.runningIn sp ∨ !u.admits sp (u.loadOfTurn i t) (x.par.cls == 3 || x.shed) then (false, s) else (true, u.beginTurn i t)
  | _, _ => (true, s)

/-- What waits for admission at a boundary of span `sp`, by class and receipt time (R261). -/
def waiting (s : State) (sp : Nat) : List (Nat × Sum Req Nat) :=
  let rs := s.reqs.filter fun r => r.st == 1 && (s.spansFor r.span r.modelId).contains sp
  let ts := (s.spanSlots sp).filter fun i => (s.slot i).st == slParked && (s.slot i).turn.any (·.ready)
  let l := rs.map (fun r => (r.par.cls * 2 ^ 80 + r.stamp, Sum.inl r)) ++
    ts.map fun i => ((s.slot i).par.cls * 2 ^ 80 + ((s.slot i).turn.map (·.stamp)).getD 0, Sum.inr i)
  l.mergeSort fun a b => a.1 ≤ b.1

/-- Admission in order, until one does not fit (R261). -/
def admitAll (s : State) (sp : Nat) (c : ModelCopy) : List (Nat × Sum Req Nat) → State
  | [] => s
  | (_, x) :: rest =>
    let (on, s) := match x with
      | .inl r => s.admitReq sp c r
      | .inr i => s.admitTurn sp i
    if on then s.admitAll sp c rest else s

/-- Item 5: the shedding of a capacity loss, then admission. -/
def admission (s : State) (sp : Nat) : State :=
  let s := if (s.span sp).capLoss then (s.shed sp).modSpan sp fun x => { x with capLoss := false } else s
  match (s.span sp).cur with
  | none => s
  | some c => if (s.span sp).admitStop || s.isDraft sp || s.isTrain sp then s else s.admitAll sp c (s.waiting sp)

/-! ### Item 6: the next step (R262 to R265, R277, R309, R332, R333, R341, R360) -/

/-- Whether a request may take rows (R262, R307, R323). -/
def mayRun (s : State) (i : Nat) : Bool :=
  let x := s.slot i
  x.running && s.itemsOut i < 64 && (x.par.cls != 1 || x.unreleased < 2 * x.par.perPeriod || !x.todo.isEmpty) &&
    (x.pageObj == 0 || (s.obj (x.pageObj - 1)).e.st != stMoving)

/-- Slots in the order of their admission. -/
def byOrder (s : State) (l : List Nat) : List Nat := l.mergeSort fun a b => (s.slot a).order ≤ (s.slot b).order

/-- Best-effort requests that the step carries beside the guaranteed ones, older admissions first (R309). -/
def bestEffort (s : State) (sp : Nat) (base : List Load) : List Nat → List Nat → List Nat
  | got, [] => got
  | got, i :: r =>
    if s.passesWith sp base ((got ++ [i]).map s.loadOf) then s.bestEffort sp base (got ++ [i]) r else s.bestEffort sp base got r

/-- The requests of the next step on one copy. -/
def stepSlots (s : State) (sp : Nat) (old : Bool) : List Nat :=
  let l := s.byOrder ((s.spanSlots sp).filter fun i => s.mayRun i && (s.slot i).old == old)
  let g := s.guaranteed sp
  let base := g.map s.loadOf
  let extra := s.bestEffort sp base [] (l.filter fun i => !g.contains i)
  l.filter fun i => g.contains i || extra.contains i

/-- Draft rows cut by `n`, from the latest admission on, one request at a time (R263). -/
def cutDrafts : Nat → List (Nat × List Nat) → List (Nat × List Nat)
  | _, [] => []
  | n, (i, p) :: r => (i, p.take (p.length - n)) :: cutDrafts (n - p.length) r

/-- The proposals of the draft span for slot `i` (R277): as many as its draft length. -/
def proposals (s : State) (sp : Nat) (env : BoundaryEnv) (i : Nat) : List Nat :=
  let l := ((env.proposals.find? fun e => e.1 == i).map (·.2)).getD []
  (List.range (s.draftOf sp (s.slot i).par)).map fun k => l.getD k (Config.draftToken (s.slot i).hTokens k)

/-- The steps of the draft span before a step with these rows (R277): as many as the longest draft. -/
def draftSteps (s : State) (sp : Nat) (rows : List RowEntry) : State :=
  match (s.span sp).cfg.draft with
  | none => s
  | some d => s.bump64 Fld.srvSpanStep_steps 0 d (((rows.map (·.slot)).map fun i => (rows.filter fun r => r.slot == i && r.verify).length).foldl max 0)

/-- The drafts of the decode requests, with R263's shortening; `l` is in the order of admission. -/
def drafts (s : State) (sp : Nat) (env : BoundaryEnv) (l : List Nat) (wait : Bool) : List (Nat × List Nat) :=
  let d := l.map fun i => (i, s.proposals sp env i)
  let rows := (d.map fun e => 1 + e.2.length).sum
  (cutDrafts (rows - if wait then 736 else 768) d.reverse).reverse

/-- The rows of one decode request (R277, R333): its last token and the proposals, every row sampled. -/
def decodeRows (s : State) (seg i : Nat) (p : List Nat) : List RowEntry :=
  let x := s.slot i
  (x.hTokens.getLast?.toList ++ p).mapIdx fun j t =>
    { seg, slot := i, pos := x.positions - 1 + j, first := j == 0, verify := j != 0, sample := true, token := t }

/-- The rows of a prompt piece of `n` positions; the last one is sampled when it ends the prompt. -/
def promptRows (s : State) (seg i n : Nat) : List RowEntry :=
  let x := s.slot i
  (x.todo.take n).mapIdx fun j t =>
    { seg, slot := i, pos := x.positions - x.todo.length + j, first := j == 0, verify := false, sample := j + 1 == x.todo.length, token := t }

/-- Prompt pieces that fill a chunk in admission order (R264). -/
def pieces (s : State) : Nat → List Nat → List (Nat × Nat)
  | _, [] => []
  | 0, _ => []
  | c, i :: r =>
    let n := min c (s.slot i).todo.length
    (i, n) :: s.pieces (c - n) r

/-- The decode requests in the order of their rows (R360): by adapter index, those without one first, then by admission. -/
def byAdapter (s : State) (l : List (Nat × List Nat)) : List (Nat × List Nat) :=
  let key := fun (i : Nat) => if (s.slot i).par.adapter = 0xFFFF then 0 else (s.slot i).par.adapter + 1
  l.mergeSort fun a b => key a.1 ≤ key b.1

/-- The row table of the next step on one copy, and its chunk. -/
def composeRows (s : State) (sp : Nat) (env : BoundaryEnv) (old : Bool) : List RowEntry × Nat :=
  let l := s.stepSlots sp old
  let dec := l.filter fun i => (s.slot i).todo.isEmpty
  let pre := l.filter fun i => !(s.slot i).todo.isEmpty
  let d := s.byAdapter (s.drafts sp env dec (!pre.isEmpty))
  let rows := (d.map fun e => 1 + e.2.length).sum
  let left := (pre.map fun i => (s.slot i).todo.length).sum
  let c := if pre.isEmpty then 0 else min (chunkFor (s.span sp).cfg.chunk rows) left
  let ps := s.pieces c pre
  ((d.mapIdx fun k e => s.decodeRows k e.1 e.2).flatten ++ (ps.mapIdx fun k e => s.promptRows (d.length + k) e.1 e.2).flatten, c)

/-- The objects of a step plan (R163). -/
def planObjs (s : State) (sp : Nat) (c : ModelCopy) (rows : List RowEntry) : List Nat :=
  let ids := (rows.map (·.slot)).dedup
  (c.objs ++ (((s.span sp).pools.filter fun e => e.1 / 8 == c.copyNo).map (·.2.obj)) ++ ids.flatMap (fun i => slotObjs (s.slot i)) ++
    ids.flatMap fun i => ((s.adapter sp (s.slot i).par.adapter).vers.filter fun v => v.ver == (s.slot i).adVer).flatMap (·.objs)).dedup.filter
      fun o => (s.obj o).e.st == stResident || (s.obj o).e.st == stMoving

/-- The early move of a layer tile that a step consumes (R169): from its T2 home to the handle of the consuming cell that the step programme names,
with an add of 1 to the tile's latch. `none` where the tile's home is not T2 or the cell has no space for it. -/
def layerMove (s : State) (sp : Nat) (c : ModelCopy) (t : LayerTile) : Option (BitVec 512) :=
  let o := c.objs.getD t.obj 131072
  let e := (s.obj o).e
  let cell := s.roleCell sp t.dest.role
  let d : BitVec 512 := setFields 0
    [(1, 0, 2), (3, 2, 1), (23, 16, cell), (37, 32, t.dest.handle), (63, 48, 1), (95, 80, t.dest.line), (112, 96, o), (223, 192, t.tile),
     (259, 256, e.fmt), (260, 260, b2n e.mx), (263, 261, e.gust), (267, 264, e.fmt), (268, 268, b2n e.mx),
     (335, 320, s.roleLatch sp t.dest.role t.dest.latch), (336, 336, 1), (383, 352, 1)]
  if e.st = stResident ∧ e.home = 2 ∧ (s.moveView 56 none 1 cell (t.dest.handle % 64) (Desc.dstOff d) (Desc.dstUnit d) true).isSome then some d
  else none

/-- The early moves that steward firmware issues at the start of a step (R169): the step's layer tiles in T2, in layer order, and the complete
T3-homed pages of its batch. -/
def earlyMoves (s : State) (sp : Nat) (c : ModelCopy) : State :=
  (forEach (Config.layerTiles c.hdr.modelId c.hdr.generation) (fun t u => match u.layerMove sp c t with
    | some d => u.pushMove 0x10 d
    | none => u) s).earlyPieces sp

/-- Whether some object of a step's plan has all the pins that an entry can count (R163): the step waits. -/
def planWaits (s : State) (sp : Nat) (c : ModelCopy) (rows : List RowEntry) : Bool :=
  (s.planObjs sp c rows).any fun o => 65535 ≤ (s.obj o).e.pins

/-- A step starts with the given rows: pins, folds and frames, the row table and its groups with what adapters add, early moves, and the walk of
the first layer (R163, R169, R265, R329, R332, R341, R361). -/
def startStep (s : State) (sp : Nat) (c : ModelCopy) (rows : List RowEntry) (chunk : Nat) (old : Bool) : State :=
  if s.planWaits sp c rows then s
  else
    let ids := (rows.map (·.slot)).dedup
    let pins := s.planObjs sp c rows
    let s := forEach pins (fun o t => t.pin o) s
    let s := forEach (ids.filter fun i => !(s.slot i).todo.isEmpty && !(s.slot i).begun) (fun i t =>
      let x := t.slot i
      (t.startPrefill i (x.positions - x.todo.length) x.todo.length).modSlot i fun x => { x with begun := true }) s
    let s := forEach rows (fun r t => t.beginRow r.slot r.pos (t.slot r.slot).todo.isEmpty) s
    let groups := rowGroups rows.length
    let b : Batch := { rows, groups, adapted := s.adaptedInsts sp c rows groups, chunk, seqs := ids.length, old, start := s.now, pins }
    let s := (s.modSpan sp fun x => { x with batch := some b, appended := [], turnOld := !old }).setBit Fld.kvwStatus_busy sp
    (s.earlyMoves sp c).walk sp 0

/-- Item 6: the next batch. In DUAL the steps alternate between the copies (R243). -/
def compose (s : State) (sp : Nat) (env : BoundaryEnv) : State :=
  let x := s.span sp
  let old := s.composeRows sp env true
  let new := s.composeRows sp env false
  let useOld := x.dual && !old.1.isEmpty && (x.turnOld || new.1.isEmpty)
  if x.paused || x.lost then s
  else match (if useOld then x.old else x.cur), (if useOld then old else new) with
    | some c, (r :: rs, ch) => if s.planWaits sp c (r :: rs) then s else (s.draftSteps sp (r :: rs)).startStep sp c (r :: rs) ch useOld
    | _, _ => s

/-- A step that was abandoned runs again (R496): the span is reset, its requests' pages are cut to what was accepted before the step, and
the step starts with the same rows but those of requests that have ended. -/
def repeatBatch (s : State) (sp : Nat) (b : Batch) : State :=
  let ids := (b.rows.map (·.slot)).dedup
  let s := forEach ids (fun i t =>
    match b.rows.find? fun r => r.slot == i with
    | some r => if (t.slot i).running then t.truncatePages i r.pos else t
    | none => t) s
  let rows := b.rows.filter fun r => (s.slot r.slot).running
  match (if b.old then (s.span sp).old else (s.span sp).cur) with
  | some c => if rows.isEmpty ∨ (s.span sp).lost ∨ (s.span sp).paused then s else s.startStep sp c rows b.chunk b.old
  | none => s

/-! ### The boundary -/

/-- Mask states reach the slots (R273). -/
def noteMasks (s : State) (sp : Nat) : State :=
  forEach (s.spanSlots sp) (fun i t => t.modSlot i fun x => { x with maskState := x.maskNow }) s

/-- A step boundary of span `sp` (R260): between two steps, or after a step that was abandoned, which runs again before the pointer of a swap may
switch between two batches (R243). -/
def stepBoundary (s : State) (sp : Nat) (env : BoundaryEnv) : State :=
  let x := s.span sp
  if !s.running || s.lull || (x.batch.isSome && !s.abandoned sp) then s
  else
    let s := s.after env.dt
    let faulty := s.faultMoves sp
    let s := if x.batch.isSome then s.spanReset sp else s
    let s := s.modSpan sp fun x => { x with again := false }
    let s := (s.endRequests sp).forcedEnds sp
    let s := ((s.retireOld sp).unloadDone sp).remap sp env faulty
    let s := (s.sweepObjs.commitBoundary sp env.deafDies).applyLimits
    let s := if x.batch.isSome then s else s.switchPointer sp
    let s := s.switchAdapters sp
    let s := (s.noteMasks sp).admission sp
    let s := match x.batch with
      | some b => s.repeatBatch sp b
      | none => s
    let s := if (s.span sp).batch.isSome then s else s.compose sp env
    s.writeCommitted sp

end State

/-- STEP_BOUNDARY. -/
def execStepBoundary (sp : SpanId) (env : BoundaryEnv) (s : State) : Out := .next (s.stepBoundary sp env)

end Sys2Proof.Machine
end

