-- ==== Sys2Proof/Machine/Keystone.lean ====
section
/-!
DEFINITION. The keystone partition (15, R465 to R473), the information record (R407), management over SMBus and JTAG (R519).
-/
namespace Sys2Proof.Machine

/-- ASCII "RHOKEYR1" (R469). -/
def recordMagic : List Byte := [0x52, 0x48, 0x4F, 0x4B, 0x45, 0x59, 0x52, 0x31]
/-- Bytes of a keystone record (R469). -/
def recordBytes : Nat := 0x3A8

namespace Rec
/-- Generation. -/
def gen (l : List Byte) : Nat := leAt l 8 4
/-- `KEY_PERM[p]`. -/
def perm (l : List Byte) (p : Nat) : Nat := leAt l (0x10 + 4 * p) 4 % 16
/-- `KEY_PWR_LIM`. -/
def pwrLim (l : List Byte) : Nat := leAt l 0x20 8
/-- `KEY_THERM`. -/
def therm (l : List Byte) : Nat := leAt l 0x28 4
/-- `KEY_SAG`. -/
def sag (l : List Byte) : Nat := leAt l 0x2C 4
/-- `KEY_WDOG.timeout`. -/
def timeout (l : List Byte) : Nat := leAt l 0x32 2
/-- `KEY_FLASH_LIM`. -/
def flashLim (l : List Byte) : Nat := leAt l 0x34 4 % 256
/-- `KEY_DEBUG.unlock`. -/
def unlock (l : List Byte) : Nat := leAt l 0x38 4 % 2
/-- The burn mask. -/
def burn (l : List Byte) : Nat := leAt l 0x40 2
/-- The revoke mask. -/
def revoke (l : List Byte) : Nat := leAt l 0x42 2
/-- Word `w` of the hash of slot `i`. -/
def hash (l : List Byte) (i w : Nat) : Nat := leAt l (0x48 + 48 * i + 8 * w) 8
/-- Whether the record carries no signature: its bytes are all zero (log entry 27). -/
def unsigned (l : List Byte) : Bool := (slice l 0x348 96).all (· == 0)

/-- Whether a value lies from `a` to `b`. -/
def within (a v b : Nat) : Bool := a ≤ v && v ≤ b

/-- Whether every field lies within its range in the register tables (R469). -/
def inRange (l : List Byte) : Bool :=
  let q := pwrLim l
  let lo := nbits q 7 0
  let hi := nbits q 15 8
  let thr := nbits (therm l) 15 0
  let warn := nbits (sag l) 15 0
  within 25 hi 75 && within 25 lo hi && within lo (nbits q 23 16) hi && nbits q 35 32 ≤ 10 &&
    within 85 thr 100 && within 95 (nbits (therm l) 31 16) 110 && thr + 5 ≤ nbits (therm l) 31 16 &&
    within 90 warn 114 && within 80 (nbits (sag l) 31 16) 96 && nbits (sag l) 31 16 + 6 ≤ warn &&
    within 100 (timeout l) 10000 && within 4 (nbits (flashLim l) 7 4) 12 && within 8 (nbits (flashLim l) 3 0) 12
end Rec

namespace State

/-! ### Violations and fuses (R7, R465, R467) -/

/-- A write to a `KEY_` register dropped (R465): logged, counted, flagged; a host's is also counted under R384. -/
def keyViol (s : State) (w off : Nat) : State :=
  let v := off % 2 ^ 24 * 2 ^ 40 + w % 256 * 2 ^ 32 + s.stamp16
  (((s.logFirst Fld.keyViolCnt_count .keyViolLog v).setReg .keyViolLast 0 0 (BitVec.ofNat 64 v)).wr Fld.keyStatus_viol 1).hostDeny w

/-- BAR0 offset of word `w` of slot `i`. -/
def slotOffset (i w : Nat) : Nat := 0x1000 + i * 0x40 + w * 8

/-- A word of a key slot written by the keystone controller as it applies a record (R467): the fuse burns. -/
def burnWord (s : State) (i w v : Nat) : State :=
  if s.reg .keySlot 0 (i * 8 + w) ≠ 0 ∨ SMap.get 0 s.key.fuses (i * 8 + w) ≠ 0 then s.keyViol 0x20 (slotOffset i w)
  else if v = 0 then s
  else (s.setReg .keySlot 0 (i * 8 + w) (BitVec.ofNat 64 v)).modKey fun k =>
    { k with fuses := SMap.put 0 k.fuses (i * 8 + w) (BitVec.ofNat 64 v) }

/-- The revoke word of a slot burned (R467). -/
def burnRevoke (s : State) (i : Nat) : State :=
  if s.flag Fld.keySlotRev_revoked 0 i then s.keyViol 0x20 (slotOffset i 6)
  else (s.wr Fld.keySlotRev_revoked 1 0 i).modKey fun k => { k with revoked := k.revoked ||| 2 ^ i }

/-- The burned fuse words written into their registers at a cold reset (R467). -/
def loadFuses (s : State) : State :=
  let s := forEach s.key.fuses (fun e t => t.setReg .keySlot 0 e.1 e.2) s
  forEach (bitList s.key.revoked 16) (fun i t => t.wr Fld.keySlotRev_revoked 1 0 i) s

/-! ### The keystone record (R469, R470) -/

/-- Whether slot 2 holds no burned word. -/
def slot2Blank (s : State) : Bool := (List.range 6).all fun w => s.reg .keySlot 0 (2 * 8 + w) == 0

/-- Whether a record is signed by an enabled slot 2 key, or is one that may go unsigned (R469). -/
def recordSigned (s : State) (l : List Byte) (smbus : Bool) : Bool :=
  if Rec.unsigned l then s.slot2Blank && smbus
  else s.slotEnabled 2 &&
    ((recoverKeys (sha384 (slice l 0 0x348)) (ofBe (slice l 0x348 48)) (ofBe (slice l 0x378 48))).any fun k =>
      s.slotMatches 2 ([4] ++ beBytes 48 k.1 ++ beBytes 48 k.2))

/-- The copy of the record in sector 8 of die `d` (R192, R469); `none` where no record stands. -/
def recordCopy (s : State) (d : Nat) : Option (List Byte) :=
  let l := readBytes 0xFF s.flash.param (paramKey d 8 0) recordBytes
  if slice l 0 8 == recordMagic then some l else none

/-- The generation of the stored record; 0 without one. -/
def recordGen (s : State) : Nat := ((newerCopy Rec.gen (s.recordCopy 0) (s.recordCopy 1)).map Rec.gen).getD 0

/-- Whether keystone accepts a record (R469). -/
def recordOk (s : State) (l : List Byte) (smbus : Bool) : Bool :=
  slice l 0 8 == recordMagic && decide (recordBytes ≤ l.length ∧ s.recordGen < Rec.gen l) && Rec.inRange l && s.recordSigned l smbus

/-- A record written into sector 8 of the die whose copy is older, and then of the other (R469). -/
def storeRecord (s : State) (l : List Byte) : State :=
  let d := (olderCopy ((s.recordCopy 0).map Rec.gen) ((s.recordCopy 1).map Rec.gen)).1
  (s.storeParam (paramKey d 8 0) (slice l 0 recordBytes)).storeParam (paramKey (1 - d) 8 0) (slice l 0 recordBytes)

/-- The fuse burns that a record carries, made at once (R467, R469). -/
def burnRecord (s : State) (l : List Byte) : State :=
  let s := forEach (bitList (Rec.burn l) 16) (fun i t =>
    forEach (List.range 6) (fun w t => t.burnWord i w (Rec.hash l i w)) t) s
  forEach (bitList (Rec.revoke l) 16) (fun i t => t.burnRevoke i) s

/-- A record received (R469): accepted, it is stored in both copies of sector 8 and burns its fuses; rejected, it sets record_bad. -/
def takeRecord (s : State) (l : List Byte) (smbus : Bool) : Bool × State :=
  if s.recordOk l smbus then (true, (s.storeRecord l).burnRecord l) else (false, s.wr Fld.keyStatus_recordBad 1)

/-- The `KEY_` registers loaded from the newer copy of the stored record before any steward core starts, and the lock set (R192, R466, R470). The
copies of the dies in `lost` cannot be read. -/
def loadRecord (s : State) (lost : List Nat) : State :=
  let copy := fun (d : Nat) => if lost.contains d then none else s.recordCopy d
  let l := (newerCopy Rec.gen (copy 0) (copy 1)).getD []
  let s := s.wr Fld.keyDebug_fusedOff (b2n Config.debugFusedOff)
  let s :=
    if l.isEmpty then s
    else
      let s := forEach (List.range 4) (fun p t => t.setReg .keyPerm 0 p (BitVec.ofNat 64 (Rec.perm l p))) s
      let q := Rec.pwrLim l
      let s := ((((s.wr Fld.keyPwrLim_gustS (nbits q 35 32)).wr Fld.keyPwrLim_gustEn (nbits q 24 24)).wr Fld.keyPwrLim_pl1Boot
        (nbits q 23 16)).wr Fld.keyPwrLim_pl1Max (nbits q 15 8)).wr Fld.keyPwrLim_pl1Min (nbits q 7 0)
      let s := (s.wr Fld.keyTherm_trip (nbits (Rec.therm l) 31 16)).wr Fld.keyTherm_throttle (nbits (Rec.therm l) 15 0)
      let s := (s.wr Fld.keySag_reset (nbits (Rec.sag l) 31 16)).wr Fld.keySag_warn (nbits (Rec.sag l) 15 0)
      let s := s.wr Fld.keyWdog_timeout (Rec.timeout l)
      let s := (s.wr Fld.keyFlashLim_erasePulses (nbits (Rec.flashLim l) 7 4)).wr Fld.keyFlashLim_progPulses (nbits (Rec.flashLim l) 3 0)
      (s.wr Fld.keyDebug_unlock (Rec.unlock l)).wr Fld.keyStatus_record 1
  s.wr Fld.keyLock_lock 1

/-! ### The information record (R407) -/

/-- Least free reserve blocks in any plane. -/
def leastReserve (s : State) : Nat :=
  (((List.range 128).map fun k => (s.spareOf (k / 64) (k % 64)).length).min?).getD 0

/-- Spare lanes left in the worst link direction: two less those used (R486). -/
def leastLanes (s : State) : Nat := 2 - (s.spareLanes.map (·.2)).foldl max 0

/-- Whether the spare channel of a stack is left (R407). -/
def spareChannel (s : State) (st : Nat) : Bool :=
  !(s.flag (if st = 0 then Fld.tieSlotMap_s0Used else Fld.tieSlotMap_s1Used) || s.tier.spareBad.contains st)

/-- The record of R407 with the identity and permissions of the port that asked. -/
def infoRecord (s : State) (ident perms : Nat) : List Byte :=
  leBytes 1 (b2n Config.isA32) ++ leBytes 1 (s.rd Fld.keyBoot_image) ++ leBytes 2 s.key.version ++ leBytes 1 s.activeCells ++
    leBytes 1 (popCount (s.rd Fld.keySpareFree_cells) 56) ++ leBytes 1 (s.rd Fld.pwrProfile_clock) ++ leBytes 1 (s.rd Fld.pwrStatus_state) ++
    ((List.range 8).flatMap fun c => leBytes 1 (s.columnCells c)) ++
    leBytes 8 (Config.dramUsable - 65536 * s.tier.retired.length) ++
    leBytes 8 (if s.dieIn 0 && s.dieIn 1 then (Config.flashUnits - s.flash.retired.length) * 2 ^ 30 else 0) ++
    leBytes 1 (b2n (s.spareChannel 0) + 2 * b2n (s.spareChannel 1)) ++
    leBytes 1 (b2n (s.dieIn 0) + 2 * b2n (s.dieIn 1)) ++ leBytes 2 s.leastReserve ++ leBytes 1 s.leastLanes ++
    leBytes 1 (maskOf s.portList) ++ leBytes 1 ident ++ leBytes 1 perms

/-- The record as port `p` reads it. -/
def infoOf (s : State) (p : Nat) : List Byte := s.infoRecord (portIdent p) ((s.reg .keyPerm 0 p).toNat % 16)

/-! ### Management over SMBus (R473; log entry 26) -/

/-- An answer of the endpoint. -/
def mctpAnswer (s : State) (l : List Byte) : State := s.modMgmt fun m => { m with answer := l }

/-- `n` bytes of a register. -/
def regBytes (s : State) (n : Nat) (r : Reg) (i : Nat := 0) : List Byte := leBytes n (s.reg r 0 i).toNat

/-- Whether the module stands in STILL (R450). -/
def still (s : State) : Bool := s.rd Fld.pwrStatus_state == 2

/-- The temperatures; in STILL sensor 59 alone is reported (R473). -/
def thermalAnswer (s : State) : List Byte :=
  ((List.range 64).flatMap fun i => if s.still && i != 59 then leBytes 4 0 else s.regBytes 4 .pwrTemp i) ++
    (if s.still then leBytes 16 0 else s.regBytes 8 .pwrTherm ++ s.regBytes 8 .pwrThermBad)

/-- Set Endpoint ID (DSP0236): operations 0 and 1 assign the identifier; 0 and 0xFF are no identifiers; 2 and 3 need a static one, which
the endpoint has not. -/
def setEid (s : State) (op : Nat) (eid : Byte) : State :=
  if 1 < op ∨ eid = 0 ∨ eid = 0xFF then s.mctpAnswer [0x02]
  else (s.modMgmt fun m => { m with eid := eid.toNat }).mctpAnswer [0x00, 0x00, eid, 0x00]

/-- A fragment of a keystone record over SMBus; the last one answers accepted (0) or record_bad (1). -/
def recordFragment (s : State) (l : List Byte) (last : Bool) : State :=
  let all := s.mgmt.frags ++ l
  if last then
    let r := (s.modMgmt fun m => { m with frags := [] }).takeRecord all true
    r.2.mctpAnswer [if r.1 then 0x00 else 0x01]
  else (s.modMgmt fun m => { m with frags := all }).mctpAnswer []

/-- A JTAG scan: the instruction (0 BYPASS, 1 IDCODE, 2 SAMPLE/PRELOAD, 3 EXTEST), the bits out, and the boundary register (R519). -/
def jtag (s : State) (ir : Nat) (tdo bsr : List Bool) : State :=
  s.modMgmt fun m => { m with ir, tdo, bsr, byp := false, driven := ir == 3 }

/-! ### FW_UPDATE (R469, R492) -/

/-- A keystone record that comes in FW_UPDATE (R469; log entry 53): accepted, its final reply is 0x00, else 0x54. -/
def fwRecord (s : State) (c : Caller) (src n : Nat) : State :=
  if n < recordBytes then s.fin c 0x24
  else s.startOp c 0xA0 noSpan n .none fun i s =>
    let r := s.takeRecord (s.objRead src 0 recordBytes) false
    r.2.endOp i (if r.1 then 0x00 else 0x54) []

/-- FW_UPDATE (R492): the source, the length and the header are checked before it is accepted. -/
def fwUpdate (s : State) (c : Caller) (pkt : Packet) : State :=
  let src := pkt.fld 0 4
  let n := pkt.fld 4 4
  if s.diesIn.isEmpty then s.fin c 0x2E
  else match s.jobObjStatus c.port src n false with
    | some st => s.fin c st
    | none =>
      if s.objRead src 0 8 == recordMagic then s.fwRecord c src n
      else if n < fwHeader ∨ fwBytes < n then s.fin c 0x24
      else
        let h := s.objRead src 0 fwHeader
        if !s.fwHeaderOk h then s.fin c 0x54
        else if n ≠ fwHeader + FwHdr.payload h then s.fin c 0x24
        else s.startOp c 0xA0 noSpan n (.fw { src, bytes := n, image := 1 - s.key.active, phase := 0 }) fun _ s => s.runJobs

end State

/-- SET_ENDPOINT_ID. -/
def execSetEndpointId (op : Nat) (eid : Byte) (s : State) : Out := .next (s.setEid op eid)
/-- GET_ENDPOINT_ID: a simple endpoint with a dynamic identifier. -/
def execGetEndpointId (s : State) : Out := .next (s.mctpAnswer [0x00, BitVec.ofNat 8 s.mgmt.eid, 0x00, 0x00])
/-- GET_MCTP_VERSION_SUPPORT: version 1.3 for the base specification and the supported types. -/
def execGetMctpVersionSupport (t : Byte) (s : State) : Out :=
  .next (s.mctpAnswer (if t = 0xFF ∨ t = 0x00 ∨ t = 0x7F then [0x00, 0x01, 0xF1, 0xF3, 0xF0, 0x00] else [0x80]))
/-- GET_MESSAGE_TYPE_SUPPORT: types 0x00 and 0x7F, no other (R473). -/
def execGetMessageTypeSupport (s : State) : Out := .next (s.mctpAnswer [0x00, 0x02, 0x00, 0x7F])
/-- GET_VENDOR_DEFINED_MESSAGE_SUPPORT: one vendor, PCI format, 0x1E9D (R473). -/
def execGetVendorDefinedMessageSupport (sel : Byte) (s : State) : Out :=
  .next (s.mctpAnswer (if sel = 0 then [0x00, 0xFF, 0x00, 0x1E, 0x9D, 0x00, 0x00] else [0x02]))
/-- GET_INVENTORY: the information record and the serial number (R473). -/
def execGetInventory (s : State) : Out := .next (s.mctpAnswer (s.infoRecord 0 0 ++ Config.serialNumber))
/-- GET_THERMAL (R473). -/
def execGetThermal (s : State) : Out := .next (s.mctpAnswer s.thermalAnswer)
/-- GET_LOG (R473). -/
def execGetLog (s : State) : Out :=
  .next (s.mctpAnswer (s.regBytes 8 .keyViolLog ++ s.regBytes 8 .keyViolLast ++ s.regBytes 8 .mbxBreakLog ++ s.regBytes 4 .keyStatus))
/-- KEYSTONE_RECORD over SMBus (R469, R473). -/
def execKeystoneRecord (l : List Byte) (last : Bool) (s : State) : Out := .next (s.recordFragment l last)

/-- BYPASS: one shift through the one-bit register, which captures 0 when the instruction is entered (R519). -/
def execBypass (tdi : Bool) (s : State) : Out :=
  .next (s.modMgmt fun m => { m with ir := 0, tdo := [m.ir == 0 && m.byp], byp := tdi, driven := false })
/-- IDCODE: 0x1864_005D, least significant bit first (R519). -/
def execIdcode (s : State) : Out := .next (s.jtag 1 ((List.range 32).map fun i => (0x1864005D : Nat).testBit i) s.mgmt.bsr)
/-- SAMPLE/PRELOAD: the pins are captured, the boundary register loaded (R519). -/
def execSamplePreload (pins load : List Bool) (s : State) : Out := .next (s.jtag 2 pins load)
/-- EXTEST: the boundary register drives the pins (R519). -/
def execExtest (shift pins : List Bool) (s : State) : Out := .next (s.jtag 3 pins shift)

/-- GET_INFO, opcode 0x02. -/
def execGetInfo (p : PortId) (pkt : Packet) (s : State) : Out :=
  .next (s.serve 0x02 p pkt fun c _ s => s.final c 0x00 0 (s.infoOf c.port))
/-- ECHO, opcode 0x01: its own body, unchanged (R400). -/
def execEcho (p : PortId) (pkt : Packet) (s : State) : Out := .next (s.serve 0x01 p pkt fun c pkt s => s.final c 0x00 0 pkt.body)

/-- FW_UPDATE, opcode 0xA0. -/
def execFwUpdate (p : PortId) (pkt : Packet) (s : State) : Out := .next (s.serve 0xA0 p pkt fun c pkt s => s.fwUpdate c pkt)

end Sys2Proof.Machine
end

