-- ==== Sys2Proof/Machine/Power.lean ====
section
/-!
DEFINITION. Power and thermal management (15, R447 to R464, R471, R472, R491, R499): domains, module states, profiles and the cell clock,
GUST, sensors, throttling, sags, the watchdog.
-/
namespace Sys2Proof.Machine
namespace State

/-! ### Domains (R447, R448, R532) -/

/-- Whether the module may still reach mesh and DRAM in SAFE (R532). -/
def trained (s : State) : Bool := !s.key.noSpill

/-- Whether power domain `j` is powered (R447, R532). -/
def domOn (s : State) (j : Nat) : Bool :=
  let on := s.active
  let sp := s.cellSpan (j % 56)
  if j < 56 then !s.arrayFenced j && sp != 0xF && (s.span sp).cur.isSome && on
  else if j < 112 then sp != 0xF && on
  else if j < 132 then on || (s.safe && s.trained)
  else if j = 132 then !s.tier.copies.isEmpty || s.flag Fld.tieSlotMap_s0Used || s.flag Fld.tieSlotMap_s1Used
  else if j < 141 then
    let d := (j - 133) / 4
    let runs := s.flash.planes.any fun e => e.1 / 64 == d && e.1 % 4 == (j - 133) % 4 &&
      (e.2.prog.isSome || e.2.ers.isSome || !e.2.reads.isEmpty)
    s.dieIn d && (on || runs)
  else if j < 145 then s.portUp (j - 141) && !(s.port (j - 141)).d3
  else if j < 147 then !s.still
  else j == 147 && on

/-- `PWR_DOM[j]`. -/
def pwrDom (s : State) (j : Nat) : Nat := maskOf ((List.range 64).filter fun b => 64 * j + b < 148 && s.domOn (64 * j + b))

/-! ### Clock, profile and GUST (R454 to R458) -/

/-- The hottest temperature in use, signed, in 1/16 °C (`PWR_THERM.temp`). -/
def hottest (s : State) : Int := signed 16 (s.rd Fld.pwrTherm_temp)
/-- Credit of GUST in 1/600 ms. -/
def credit (s : State) : Nat := s.rd Fld.pwrGust_creditMs * 600 + s.pwr.credFrac
/-- Credit of GUST set; it holds at `KEY_PWR_LIM.gust_s` (R458). -/
def setCredit (s : State) (c : Nat) : State :=
  let c := min c (s.rd Fld.keyPwrLim_gustS * 600000)
  (s.wr Fld.pwrGust_creditMs (c / 600)).modPwr fun x => { x with credFrac := c % 600 }

/-- The conditions of R458 for entering GUST (`PWR_STATUS.gust_ok`). -/
def gustOk (s : State) : Bool :=
  s.flag Fld.pwrProfile_gust && decide (500 * 600 < s.credit) &&
    decide (s.hottest < 16 * ((s.rd Fld.keyTherm_throttle : Int) - 5)) && !s.flag Fld.flcStatus_sagHold

/-- Whether the module stands in GUST. -/
def inGust (s : State) : Bool := s.rd Fld.pwrStatus_state == 3

/-- The cell clock set to `c` × 10 MHz. A cell whose array runs keeps the clock it has until its next matrix-instruction boundary (R102). -/
def changeClock (s : State) (c : Nat) : State :=
  let old := s.rd Fld.pwrProfile_clock
  let s := s.wr Fld.pwrProfile_clock c
  if c = old then s
  else forEach ((List.range 56).filter fun n => (s.cell n).clock.isNone && (s.cell n).jobs.any fun j => j.prep.isSome)
    (fun n t => t.modCell n fun x => { x with clock := some old }) s

/-- GUST ends (R450, R458): the clock falls to the ACTIVE ceiling, and GUST_END goes out. -/
def leaveGust (s : State) : State :=
  if !s.inGust then s
  else
    let s := s.busy.wr Fld.pwrStatus_state 0
    let s := s.changeClock (min 130 (s.rd Fld.pwrProfile_clock))
    s.noticeDev 0x25 noSpan (s.rd Fld.pwrGust_creditMs)

/-- `PWR_STATUS` as it reads. -/
def pwrStatusWord (s : State) : Word := setBits (s.reg .pwrStatus) 4 4 (b2n s.gustOk)

/-- Whether the measured averages miss a limit of the state (R455), in 0.1 W. -/
def overLimit (s : State) (tenMs avg : Nat) : Bool :=
  let pl := s.rd Fld.pwrProfile_pl1
  if s.inGust then 900 < tenMs else 10 * pl < avg || 12 * pl < tenMs

/-- The clock that power management sets, of the one it aims at (R454 to R456): between floor and ceiling, lower than now while a limit is
missed above the floor; the thermal response and the sag clamp have their own. -/
def setClock (s : State) (aim : Nat) (miss : Bool) : State :=
  if !s.active || s.pwr.clamp || s.flag Fld.pwrStatus_throttling then s
  else
    let lo := s.rd Fld.pwrProfile_floor
    let cur := s.rd Fld.pwrProfile_clock
    let hi := if miss then cur - 1 else if s.inGust then 140 else 130
    s.changeClock (max lo (min hi aim))

/-- A measurement of the inputs (R455, R458). It is taken every 10 µs. -/
def measure (s : State) (main aux now_ tenMs avg aim : Nat) : State :=
  let s := ((s.wr Fld.pwrInput_mainMv (min 65535 main)).wr Fld.pwrInput_auxMv (min 65535 aux)).wr Fld.pwrInput_avgDw (min 65535 avg)
  let s := s.wr Fld.pwrInput_nowDw (min 65535 now_)
  let uj := s.pwr.energyUj + now_
  let s := (s.bump64 Fld.pwrEnergy_mj 0 0 (uj / 1000)).modPwr fun x => { x with energyUj := uj % 1000 }
  let s := s.setCredit (if s.inGust then s.credit - 6 else s.credit + 1)
  let miss := s.overLimit tenMs avg
  let atFloor := decide (s.rd Fld.pwrProfile_clock ≤ s.rd Fld.pwrProfile_floor)
  let s := if miss && atFloor && s.active && !s.pwr.clamp then (s.wr Fld.pwrStatus_overLimit 1).bump Fld.pwrOverCnt_count else s
  s.setClock aim miss

/-- POWER_SET (R457). -/
def powerSet (s : State) (c : Caller) (pkt : Packet) : State :=
  let pl := pkt.fld 0 1
  let g := pkt.fld 1 1
  if pl < s.rd Fld.keyPwrLim_pl1Min ∨ s.rd Fld.keyPwrLim_pl1Max < pl ∨ 1 < g ∨ (g = 1 ∧ !s.flag Fld.keyPwrLim_gustEn) then s.fin c 0x27
  else
    let lower := pl < (s.pwr.plPend.getD (s.rd Fld.pwrProfile_pl1))
    let s := (s.wr Fld.pwrProfile_gust g).modPwr fun x => { x with plPend := some pl }
    let s := if g = 0 then s.leaveGust else s
    let s := if lower then s.capacityLossAll else s
    (s.applyIdle.noticeDev 0x24 noSpan (pl * 256 + g)).fin c 0x00

/-! ### Sensors (R459 to R461) -/

/-- Sensors that may stand in for an excluded one (R459): the mesh neighbours of a cell's, the other Abutment sensors. -/
def neighbours (i : Nat) : List Nat :=
  if i < 56 then
    (if 8 ≤ i then [i - 8] else []) ++ (if i + 8 < 56 then [i + 8] else []) ++ (if i % 8 ≠ 7 then [i + 1] else []) ++
      (if i % 8 ≠ 0 then [i - 1] else [])
  else if i < 60 then [56, 57, 58, 59].filter (· != i)
  else []

/-- The accepted reading of a sensor in use. -/
def inUse (s : State) (i : Nat) : Option Int :=
  if (s.rd Fld.pwrThermBad_sensorBad).testBit i then none else SMap.get none s.pwr.accepted i

/-- The greatest of a list of readings. -/
def warmest (l : List Int) : Option Int := l.max?

/-- The reading that counts for a sensor: its own, or while it is excluded the highest of its neighbours in use (R459). -/
def counts (s : State) (i : Nat) : Option Int :=
  match s.inUse i with
  | some t => some t
  | none => if (s.rd Fld.pwrThermBad_sensorBad).testBit i then warmest ((neighbours i).filterMap s.inUse) else none

/-- Whether a reading is plausible: −40 °C to 150 °C (R459). -/
def plausible (t : Int) : Bool := decide (-640 ≤ t ∧ t ≤ 2400)

/-- One sensor's reading taken (R459). -/
def sense (s : State) (i : Nat) (t : Int) : State :=
  let prev := SMap.get 0 s.pwr.latest i
  let bad := (s.rd Fld.pwrThermBad_sensorBad).testBit i
  let s := (s.wr Fld.pwrTemp_temp (unsign 16 t) 0 i).modPwr fun x => { x with latest := SMap.put 0 x.latest i t }
  let accept := fun (u : State) => (u.clrBit Fld.pwrThermBad_sensorBad i).modPwr fun x =>
    { x with accepted := SMap.put none x.accepted i (some t), streak := SMap.put 0 x.streak i 0 }
  let run := fun (n : Nat) (u : State) => (u.setBit Fld.pwrThermBad_sensorBad i).modPwr fun x => { x with streak := SMap.put 0 x.streak i n }
  match SMap.get none s.pwr.accepted i with
  | none => if plausible t then accept s else run 0 s
  | some a =>
    if !bad then (if plausible t && (t - a).natAbs ≤ 160 then accept s else run 0 s)
    else if plausible t && (t - prev).natAbs ≤ 160 then
      (let n := SMap.get 0 s.pwr.streak i + 1
       if 10 ≤ n then accept s else run n s)
    else run 0 s

/-- The hottest sensor in use and the temperature that counts (R459, `PWR_THERM`). -/
def setHottest (s : State) : State :=
  let l := (List.range 64).filterMap fun i => (s.inUse i).map fun t => (i, t)
  let best := warmest ((List.range 64).filterMap s.counts)
  match best with
  | none => s
  | some t =>
    let n := ((l.find? fun e => e.2 == t).map (·.1)).getD 0
    (s.wr Fld.pwrTherm_hottest n).wr Fld.pwrTherm_temp (unsign 16 t)

/-- Detail of the thermal notices (R474). -/
def thermDetail (s : State) : Nat := s.rd Fld.pwrTherm_hottest * 2 ^ 24 + s.rd Fld.pwrTherm_temp

/-- The die that a sensor sits in, in keystone's numbering (R459, R488). -/
def sensorDie (i : Nat) : Nat := if i < 56 then 0 else if i < 60 then 1 else i - 58

/-- The clock lowered by 50 MHz, down to 400 MHz (R460); below the floor it is the thermal clamp, a capacity loss (R311, R456). -/
def stepDown (s : State) : State :=
  let c := max 40 (s.rd Fld.pwrProfile_clock - 5)
  let s := (s.changeClock c).modPwr fun x => { x with coolSteps := 0 }
  if c < s.rd Fld.pwrProfile_floor then (s.modPwr fun x => { x with tclamp := true }).capacityLossAll else s

/-- Throttling starts (R460). -/
def throttleEntry (s : State) : State :=
  let s := (s.leaveGust.wr Fld.pwrStatus_throttling 1).bump Fld.pwrThrottleCnt_count
  (s.noticeDev 0x22 noSpan s.thermDetail).stepDown

/-- A thermal trip (R461). -/
def thermalTrip (s : State) : State :=
  let s := (s.keyFault 0x0B 0 (sensorDie (s.rd Fld.pwrTherm_hottest))).modKey fun k => { k with tripLast := true }
  s.requestReset .thermalTrip

/-- The readings of the 64 sensors, in order (R459 to R461). -/
def sensors (s : State) (l : List Int) : State :=
  let s := forEach (l.take 64).zipIdx (fun e t => t.sense e.2 e.1) s
  let s := s.setHottest
  if (16 * s.rd Fld.keyTherm_trip : Int) ≤ s.hottest ∧ s.key.inReset.isNone then s.thermalTrip
  else if (16 * s.rd Fld.keyTherm_throttle : Int) ≤ s.hottest ∧ s.active ∧ s.running ∧ !s.flag Fld.pwrStatus_throttling then s.throttleEntry
  else s

/-- A millisecond of throttling (R460). -/
def throttleStep (s : State) : State :=
  if !s.flag Fld.pwrStatus_throttling then s
  else
    let s := s.after 1000000
    let thr : Int := s.rd Fld.keyTherm_throttle
    if 16 * thr ≤ s.hottest then s.stepDown
    else if 16 * (thr - 3) < s.hottest then s.modPwr fun x => { x with coolSteps := 0 }
    else if 9 ≤ s.pwr.coolSteps then
      let c := if s.pwr.clamp then s.rd Fld.pwrProfile_clock else min 130 (s.rd Fld.pwrProfile_clock + 5)
      let s := (s.changeClock c).modPwr fun x => { x with coolSteps := 0 }
      if s.rd Fld.pwrProfile_floor ≤ c then
        ((s.wr Fld.pwrStatus_throttling 0).modPwr fun x => { x with tclamp := false }).noticeDev 0x23 noSpan s.thermDetail
      else s
    else s.modPwr fun x => { x with coolSteps := x.coolSteps + 1 }

/-- SMB_ALERT#, low while SAG_WARN holds, while throttling, or during a trip hold (R516). -/
def smbAlert (s : State) : Bool :=
  !(s.flag Fld.pwrStatus_sagClamp || s.flag Fld.pwrStatus_throttling || s.key.inReset == some .thermalTrip)

/-! ### Supply sag (R462 to R464, R509, R512) -/

/-- What SAG_WARN does (R462): GUST ends, the flash holds, vector 49 and the notices, the clamp. -/
def sagWarn (s : State) (mv : Nat) : State :=
  if s.flag Fld.pwrStatus_sagClamp then s
  else
    let s := (s.leaveGust.wr Fld.flcStatus_sagHold 1).fireAll 49
    let s := (s.noticeDev 0x20 noSpan mv).noteFw 3 mv
    let s := (s.wr Fld.pwrStatus_sagClamp 1).modPwr fun x => { x with clamp := true, limPend := false }
    ((s.changeClock 40).bump Fld.pwrSagCnt_count).capacityLossAll

/-- sag_hold clears once neither a sag nor an uncharged bank holds it: the flash goes on (R222, R509). -/
def endHold (s : State) : State :=
  if s.flag Fld.pwrStatus_sagClamp || !s.pwr.bankOk then s else ((s.wr Fld.flcStatus_sagHold 0).flashRelease).runJobs

/-- The end of a sag (R463): the input has stayed above warn + 0.2 V for 10 ms. -/
def sagClear (s : State) (mv : Nat) : State :=
  if !s.flag Fld.pwrStatus_sagClamp || s.pwr.seatOpen || mv ≤ s.rd Fld.keySag_warn * 100 + 200 then s
  else
    let s := (s.wr Fld.pwrStatus_sagClamp 0).modPwr fun x => { x with limPend := true }
    (s.endHold.noticeDev 0x21 noSpan mv).applyIdle

/-! ### LULL (R450, R451) -/

/-- The conditions of R451. -/
def mayLull (s : State) : Bool :=
  s.rd Fld.pwrStatus_state == 0 && s.running && s.rd Fld.pwrLullDelay_ms != 0 && s.reqs.isEmpty &&
    (s.slots.all fun e => e.2.st == 0 || e.2.st == slParked) && (s.ops.all fun e => !e.2.live) &&
    (s.portList.all fun p => (s.port p).cmdQ.isEmpty && (s.port p).serving.isEmpty) && s.commits.isEmpty

/-- LULL entered (R214, R450, R491): read counts saved, cells gated, the watchdog's count suspended. Steward firmware keeps the handle
tables and step programmes and restores them on wake (R451). -/
def enterLull (s : State) : State :=
  let s := s.saveReads
  let s := forEach ((List.range 56).filter fun n => s.cellSpan n != 0xF)
    (fun n t => (t.wipeCellBut n fun off => 0x400 ≤ off && off < 0x800).modCell n fun c => { c with progs := (t.cell n).progs }) s
  (s.wr Fld.pwrStatus_state 1).modPwr fun x => { x with wdogAt := none }

/-- The wake sequence of R451, 1,200 µs long: cell memories initialised (R123), handles and step programmes restored; the watchdog restarts from its full timeout (R491). -/
def wakeUp (s : State) : State :=
  let s := s.wr Fld.pwrStatus_state 0
  let s := forEach ((List.range 56).filter fun n => s.cellSpan n != 0xF) (fun n t => t.initDone n) s
  let s := s.modPwr fun x => { x with wdogAt := some (s.now + 50000) }
  (s.after 1200000).busy

/-! ### The watchdog and fatal faults (R471, R472, R491, R499) -/

/-- `KEY_WDOG.left`: ms until expiry; the full timeout while the count does not run. -/
def wdogLeft (s : State) : Nat :=
  let t := s.rd Fld.keyWdog_timeout
  match s.pwr.wdogAt with
  | none => t
  | some a => t - (s.now - a) / 1000000

/-- A feed (R471): by a steward core, with a value that differs from the last counted one. -/
def feed (s : State) (w v : Nat) : State :=
  if isSteward w then
    let s := s.wr Fld.pwrWdogFeed_progress v
    if s.pwr.fed = some v then s
    else s.modPwr fun x => { x with fed := some v, wdogAt := x.wdogAt.map fun _ => s.now }
  else s.hostDeny w

/-- The watchdog expires (R491). The source does not say which steward core is the faulty party; which of the eight is a free
value (R10, log entry 15). -/
def wdogExpire (s : State) : State :=
  match s.pwr.wdogAt with
  | none => s
  | some a =>
    if s.key.inReset.isSome then s
    else
      let s := s.atTime (a + s.rd Fld.keyWdog_timeout * 1000000)
      let (k, s) := s.fresh 3
      ((s.keyFault 0x09 (0x10 + k) 0).modKey fun k => { k with wdogLast := true }).requestReset .watchdog

end State

/-- POWER_MEASUREMENT (R455). -/
def execPowerMeasurement (mainMv auxMv nowDw tenMsDw avgDw clock10 : Nat) (s : State) : Out :=
  .next (s.measure mainMv auxMv nowDw tenMsDw avgDw clock10)
/-- SENSOR_READING (R459). -/
def execSensorReading (temps : List Int) (s : State) : Out := .next (s.sensors temps)
/-- THROTTLE_STEP (R460). -/
def execThrottleStep (s : State) : Out := .next s.throttleStep
/-- GUST_ENTRY (R450, R458): ACTIVE, the conditions hold, and some span could run faster. -/
def execGustEntry (s : State) : Out :=
  if s.rd Fld.pwrStatus_state = 0 ∧ s.running ∧ s.gustOk ∧ !s.flag Fld.pwrStatus_throttling then
    .next ((s.wr Fld.pwrStatus_state 3).bump Fld.pwrGust_bursts)
  else .next s
/-- GUST_CREDIT_SPENT (R458). -/
def execGustCreditSpent (s : State) : Out := if s.inGust then .next (s.setCredit 0).leaveGust else .next s
/-- SAG_WARN (R462). -/
def execSagWarn (mv : Nat) (s : State) : Out := .next (s.sagWarn mv)
/-- SAG_CLEAR (R463). -/
def execSagClear (mv : Nat) (s : State) : Out := .next (s.sagClear mv)
/-- SAG_RESET (R464). -/
def execSagReset (s : State) : Out := .next (s.requestReset .sag)
/-- SEAT_OPEN (R512): as a SAG_WARN trip at once, and 1 ms later a module reset. -/
def execSeatOpen (mv : Nat) (s : State) : Out :=
  .next ((((s.sagWarn mv).modPwr fun x => { x with seatOpen := true }).after 1000000).requestReset .seat)
/-- HOLDUP_BANK_CHARGED (R509). -/
def execHoldupBankCharged (s : State) : Out := .next (s.modPwr fun x => { x with bankOk := true }).endHold
/-- LULL_ENTRY, once `PWR_LULL_DELAY` has passed since the module was last busy (R450, R451). -/
def execLullEntry (s : State) : Out :=
  if s.mayLull then .next (s.atTime (s.pwr.busyAt + s.rd Fld.pwrLullDelay_ms * 1000000)).enterLull else .next s
/-- LULL_WAKE (R450, R451). -/
def execLullWake (s : State) : Out := if s.lull then .next s.wakeUp else .next s
/-- WATCHDOG_FEED (R471). -/
def execWatchdogFeed (writer : Ident) (progress : BitVec 32) (s : State) : Out := .next (s.feed writer.toNat progress.toNat)
/-- WATCHDOG_EXPIRY (R491). -/
def execWatchdogExpiry (s : State) : Out := .next s.wdogExpire
/-- LOCKSTEP_MISMATCH (R472). -/
def execLockstepMismatch (s : State) : Out :=
  .next (((s.keyFault 0x0A 0x20 0).modKey fun k => { k with lockLast := true }).requestReset .lockstep)
/-- STEWARD_FAULT (R499). -/
def execStewardFault (core : Fin 8) (s : State) : Out :=
  if s.running then .next ((s.keyFault 0x08 (0x10 + core) 0).requestReset .stewardFault) else .next s
/-- POWER_SET, opcode 0x90. -/
def execPowerSet (p : PortId) (pkt : Packet) (s : State) : Out := .next (s.serve 0x90 p pkt fun c pkt s => s.powerSet c pkt)

/-- GET_POWER (R473). -/
def execGetPower (s : State) : Out :=
  .next (s.mctpAnswer (leBytes 4 s.pwrStatusWord.toNat ++ s.regBytes 4 .pwrProfile ++ s.regBytes 8 .pwrInput ++ s.regBytes 8 .pwrEnergy))

end Sys2Proof.Machine
end

