-- ==== Sys2Proof/Machine/Operations.lean ====
section
/-!
DEFINITION. The commands on long operations (13, R405, R408 to R410).
-/
namespace Sys2Proof.Machine

/-- Whether a port may act on a long operation (R408): its owner; once the owner is down, any port with the permission that the operation
needed; a query also with the diagnostics permission. -/
def State.mayOp (s : State) (p : Nat) (o : Op) (query : Bool) : Bool :=
  (query && s.perm p 3) ||
    (if o.orphan then ((opRow o.opcode).bind (·.perm)).all fun q => s.perm p q.1 else o.who.port == p)

/-- Opcodes whose OP_ABORT after the switch or activation is refused with 0x26 (R246, R368, R409). -/
def switches (opcode : Nat) : Bool := opcode == 0x12 || opcode == 0x13 || opcode == 0x14 || opcode == 0xA0

/-- Whether an operation can be suspended and aborted (R409): all but MODEL_UNLOAD and ADAPTER_DROP. -/
def Job.stoppable : Job → Bool
  | .unload _ => false
  | .drop _ => false
  | _ => true

namespace State

/-- The entry that an OP_ command names, when its handle holds and the port may act on it; else 0x2D (R408, R410). -/
def withOp (s : State) (c : Caller) (pkt : Packet) (query : Bool) (f : Nat → Op → State) : State :=
  let i := pkt.target % 64
  let o := s.op i
  if o.live ∧ o.gen = pkt.target / 64 ∧ s.mayOp c.port o query then f i o else s.fin c 0x2D

/-- Work done, as OP_STATUS reports it (R405): an unload and a drop count what is no longer bound. -/
def workDone (s : State) (o : Op) : Nat :=
  match o.job with
  | .unload _ => o.total - s.boundTo o.span
  | .drop a => o.total - (s.adapter o.span a).vers.length
  | _ => o.done

/-- The OP_STATUS record (R405). -/
def opRecord (s : State) (o : Op) : List Byte :=
  leBytes 1 o.opcode ++ leBytes 1 o.st ++ leBytes 1 (if o.orphan then 0 else portIdent o.who.port) ++ leBytes 1 o.span ++ leBytes 4 0 ++
    leBytes 8 (s.workDone o) ++ leBytes 8 o.total ++ leBytes 8 o.start

/-- OP_STATUS (R405, R408). -/
def opStatus (s : State) (c : Caller) (pkt : Packet) : State := s.withOp c pkt true fun _ o => s.final c 0x00 0 (s.opRecord o)

/-- OP_SUSPEND (R409, R410). -/
def opSuspend (s : State) (c : Caller) (pkt : Packet) : State :=
  s.withOp c pkt false fun i o =>
    if !o.job.stoppable ∨ o.st = 2 then s.fin c 0x2E
    else if o.st = 1 then s.fin c 0x00
    else
      let job := match o.job with
        | .train j => .train { j with finishing := true }
        | j => j
      (s.modOp i fun o => { o with st := 1, job }).fin c 0x00

/-- OP_RESUME (R410). -/
def opResume (s : State) (c : Caller) (pkt : Packet) : State :=
  s.withOp c pkt false fun i o =>
    if o.st = 2 then s.fin c 0x2E
    else if o.st = 0 then s.fin c 0x00
    else
      let t := (s.modOp i fun o => { o with st := 0 }).fin c 0x00
      match o.job with
      | .load j => (t.loadResume i j).runJobs
      | .train j => t.setTrain i { j with finishing := false }
      | _ => t.runJobs

/-- OP_ABORT (R246, R368, R409, R410). -/
def opAbort (s : State) (c : Caller) (pkt : Packet) : State :=
  let i := pkt.target % 64
  let o := s.op i
  if !o.live ∧ o.gen = pkt.target / 64 ∧ o.gen ≠ 0 ∧ o.st = 3 ∧ switches o.opcode ∧ s.mayOp c.port o false then s.fin c 0x26
  else s.withOp c pkt false fun i o =>
    if !o.job.stoppable ∨ o.st = 2 then s.fin c 0x2E
    else
      let t := s.modOp i fun o => { o with st := 2, abort := some c }
      match o.job with
      | .load _ => t.relayGo i
      | .flash _ => if t.flash.ops.any fun x => x.job == some i then t else t.endAborted i
      | .adapter _ _ _ => (t.undoAdapter i).endAborted i
      | .fw j =>
        let t := forEach t.diesIn (fun d u => u.wipeParam d (4 * j.image)) t
        (t.setFwVersion j.image 0).endAborted i
      | .train j => ((t.trainEnd i j 0x0F).modOp i fun o => { o with abort := none }).fin c 0x00
      | _ => t.endAborted i

end State

/-- OP_SUSPEND, opcode 0x70. -/
def execOpSuspend (p : PortId) (pkt : Packet) (s : State) : Out := .next (s.serve 0x70 p pkt fun c pkt s => s.opSuspend c pkt)
/-- OP_RESUME, opcode 0x71. -/
def execOpResume (p : PortId) (pkt : Packet) (s : State) : Out := .next (s.serve 0x71 p pkt fun c pkt s => s.opResume c pkt)
/-- OP_ABORT, opcode 0x72. -/
def execOpAbort (p : PortId) (pkt : Packet) (s : State) : Out := .next (s.serve 0x72 p pkt fun c pkt s => s.opAbort c pkt)
/-- OP_STATUS, opcode 0x7F. -/
def execOpStatus (p : PortId) (pkt : Packet) (s : State) : Out := .next (s.serve 0x7F p pkt fun c pkt s => s.opStatus c pkt)

end Sys2Proof.Machine
end

