-- ==== Sys2Proof/Machine/Boot.lean ====
section
/-!
DEFINITION. Resets and the boot (16, R475 to R492; 17, R509, R512), and the trestle links at run time (R486).
-/
namespace Sys2Proof.Machine

/-- The code of a reset cause in `KEY_BOOT`; the power-up that follows an opened seat is a cold reset. -/
def causeCode : ResetCause → Nat
  | .cold => 1
  | .watchdog => 2
  | .thermalTrip => 3
  | .sag => 4
  | .lockstep => 5
  | .dieMismatch => 6
  | .meshLink => 7
  | .stewardFault => 8
  | .stillExit => 9
  | .seat => 1

/-- Registers that a module reset keeps whole (R475; log entry 11). -/
def keptKeys : List Nat := [Reg.pwrEnergy.key 0 0, Reg.keyFenced.key 0 0, Reg.keySpare.key 0 0, Reg.keySpareFree.key 0 0]

/-- The flash controller restarted (R224): no operation is left, and what it held of its tables and of the directory is read again (R220, R231). -/
def Flash.restart (f : Flash) : Flash :=
  { f with
    planes := [], ops := [], done := [], jobDone := [], clkTo := none, tabDue := [], dirDue := false, parDue := [], recDue := [],
    bad := [], map := [], spare := [], scanned := [], retired := [], lib := [], writeSeq := 0,
    blocks := forEach (SMap.keys f.blocks) (fun k m => SMap.put {} m k { SMap.get {} m k with reads := 0, due := false }) f.blocks }

namespace State

/-! ### Resets (R475, R476) -/

/-- The state that a cold or module reset leaves (R475). What survives: the flash, keystone data and fuses, what stands outside the module
(host memory, straps, the bank, the seat), and over a module reset the fences, the maps and the energy count. -/
def afterReset (s : State) (cold : Bool) : State :=
  { State.reset with
    pending := s.pending
    regs := if cold then [] else s.regs.filter fun e => keptKeys.contains e.1
    straps := s.straps
    smbA := s.smbA
    now := s.now
    free := s.free
    tier := { host := s.tier.host }
    flash := s.flash.restart
    cad := { last := s.now }
    pwr := { bankOk := s.pwr.bankOk, seatOpen := s.pwr.seatOpen, energyUj := if cold then 0 else s.pwr.energyUj }
    key := { s.key with inReset := none, running := false, noSpill := false, faulted := [] }
    mgmt := if cold then {} else s.mgmt
    notes := s.notes }

/-- What a module reset keeps of registers that it clears otherwise: the fences in `CEL_STATUS` (R493), and the flags of
`TIE_STATUS` that only a cold reset clears. -/
def keepFences (s old : State) : State :=
  let s := (s.wr Fld.tieStatus_noSpare0 (old.rd Fld.tieStatus_noSpare0)).wr Fld.tieStatus_noSpare1 (old.rd Fld.tieStatus_noSpare1)
  forEach (List.range 56) (fun n t =>
    (t.wr Fld.celStatus_arrayFenced (b2n (old.arrayFenced n)) n).wr Fld.celStatus_cellFenced (b2n (old.cellFenced n)) n) s

/-- A cold reset (R475): what the flash was doing ends without a record, and the straps are sampled. -/
def coldReset (s : State) (lanes smbA : BitVec 2) : State :=
  let s := forEach s.flash.ops (fun o t => t.markCut o) s
  ((({ s with straps := lanes, smbA := smbA } : State).afterReset true).modKey fun k => { k with cause := causeCode .cold }).loadFuses

/-- Whether keystone may release the reset it holds (R461, R464, R512). -/
def mayRelease (s : State) : ResetCause → Bool
  | .thermalTrip => decide (s.hottest ≤ 16 * ((s.rd Fld.keyTherm_throttle : Int) - 20))
  | .sag => decide (s.rd Fld.keySag_warn * 100 < s.rd Fld.pwrInput_mainMv) && !s.pwr.seatOpen
  | _ => !s.pwr.seatOpen

/-- The running pulses end and their CUT records are written (R223). -/
def cutAll (s : State) : State :=
  forEach [0, 1] (fun d t => forEach (List.range 64) (fun k u => u.cutPlane d k) t) s

/-- A module reset (R475 to R477): the hold of 1.1 ms, then the reset, unless keystone goes on holding it. -/
def moduleReset (s : State) (c : ResetCause) : State :=
  let s := ((s.requestReset c).cutAll).after 1100000
  match s.key.inReset with
  | none => s
  | some c =>
    if s.mayRelease c then (((s.afterReset false).keepFences s).modKey fun k => { k with cause := causeCode c }).loadFuses else s

/-- The power-up order (R509): 42.3 ms after the start condition, or 70 ms when the bank has not passed 11.0 V by then. -/
def powerUp (s : State) (lanes smbA : BitVec 2) (charged : Bool) : State :=
  let s := (s.after (if charged then 42300000 else 70000000)).modPwr fun x => { x with seatOpen := false, bankOk := charged }
  (s.coldReset lanes smbA).wr Fld.flcStatus_sagHold (b2n !charged)

/-! ### Stage 0: keystone and the restart checks (R220, R466, R467, R470) -/

/-- The interrupted operation that the last record of a row tells of: an erase, or else a program. -/
def cutErase (s : State) (d row : Nat) : Bool :=
  let l := ((s.journal d).filter fun r => r.row == row && r.type != recCut).getLast?
  l.any fun r => r.type == recErOpen

/-- A row marked needs_erase, in every plane. -/
def needsErase (s : State) (d row : Nat) : State :=
  s.modFlash fun x => { x with needs := x.needs ++ ((List.range 64).map fun k => (d, row, k)).filter fun e => !x.needs.contains e }

/-- One row examined (R220); `intact` is what the reads found. -/
def checkRow (s : State) (d row : Nat) (intact : Bool) : State :=
  match s.lastRec d row with
  | none => s
  | some r =>
    if !(r.type == recUpOpen || r.type == recErOpen || r.type == recCut) then s
    else if s.cutErase d row then s.needsErase d row
    else if intact then
      let s := forEach (bitList r.planes 64) (fun k t => t.modBlock d k (t.physOf d k row) fun b =>
        { b with erased := true, next := max (r.page + 1) b.next }) s
      s.journalWrite d recChecked row 0 r.planes
    else (s.journalWrite d recChecked row 1 r.planes).needsErase d row

/-- The restart checks (R220): each die's table is read (R213), an erase that the journal still owes is made (R219), each row that its journal
leaves open is examined, and then the library is read (R231). -/
def restartChecks (s : State) (env : BootEnv) : State :=
  let s := forEach env.badCopies (fun (d, table, k) t => t.spoilCopy (d % 2) table (k % 2)) s
  let s := (s.readTable 0).readTable 1
  let s := if s.flag Fld.flcStatus_sagHold then s
    else forEach s.flash.jErase (fun d t => t.eraseOldest d ((nbits (SMap.get 0 t.flash.jpos d) 13 12 + 1) % 3)) s
  let s := forEach [0, 1] (fun d t => forEach ((t.journal d).map (·.row)).dedup (fun r u => u.checkRow d r (env.intactRows.contains (d, r))) t) s
  s.readDir

/-- Stage 0. -/
def bootKeystone (s : State) (env : BootEnv) : State :=
  let s := s.loadFuses.loadRecord env.badRecords
  let pl := s.rd Fld.keyPwrLim_pl1Boot
  let s := (s.wr Fld.pwrProfile_pl1 pl).wr Fld.pwrProfile_floor (floorOf pl)
  let s := ((s.wr Fld.pwrProfile_clock (floorOf pl)).wr Fld.pwrProfile_gust 0).setCredit (s.rd Fld.keyPwrLim_gustS * 600000)
  let s := ((s.wr Fld.keyStatus_wdogLast (b2n s.key.wdogLast)).wr Fld.keyStatus_tripLast (b2n s.key.tripLast)).wr
    Fld.keyStatus_lockstepLast (b2n s.key.lockLast)
  let s := s.modKey fun k => { k with wdogLast := false, tripLast := false, lockLast := false }
  (s.wr Fld.keyBoot_resetCause s.key.cause).restartChecks env

/-! ### Stage 1: the firmware (R480 to R483) -/

/-- What the ROM makes of image `img` (log entry 12): whether it verifies, its version, svn and levels. -/
def fwFound (s : State) (env : BootEnv) (img : Nat) : Shipped :=
  if s.flash.shipped.contains img then
    match env.shipped[img]? with
    | some f => { f with good := f.good && decide (s.key.minSvn ≤ f.svn) }
    | none => { good := false, version := 0, svn := 0, levels := [] }
  else
    let l := s.fwRom img env.badUnits
    { good := s.fwOk l, version := FwHdr.version l, svn := FwHdr.svn l, levels := FwHdr.levels l }

/-- The image that boots (R482), if one verifies. -/
def fwChoice (s : State) (env : BootEnv) : Option Nat :=
  let a := s.key.active
  let first := if 3 ≤ s.key.attempts then 1 - a else a
  if (s.fwFound env first).good then some first
  else if (s.fwFound env (1 - first)).good then some (1 - first)
  else none

/-- `KEY_FW` as the boot finds it. -/
def showFw (s : State) (env : BootEnv) : State :=
  let ver := fun (i : Nat) => let f := s.fwFound env i; if f.good then f.version else 0
  (((s.wr Fld.keyFw_verA (ver 0)).wr Fld.keyFw_verB (ver 1)).wr Fld.keyFw_minSvn s.key.minSvn).wr Fld.keyFw_active s.key.active

/-- Image `img` selected: the attempt counted (R482), the watchdog armed (R491). -/
def startFw (s : State) (env : BootEnv) (img : Nat) : State :=
  let fb := 3 ≤ s.key.attempts ∧ img ≠ s.key.active
  let n := min 3 (s.key.attempts + 1)
  let s := (s.wr Fld.keyBoot_image img).wr Fld.keyBoot_fallback (b2n (decide fb))
  (s.wr Fld.keyFw_attempts n).modKey fun k => { k with attempts := n, version := (s.fwFound env img).version }

/-! ### SAFE (R487) -/

/-- The module enters SAFE. -/
def enterSafe (s : State) (cause : Nat) : State :=
  let s := ((s.wr Fld.keyBoot_safeCause cause).wr Fld.keyBoot_stage 0xF).wr Fld.pwrStatus_state 4
  forEach [0, 1, 2, 3] (fun p t => t.wr Fld.hptStatus_safe 1 p) s

/-- The recovery firmware runs (R483); it bears version 0 (log entry 12). -/
def recovery (s : State) (cause : Nat) : State :=
  ((s.wr Fld.keyBoot_recovery 1).modKey fun k => { k with version := 0, noSpill := true }).enterSafe cause

/-! ### Stages 3 to 6 -/

/-- Stage 3: the trestle links, with lane repair (R486). -/
def bootLinks (s : State) (env : BootEnv) : State :=
  let bad := (List.range 7).filter env.linksBad.contains
  let s := forEach bad (fun r t => forEach (List.range 8) (fun c u => u.fence (8 * r + c) 0x05 true) t) s
  let s := s.wr Fld.keyBoot_linkBad (maskOf bad)
  { s with spareLanes := forEach (List.range 7) (fun r m => SMap.put 0 m r (min 2 (env.spareLanes.getD r 0))) [] }

/-- The version word of die `d` (R488). -/
def dieWord (env : BootEnv) (d : Nat) : Nat :=
  let w := Config.dieVersion d
  env.dieKinds.getD d (w / 2 ^ 24) % 256 * 2 ^ 24 + env.dieRevs.getD d (w / 2 ^ 16) % 256 * 2 ^ 16 + env.dieLevels.getD d w % 65536

/-- Whether die `d` agrees (R488): its level lies in the range for its kind, and it returns epoch 0. -/
def dieAgrees (env : BootEnv) (levels : List (Nat × Nat)) (d : Nat) : Bool :=
  let w := dieWord env d
  let k := w / 2 ^ 24
  let r := levels.getD (k - 1) (1, 0)
  1 ≤ k && k ≤ 4 && r.1 ≤ w % 65536 && w % 65536 ≤ r.2 && !env.deafDies.contains d

/-- Stage 4: die agreement (R488, R489). -/
def bootDies (s : State) (env : BootEnv) (levels : List (Nat × Nat)) : State :=
  let s := forEach (List.range 6) (fun d t => (t.wr Fld.keyDie_version (dieWord env d) 0 d).wr Fld.keyDie_epoch 0 0 d) s
  let held := (List.range 6).filter fun d => !dieAgrees env levels d
  (s.wr Fld.keyDieHeld_held (maskOf held)).wr Fld.flcStatus_held (maskOf held / 16 ||| s.rd Fld.flcStatus_tableLost)

/-- The SAFE cause that the held dies give (R489). -/
def heldCause (s : State) : Option Nat :=
  let h := fun (d : Nat) => !s.dieServing d
  if h 1 then some 3 else if h 0 then some 2 else if h 2 || h 3 then some 4 else if h 4 && h 5 then some 5 else none

/-- The failed channels of stack `st`, as numbers within it. -/
def badIn (env : BootEnv) (st : Nat) : List Nat := (List.range 17).filter fun j => env.badChannels.contains (17 * st + j)

/-- A stack's one failed channel (R126): its slot maps to the spare, and a failed spare is no spare. -/
def mapSpare (s : State) (env : BootEnv) (st : Nat) : State :=
  match badIn env st with
  | [16] => s.modTier fun t => { t with spareBad := t.spareBad ++ [st] }
  | [j] => if st = 0 then (s.wr Fld.tieSlotMap_s0Used 1).wr Fld.tieSlotMap_s0Slot j
    else (s.wr Fld.tieSlotMap_s1Used 1).wr Fld.tieSlotMap_s1Slot j
  | _ => s

/-- Stage 5: DRAM training, and the flash interface at 2,000 MHz and 1.2 V (R195). -/
def bootMemory (s : State) (env : BootEnv) : State :=
  let s := (s.mapSpare env 0).mapSpare env 1
  (((s.wr Fld.flcWait_rdCycles 20).wr Fld.flcClk_freq 6).wr Fld.flcClk_vccq 1).setWclat

/-- Stage 6: self-test, and spares for fenced active cells in ascending order (R484, R485). -/
def bootCells (s : State) (env : BootEnv) : State :=
  let some_ := fun (t : State) (c : Nat) => (t.rd Fld.keySpare_cells).testBit c || (t.rd Fld.keySpareFree_cells).testBit c
  let s := forEach (List.range 56) (fun c t =>
    if !some_ t c || t.cellFenced c then t
    else if env.memFails.contains c then t.fence c 0x04 true
    else if env.arrayFails.contains c && !t.arrayFenced c then t.fence c 0x04 false
    else t) s
  let gone := (bitList (s.rd Fld.keySpare_cells) 56).filter fun c => (s.rd Fld.keyFenced_cells).testBit c
  forEach gone (fun c t => t.takeOver c (t.spareFor c [])) s

/-! ### The boot (R478) -/

/-- The end of a boot, into service or into SAFE: the ports answer, the admission generator is seeded (R269, R414, R479). -/
def bootEnd (s : State) (env : BootEnv) : State :=
  let s := forEach [0, 1, 2, 3] (fun p t => (t.wr Fld.hptStatus_ready 1 p).modPort p fun h => { h with crs := false }) s
  let s := (s.wr Fld.flcStatus_restartBusy 0).busy.modKey fun k => { k with running := true }
  ({ s with admRng := seedRng (BitVec.ofNat 32 env.refCount) } : State).setWclat

/-- Stage 7 (R478, R482): the library read, the count of attempts cleared, the minimum svn raised. -/
def bootService (s : State) (env : BootEnv) (img : Nat) : State :=
  let svn := max s.key.minSvn (s.fwFound env img).svn
  let s := ((s.wr Fld.imgStatus_libRead 1).wr Fld.keyFw_attempts 0).wr Fld.keyFw_minSvn svn
  let s := (s.modKey fun k => { k with attempts := 0, minSvn := svn }).wr Fld.keyBoot_stage 7
  let s := (s.wr Fld.pwrStatus_state 0).bootEnd env
  if s.flag Fld.keyBoot_fallback then s.noticeDev 0x2C noSpan img else s

/-- Stages 3 to 7 on firmware image `img`. -/
def bootOn (s : State) (env : BootEnv) (img : Nat) : State :=
  let s := (s.bootLinks env).bootDies env (s.fwFound env img).levels
  match s.heldCause with
  | some 3 => (s.recovery 3).bootEnd env
  | some c => ((s.modKey fun k => { k with noSpill := true }).enterSafe c).bootEnd env
  | none =>
    if 2 ≤ (badIn env 0).length ∨ 2 ≤ (badIn env 1).length then
      ((s.modKey fun k => { k with noSpill := true }).enterSafe 6).bootEnd env
    else if env.meshBad then ((s.modKey fun k => { k with noSpill := true }).enterSafe 8).bootEnd env
    else
      let s := (s.bootMemory env).bootCells env
      if s.activeCells = 0 then (s.enterSafe 7).bootEnd env else s.bootService env img

/-- Whether the module waits for its boot: reset released, nothing run since. -/
def awaitsBoot (s : State) : Bool :=
  !s.running && s.key.inReset.isNone && !s.pwr.seatOpen && s.pwr.wdogAt.isNone && s.rd Fld.keyBoot_stage == 0

/-- The boot (R478, R479). Firmware that never completes it stays at stage 2, and the watchdog ends it. -/
def boot (s : State) (env : BootEnv) : State :=
  if !s.awaitsBoot then s
  else
    let ms := min 900 env.ms
    let s := (s.bootKeystone env).modPwr fun x => { x with wdogAt := some s.now }
    let s := s.showFw env
    match s.fwChoice env with
    | none => ((s.after (ms * 1000000)).wr Fld.keyBoot_bootMs ms).recovery 1 |>.bootEnd env
    | some img =>
      let s := s.startFw env img
      if env.boots then ((s.after (ms * 1000000)).wr Fld.keyBoot_bootMs ms).bootOn env img
      else s.wr Fld.keyBoot_stage 2

/-! ### Trestle links at run time (R486) -/

/-- A link that fails its CRC retrains. -/
def retrain (s : State) (link : Nat) : State :=
  if s.running && !s.linkBusy.contains link then { s with linkBusy := s.linkBusy ++ [link] } else s

/-- Retraining ends (R486): LINK_REPAIRED, or a fault of every cell of the row. -/
def retrained (s : State) (link : Nat) (repaired : Bool) (left : Nat) : State :=
  if !s.linkBusy.contains link then s
  else
    let s : State := { s with linkBusy := s.linkBusy.filter (· != link) }
    if repaired then
      ({ s with spareLanes := SMap.put 0 s.spareLanes link (2 - left) } : State).noticeDev 0x2E noSpan (link + min 2 left * 256)
    else
      forEach ((List.range 8).map (8 * link + ·)) (fun c t => if t.cellFenced c then t else t.cellFault c 0x05 true) s

end State

/-- POWER_UP_START (R509). -/
def execPowerUpStart (lanes smbA : BitVec 2) (bankCharged : Bool) (s : State) : Out := .next (s.powerUp lanes smbA bankCharged)
/-- COLD_RESET (R475); an open seat keeps the module in reset until the start condition holds again (R512). -/
def execColdReset (lanes smbA : BitVec 2) (s : State) : Out := if s.pwr.seatOpen then .next s else .next (s.coldReset lanes smbA)
/-- MODULE_RESET (R475, R476). -/
def execModuleReset (c : ResetCause) (s : State) : Out := .next (s.moduleReset c)
/-- BOOT (R478). -/
def execBoot (env : BootEnv) (s : State) : Out := .next (s.boot env)
/-- TRESTLE_RETRAIN (R486). -/
def execTrestleRetrain (link : Fin 7) (s : State) : Out := .next (s.retrain link)
/-- TRESTLE_RETRAIN_DONE (R486). -/
def execTrestleRetrainDone (link : Fin 7) (repaired : Bool) (left : Nat) (s : State) : Out := .next (s.retrained link repaired left)

end Sys2Proof.Machine
end

