-- ==== Sys2Proof/Machine/Cadence.lean ====
section
/-!
DEFINITION. The cadence unit (10, R287 to R295, R300, R315): edges, boundaries, sources and holdover, and CADENCE_SET.
-/
namespace Sys2Proof.Machine

/-- Whether intervals lie within 1/16 of one another (R294; log entry 44). -/
def agreeing (l : List Nat) : Bool :=
  let lo := l.foldl min (l.headD 0)
  let hi := l.foldl max 0
  16 * (hi - lo) ≤ lo

/-- The mean of intervals. -/
def meanOf (l : List Nat) : Nat := l.sum / max 1 l.length

namespace State

/-- State of the cadence unit: 0 ACQUIRE, 1 LOCKED, 2 HOLDOVER, 3 FREE. -/
def cadState (s : State) : Nat := s.rd Fld.cadStatus_state
/-- The measured period in ns. -/
def cadP (s : State) : Nat := s.periodNs
/-- The source code at place `i` of the order (`CAD_CTRL.order`). -/
def cadOrder (s : State) (i : Nat) : Nat := s.rd Fld.cadCtrl_order / 4 ^ i % 4

/-- A cadence notice to every port and to steward firmware (R294). -/
def cadNotice (s : State) (code detail : Nat) : State := (s.noticeDev code noSpan detail).noteFw 5 code

/-- The unit enters ACQUIRE with the source at place `i` as its candidate, or FREE when that is the internal reference (R294). -/
def acquire (s : State) (i : Nat) : State :=
  let s := s.modCad fun c => { c with cand := i % 3, tries := 0, held := 0, align := 0, agree := [], ivals := [] }
  (((s.wr Fld.cadStatus_state (if s.cadOrder (i % 3) = 2 then 3 else 0)).wr Fld.cadStatus_source 2).wr Fld.cadStatus_aligning 0)

/-- Whether the unit listens to a source now (R294): the locked one, the one last locked, the candidate, or in FREE any that the order
ranks above the internal reference. -/
def listens (s : State) (src : Nat) : Bool :=
  match s.cadState with
  | 0 => s.cadOrder s.cad.cand == src && src != 2
  | 3 => ((List.range 3).takeWhile fun i => s.cadOrder i != 2).any fun i => s.cadOrder i == src
  | _ => s.rd Fld.cadStatus_source == src

/-- A pending CADENCE_SET applied (R315). -/
def applySet (s : State) : State :=
  match s.cad.setTo with
  | none => s
  | some (v, ptm, epoch) =>
    let old := s.rd Fld.cadCtrl_order
    let s := s.modCad fun c => { c with setTo := none, ptmFailed := false }
    let s := ((((s.wr Fld.cadCtrl_holdMax (nbits v 25 16)).wr Fld.cadCtrl_ptmPort (nbits v 9 8)).wr Fld.cadCtrl_falling (nbits v 7 7)).wr
      Fld.cadCtrl_order (nbits v 5 0))
    let s := (s.wr Fld.cadPtm_periodNs ptm).wr Fld.cadPtmEpoch_ns epoch
    if nbits v 5 0 = old ∨ (s.cadState = 1 ∧ s.rd Fld.cadStatus_source = s.cadOrder 0) then s else s.acquire 0

/-- A period adopted for admission (R300): a shorter one is a capacity loss (R311). -/
def adoptPeriod (s : State) (ns : Nat) : State :=
  let old := s.rd Fld.cadPeriod_admitNs
  let s := s.wr Fld.cadPeriod_admitNs ns
  let s := if old < 16 * (max ns old - min ns old) then (s.wr Fld.cadStatus_periodChg 1).cadNotice 0x0A ns else s
  if ns < old then forEach s.spans (fun e t => t.modSpan e.1 fun x => { x with capLoss := true }) s else s

/-- The count of boundaries that an adoption still waits for goes down (R300). -/
def countAdopt (s : State) : State :=
  match s.cad.adopt with
  | none => s
  | some (n, ns) =>
    if n ≤ 1 then (s.modCad fun c => { c with adopt := none }).adoptPeriod ns else s.modCad fun c => { c with adopt := some (n - 1, ns) }

/-- The Deck die's difference at a boundary (R292). -/
def drift (s : State) (d : Nat) : State :=
  let s := (s.wr Fld.cadDrift_last (min 65535 d)).wr Fld.cadDrift_worst (max (s.rd Fld.cadDrift_worst) (min 65535 d))
  if 64 < d then (s.wr Fld.cadStatus_drift 1).cadNotice 0x0B d else s

/-- A boundary at time `t` (R289, R292, R300, R315): the period count rises by 1 and the phase returns to 0. -/
def boundaryAt (s : State) (t d : Nat) : State :=
  let s := (s.atTime t).wr Fld.cadNow_period (s.periods + 1)
  let s := s.modCad fun c => { c with last := t, tries := c.tries + 1, held := c.held + 1 }
  ((s.drift d).countAdopt).applySet

/-- Whether an edge now lies within 1/16 of the expected boundary (R289). -/
def inWindow (s : State) : Bool :=
  let el := s.now - s.cad.last
  15 * s.cadP ≤ 16 * el && 16 * el ≤ 17 * s.cadP

/-- The interval that an edge of `src` ends is taken into the record of that source (R288, R294): discarded across an inserted boundary,
and a break when it lies outside 0.5 to 50 ms or does not agree. -/
def noteEdge (s : State) (src : Nat) (mean : Bool) : State :=
  let c := s.cad
  let e := SMap.get 0 c.edges src
  let s := s.modCad fun c => { c with edges := SMap.put 0 c.edges src (s.now + 1) }
  if e = 0 ∨ e < c.inserted then s
  else
    let i := s.now + 1 - e
    if i < 500000 ∨ 50000000 < i then s.modCad fun c => { c with agree := SMap.put [] c.agree src [] }
    else
      let l := (SMap.get [] c.agree src).drop ((SMap.get [] c.agree src).length - 3) ++ [i]
      let s := s.modCad fun c => { c with agree := SMap.put [] c.agree src (if agreeing l then l else [i]) }
      if mean then
        let v := (c.ivals ++ [i]).drop ((c.ivals ++ [i]).length - 8)
        (s.modCad fun c => { c with ivals := v }).wr Fld.cadPeriod_measNs (meanOf v)
      else s

/-- The last four agreeing intervals of a source, when there are four (R294, R300). -/
def fourAgree (s : State) (src : Nat) : Option (List Nat) :=
  let l := SMap.get [] s.cad.agree src
  if l.length = 4 then some l else none

/-- The shift that brings the boundaries onto edges (R295): an edge early in the period lengthens, one late in it shortens. -/
def steer (s : State) : State :=
  let el := s.now - s.cad.last
  let p := s.cadP
  s.modCad fun c => { c with align := if el * 2 ≤ p then (el : Int) else (el : Int) - (p : Int) }

/-- The unit locks onto a source whose four intervals agree (R294): period measured and adopted, boundaries aligned, notice. -/
def lock (s : State) (src d : Nat) (l : List Nat) : State :=
  let s := (s.wr Fld.cadStatus_state 1).wr Fld.cadStatus_source src
  let now := s.inWindow
  let s := (s.modCad fun c => { c with ivals := l, held := 0, tries := 0 }).wr Fld.cadPeriod_measNs (meanOf l)
  let s := s.cadNotice 0x08 src
  if now then ((s.wr Fld.cadStatus_aligning 0).boundaryAt s.now d).modCad fun c => { c with adopt := some (1, meanOf l) }
  else ((s.wr Fld.cadStatus_aligning 1).steer).modCad fun c => { c with adopt := some (2, meanOf l) }

/-- An accepted edge of the locked source (R288, R289, R300). -/
def acceptEdge (s : State) (src d : Nat) : State :=
  let s := ((s.wr Fld.cadStatus_aligning 0).modCad fun c => { c with align := 0 }).noteEdge src true
  let s := s.boundaryAt s.now d
  match s.fourAgree src with
  | none => s
  | some l =>
    let a := s.rd Fld.cadPeriod_admitNs
    let m := meanOf l
    if a < 16 * (max m a - min m a) ∧ s.cad.adopt.isNone then s.modCad fun c => { c with adopt := some (1, m) } else s

/-- An edge of source `src` now, with the Deck die's difference if it ends the period (R287 to R289, R293, R294). -/
def cadEdge (s : State) (src d : Nat) : State :=
  if src = 2 ∨ (src = 1 ∧ s.cad.ptmFailed) ∨ !s.listens src then s
  else if s.cadState = 1 then
    if s.inWindow then s.acceptEdge src d
    else if s.flag Fld.cadStatus_aligning then (s.noteEdge src true).steer
    else s.bump Fld.cadGlitchCnt_count
  else
    let s := s.noteEdge src false
    match s.fourAgree src with
    | some l => s.lock src d l
    | none => s

/-- Whether the unit makes boundaries from the oscillator: in ACQUIRE, HOLDOVER and FREE, and while it aligns (R294, R295). -/
def flywheels (s : State) : Bool := s.cadState != 1 || s.flag Fld.cadStatus_aligning

/-- A boundary from the oscillator at the last P, shifted by at most 1/16 of it toward the source's edges (R294, R295). -/
def flywheel (s : State) (d : Nat) : State :=
  let p := s.cadP
  let sh := max (-(p / 16 : Nat) : Int) (min (p / 16 : Nat) s.cad.align)
  let s := s.modCad fun c => { c with align := c.align - sh }
  s.boundaryAt (s.cad.last + ((p : Int) + sh).toNat) d

/-- CADENCE_SET (R315). -/
def cadenceSet (s : State) (c : Caller) (pkt : Packet) : State :=
  let v := pkt.fld 0 4
  let order := nbits v 5 0
  let ptm := (List.range 3).any fun i => order / 4 ^ i % 4 == 1
  let per := pkt.fld 4 4
  if nbits v 31 26 ≠ 0 ∨ nbits v 15 10 ≠ 0 ∨ nbits v 6 6 ≠ 0 ∨ nbits v 25 16 = 0 ∨ ((List.range 3).any fun i => order / 4 ^ i % 4 == 3) ∨
      (ptm ∧ (per < 500000 ∨ 50000000 < per)) then s.fin c 0x27
  else if ptm ∧ !(s.portUp (nbits v 9 8) && Config.ptmEnabled (nbits v 9 8)) then s.fin c 0x2E
  else (s.modCad fun x => { x with setTo := some (v, per, pkt.fld 8 8) }).fin c 0x00

end State

/-- No edge by 1 + 1/16 of P after the last boundary (R290): the unit ends the period itself. -/
def execPeriodTimeout (d : Nat) (s : State) : Out :=
  if s.flywheels then .next s
  else
    let t := s.cad.last + s.cadP * 17 / 16
    .next (((s.modCad fun c => { c with inserted := t + 1 }).bump Fld.cadMissCnt_count).boundaryAt t d)

/-- A boundary made from the oscillator (R294, R295). -/
def execFlywheelBoundary (d : Nat) (s : State) : Out := if s.flywheels then .next (s.flywheel d) else .next s

/-- No accepted edge for 1.5 × P (R294): HOLDOVER. -/
def execHoldoverEntry (s : State) : Out :=
  if s.cadState = 1 then
    let t := SMap.get 0 s.cad.edges (s.rd Fld.cadStatus_source) - 1 + s.cadP * 3 / 2
    let s := (s.atTime t).modCad fun c => { c with held := 0, agree := [], align := 0 }
    .next (((s.wr Fld.cadStatus_state 2).wr Fld.cadStatus_aligning 0).cadNotice 0x09 0)
  else .next s

/-- No lock within 16 periods (R294): the next source becomes the candidate; the internal reference leads to FREE. -/
def execAcquireTimeout (s : State) : Out :=
  if s.cadState = 0 ∧ 16 ≤ s.cad.tries then .next (s.acquire (s.cad.cand + 1)) else .next s

/-- `CAD_CTRL.hold_max` periods of holdover have passed (R294). -/
def execHoldoverExpiry (s : State) : Out :=
  if s.cadState = 2 ∧ s.rd Fld.cadCtrl_holdMax ≤ s.cad.held then
    let i := ((List.range 3).find? fun i => s.cadOrder i == s.rd Fld.cadStatus_source).getD 0
    .next (s.acquire (i + 1))
  else .next s

/-- A PTM source fails (R293): it makes no more edges. -/
def execPtmSourceFail (s : State) : Out := .next (s.modCad fun c => { c with ptmFailed := true })

/-- CADENCE_SET, opcode 0x80. -/
def execCadenceSet (p : PortId) (pkt : Packet) (s : State) : Out := .next (s.serve 0x80 p pkt fun c pkt s => s.cadenceSet c pkt)
/-- CADENCE_EDGE (R287 to R289, R293, R294): an edge `dt` ns later. -/
def execCadenceEdge (src : Fin 3) (dt d : Nat) (s : State) : Out := .next ((s.after dt).cadEdge src d)

end Sys2Proof.Machine
end

