-- ==== Sys2Proof/Machine/Queues.lean ====
section
/-!
DEFINITION. The queue rows of the table (14, R435 to R444): consume, flush, head fill and the coalescing window.
-/
namespace Sys2Proof.Machine
namespace State

/-- An entry rebuilt from the protected control record after an uncorrectable word (R431): an item keeps its header with flag bit 1,
its text and token fields zeroed; a reply keeps its header with status 0x52 and a zeroed body. -/
def rebuilt (e : Entry) : Entry :=
  let n := e.bytes.length
  if 0x10 ≤ e.kind then
    let h := slice e.bytes 0 0x20
    { e with bytes := h.take 3 ++ leBytes 1 (byteAt h 3 ||| 2) ++ (h.drop 4).take 6 ++ leBytes 2 0 ++ leBytes 1 0 ++ h.drop 13 ++
        List.replicate (n - 0x20) 0 }
  else
    let h := slice e.bytes 0 16
    { e with bytes := h.take 1 ++ leBytes 1 0x52 ++ h.drop 2 ++ List.replicate (n - 16) 0 }

/-- What an error-correcting read of queue `k` met is counted (R430, R431). -/
def queueEcc (s : State) (p k : Nat) : EccOutcome → State
  | .clean => s
  | .corrected => s.bump Fld.queEcc_ce p k
  | .uncorrectable _ _ =>
    ((s.bump Fld.queEcc_ue p k).wr Fld.queStatus_ue 1 p k).aerAll .correctedInternal

/-- The head fill of R435 from spill, with what the read of the entry met. -/
def headFill (s : State) (p k : Nat) (ecc : EccOutcome) : State :=
  match (s.queue p k).firstOut with
  | none => s
  | some e =>
    if ((s.queue p k).room e).isNone then s
    else
      let s := s.queueEcc p k ecc
      let s := match ecc with
        | .uncorrectable _ _ =>
          s.modQueue p k fun q => { q with outside := q.outside.map fun (x : Entry) => if x.seq == e.seq then rebuilt x else x }
        | _ => s
      s.fillHead p k

/-- The write to `QUE_CONSUME[k]`; the command queue drops it (R437, R438). -/
def consumeWrite (s : State) (p k seq : Nat) : State := if k = 0 then s else s.consume p k seq
/-- The write to `QUE_FLUSH` (R443): values other than 1 to 17 are dropped. A second write while one is pending merges with it. -/
def flushWrite (s : State) (p v : Nat) : State :=
  let k := nbits v 4 0
  if 1 ≤ k ∧ k ≤ 17 then s.wr Fld.queStatus_flushing 1 p k else s

end State

/-- QUE_CONSUME (R437). -/
def execQueConsume (p : PortId) (k : QueueId) (seq : BitVec 32) (s : State) : Out := .next (s.consumeWrite p k seq.toNat)
/-- QUE_FLUSH (R443). -/
def execQueFlush (p : PortId) (v : BitVec 32) (s : State) : Out := .next (s.flushWrite p v.toNat)
/-- The packet boundary at which a requested flush takes effect (R443). -/
def execFlushApply (p : PortId) (k : QueueId) (s : State) : Out :=
  if k.val ≠ 0 ∧ s.flag Fld.queStatus_flushing p k then .next (s.flushNow p k) else .next s
/-- A free head slot filled from spill (R435). -/
def execHeadFill (p : PortId) (k : QueueId) (ecc : EccOutcome) (s : State) : Out :=
  if k.val = 0 then .next s else .next (s.headFill p k ecc)
/-- The end of a coalescing window (R444): the clock moves to it. -/
def execCoalesceWindowExpiry (p : PortId) (k : QueueId) (s : State) : Out :=
  let q := s.queue p k
  if k.val ≠ 0 ∧ q.coal then
    let due := (q.lastSig.getD 0) + s.rd Fld.queCfg_coalUs p k * 1000
    let s := (s.atTime due).modQueue p k fun q => { q with coal := false }
    .next (s.signalQueue p k)
  else .next s

end Sys2Proof.Machine
end

