-- ==== Sys2Proof/Machine/Ports.lean ====
section
/-!
DEFINITION. Host ports (13): the command window and its posts (R388 to R394), configuration requests (R414), ports that go down and come up
(R415, R416, R453), and STILL (R450, R452).
-/
namespace Sys2Proof.Machine
namespace State

/-- Whether accesses of port `p` to its BARs succeed: the port is up and the boot has ended (R414). -/
def barOpen (s : State) (p : Nat) : Bool := s.running && s.portUp p

/-! ### The command window (R388 to R390) -/

/-- Bytes of the command window. -/
def ringBytes : Nat := 2 ^ 20
/-- The distance from the head to a position, both with their lap bits (R390). -/
def fromHead (s : State) (p pos : Nat) : Nat := (pos + 2 ^ 21 - s.rd Fld.hptCmdHead_head p) % 2 ^ 21
/-- `n` bytes of the window from a position. -/
def ringRead (s : State) (p pos n : Nat) : List Byte :=
  let w := (s.port p).win
  (List.range n).map fun i => SMap.get 0 w ((pos + i) % ringBytes)

/-- Whether a byte of the window is posted and not yet taken. -/
def posted (s : State) (p off : Nat) : Bool :=
  decide ((off + ringBytes - s.rd Fld.hptCmdHead_head p % ringBytes) % ringBytes < s.fromHead p (s.port p).lastTail)

/-- One byte written to the window. -/
def windowByte (s : State) (p off : Nat) (b : Byte) : State :=
  if ringBytes ≤ off then s
  else if s.posted p off then s.wr Fld.hptStatus_winOverrun 1 p
  else s.modPort p fun h => { h with win := SMap.put 0 h.win off b }

/-- A write to the command window (R389): bytes posted and not yet taken stay, and set win_overrun. -/
def windowWrite (s : State) (p off : Nat) (l : List Byte) : State :=
  if s.barOpen p then forEach l.zipIdx (fun e t => t.windowByte p (off + e.2) e.1) s else s

/-! ### Taking packets (R391, R392, R394, R398) -/

/-- Refusal receipts that lie unread (R394). -/
def refusals (s : State) (p : Nat) : Nat := ((s.queue p 1).entries.filter fun e => e.refusal).length

/-- A refusal receipt (R392, R394): from its own reserve of 16, else the packet is dropped without one. -/
def refusePacket (s : State) (p : Nat) (pkt : Packet) (status : Nat) : State :=
  if 16 ≤ s.refusals p then (s.bump Fld.hptCmdDrop_count p).wr Fld.hptStatus_cmdDrop 1 p
  else s.enqueue p 1 pkt.prio (replyBytes 1 status pkt.tag 0 s.stamp []) none 0 true

/-- Replies that a packet still makes after its receipt. -/
def repliesOf (pkt : Packet) : Nat := 1 + b2n ((opRow pkt.opcode).any (·.long))

/-- Whether reply space for a packet can be reserved (R394): lines of the spill area, or without it entries of head and tail (R532). -/
def replyRoom (s : State) (p : Nat) (pkt : Packet) : Bool :=
  if s.key.noSpill then
    let owed := ((s.port p).cmdQ.map fun c => repliesOf c.pkt).sum + (s.ops.filter fun e => e.2.live && !e.2.orphan && e.2.who.port == p).length
    decide ((s.queue p 1).level + owed + 1 + repliesOf pkt ≤ 32)
  else decide ((s.port p).reserved + packetLines pkt ≤ replyLines)

/-- Whether an outstanding entry is open to a packet: the last 64 are not for REQ_CREATE and REQ_APPEND (R394). -/
def entryFree (s : State) (p : Nat) (pkt : Packet) : Bool :=
  decide (s.rd Fld.hptCmdOut_count p < (if pkt.opcode = 0x20 ∨ pkt.opcode = 0x21 then 1024 else 1088))

/-- A packet that the engine takes: to the command queue with its RECEIPT, or refused with 0x10. -/
def takePacket (s : State) (p : Nat) (pkt : Packet) : State :=
  if !s.entryFree p pkt || !s.replyRoom p pkt then s.refusePacket p pkt 0x10
  else
    let n := (s.port p).cmdQ.length
    let e : CmdEntry := { pkt, stamp := s.cadNow, prio := pkt.prio, lines := packetLines pkt }
    let s := (s.bump Fld.hptCmdOut_count p).modPort p fun h => { h with reserved := h.reserved + packetLines pkt, cmdQ := h.cmdQ ++ [e] }
    (s.crossed p 0 n (n + 1)).reply p pkt.prio 1 0x00 pkt.tag 0 []

/-- The header at a position of the window. -/
def headerAt (s : State) (p pos : Nat) : Packet :=
  { hdr0 := BitVec.ofNat 64 (ofLe (s.ringRead p pos 8)), hdr1 := BitVec.ofNat 64 (ofLe (s.ringRead p (pos + 8) 8)), body := [] }

/-- The head set to a position. -/
def setHead (s : State) (p pos : Nat) : State := s.wr Fld.hptCmdHead_head (pos % 2 ^ 21) p

/-- Every complete packet up to the last tail, in ring order (R388). -/
def takeAll (s : State) (p : Nat) : Nat → State
  | 0 => s
  | n + 1 =>
    let tail := (s.port p).lastTail
    let left := s.fromHead p tail
    let head := s.rd Fld.hptCmdHead_head p
    let h := s.headerAt p head
    if left < 16 then s
    else if h.length % 8 ≠ 0 ∨ 4080 < h.length then
      ((s.setHead p tail).refusePacket p h 0x20).wr Fld.hptStatus_cmdSync 1 p
    else if left < 16 + h.length then s
    else
      let pkt := { h with body := s.ringRead p (head + 16) h.length }
      ((s.setHead p (head + 16 + h.length)).takePacket p pkt).takeAll p n

/-- The write to `HPT_CMD_POST` (R388, R390). -/
def post (s : State) (p tail : Nat) : State :=
  if !s.barOpen p then s
  else
    let t := tail % 2 ^ 21
    if t % 8 ≠ 0 ∨ s.fromHead p t < s.fromHead p (s.port p).lastTail ∨ ringBytes < s.fromHead p t then s.wr Fld.hptStatus_postBad 1 p
    else (s.modPort p fun h => { h with lastTail := t }).takeAll p 65536

/-- The identification of a port's function (R377). -/
def pcieId (s : State) : PcieId :=
  { vendor := 0x1E9D, subVendor := 0x1E9D, cls := 0x120000, device := 0x8640, subsystem := if Config.isA32 then 0x0032 else 0x0064,
    revision := s.rd Fld.keyDie_version 0 1 / 2 ^ 16 % 256 }

/-! ### A port goes down (R415) -/

/-- The caller of a port that is no more: no reply reaches anyone (R415). -/
def leave (p : Nat) (c : Caller) : Caller := if c.port = p then { c with port := noPort, lines := 0 } else c
/-- A held command of a port that is no more. -/
def leaveHeld (p : Nat) (h : Option HeldCmd) : Option HeldCmd := h.map fun h => { h with who := leave p h.who }

/-- Step 1: the queues stop, commands not yet taken by firmware are discarded, the data link layer is down. -/
def stopQueues (s : State) (p : Nat) : State :=
  (s.wr Fld.hptStatus_linkUp 0 p).modPort p fun h => { h with cmdQ := [], serving := [], queues := [], reserved := 0 }

/-- Whether an object lives in T3 over port `p`, or moves there (R178). -/
def overPort (s : State) (p o : Nat) : Bool :=
  let e := (s.obj o).e
  (e.home == 3 || e.dest == 3) && (e.st == stResident || e.st == stMoving) && s.t3Port e == p

/-- Step 2: objects over the port become LOST, those the port owns in T1 pass to the device, its fetch legs end (R178).
Spans whose requests had pages there lose capacity (R311). -/
def dropObjects (s : State) (p : Nat) : State :=
  let gone := s.objNums.filter fun o => s.overPort p o
  let s := forEach gone (fun o t => (t.loseObj o).repeatHolders o) s
  let s := forEach s.objNums (fun o t => t.modObj o fun x =>
    { x with e := if x.e.owner = portIdent p then { x.e with owner := if x.e.home = 3 then portIdent noPort else 0 } else x.e,
             placing := leaveHeld p x.placing, place := leaveHeld p x.place, revoke := leaveHeld p x.revoke,
             revoking := leaveHeld p x.revoking }) s
  let s := forEach ((s.tier.legs ++ s.tier.legWait).filter fun l => l.tier == 3 && l.port == p) (fun l t => t.legFail l) s
  let s := forEach (((s.slots.filter fun e => e.2.st != 0 && e.2.t3 && gone.contains (e.2.pageObj - 1)).map (·.2.span)).dedup)
    (fun sp t => t.capacityLoss sp) s
  if gone.isEmpty then s else s.forceRelease 0x6 (portIdent p) gone.length noSpan

/-- Step 3: the port's requests are cancelled in its mode, waiting ones removed (R281); none of them belongs to a later host. -/
def dropRequests (s : State) (p : Nat) : State :=
  let mine := (s.slots.filter fun e => e.2.st != 0 && e.2.ident == portIdent p).map (·.1)
  let n := mine.length + (s.reqs.filter fun r => r.who.port == p).length
  let s := forEach mine (fun i t => t.cancelSlot i (t.flag Fld.hptCtrl_cancelMode p)) s
  let s := forEach mine (fun i t => t.modSlot i fun x => { x with ident := portIdent noPort }) s
  let s : State := { s with reqs := s.reqs.filter fun r => r.who.port != p,
                            leaving := s.leaving.filter fun e => e.2.ident != portIdent p }
  if n = 0 then s else s.forceRelease 0x4 (portIdent p) n noSpan

/-- Step 4: the shadow set, and a PTM source on the port (R283, R293). -/
def dropShared (s : State) (p : Nat) : State :=
  let n := s.shadow.length
  let s := if s.flag Fld.srvStatus_shadowHeld ∧ s.shadowOwner = portIdent p then s.dropShadow.forceRelease 0x5 (portIdent p) n noSpan else s
  let ptm := (List.range 3).any fun i => s.cadOrder i == 1
  if ptm ∧ s.rd Fld.cadCtrl_ptmPort = p then s.modCad fun c => { c with ptmFailed := true } else s

/-- Step 5: mailboxes and their locks, PORT_DOWN to the ports that asked for it (R387, R401, R422). -/
def dropMail (s : State) (p : Nat) : State :=
  let s := (s.mbxDown p).breakLocksOf (portIdent p) 2
  let s := s.modMbx fun x => { x with owed := x.owed.filter fun o => o.port != p }
  forEach s.portList (fun q t => if t.flag Fld.hptCtrl_peerNotice q then t.notice q 0x0C noSpan noSlot 0 noObject (portIdent p) else t) s

/-- Step 6: long operations go on without their owner (R408); what would go to the port is lost. -/
def orphanOps (s : State) (p : Nat) : State :=
  let s := forEach (SMap.keys s.ops) (fun i t => t.modOp i fun o =>
    { o with orphan := o.orphan || (o.live && o.who.port == p), who := leave p o.who, abort := o.abort.map (leave p) }) s
  let s := forEach (SMap.keys s.spans) (fun sp t => t.modSpan sp fun x => { x with swapPort := if x.swapPort = some p then none else x.swapPort }) s
  forEach (SMap.keys s.adapters) (fun k t => t.modAdapter (k / 65536) (k % 65536) fun a =>
    { a with vers := a.vers.map fun v => if v.port = p then { v with port := noPort } else v }) s

/-- The teardown of R415; before steward firmware runs there is nothing to tear down but the link. -/
def portGone (s : State) (p : Nat) : State :=
  if !s.running then s.stopQueues p
  else
    let s := if s.lull then s.wakeUp else s
    ((((((s.stopQueues p).dropObjects p).dropRequests p).dropShared p).dropMail p).orphanOps p).runJobs

/-- PORT_DOWN; PERST# in STILL is an exit from it (R450). -/
def portDown (s : State) (p : Nat) (cause : DownCause) : State :=
  if s.portUp p then s.portGone p
  else if s.still ∧ cause = .perst then s.requestReset .stillExit
  else s

/-! ### A port comes up (R416) -/

/-- The port's block, queues, windows and mailbox registers at their reset values. -/
def portReset (s : State) (p : Nat) : State :=
  let s : State := { s with regs := s.regs.filter fun e => !(e.1 / 2 ^ 24 == p + 1) }
  let s := s.modMbx fun x => { x with staging := x.staging.filter fun e => e.1 / 32 != portIdent p }
  s.modPort p fun _ => { crs := !s.running }

/-- A port trained to a speed and width serves a new host. -/
def bringUp (s : State) (p speed width : Nat) : State :=
  let s := s.portReset p
  let s := (s.wr Fld.hptId_speed speed p).wr Fld.hptId_width width p
  let s := (s.wr Fld.hptStatus_linkUp 1 p).wr Fld.hptStatus_ready (b2n s.running) p
  s.wr Fld.hptStatus_safe (b2n (s.running && s.safe)) p

/-- PORT_UP: a present port whose link has trained, outside a reset. -/
def linkUp (s : State) (p speed width : Nat) : State :=
  if s.portPresent p && !s.portUp p && s.key.inReset.isNone && !s.pwr.seatOpen && !s.still && 1 ≤ speed && speed ≤ 5 && 2 ≤ width && width ≤ 4 then
    s.bringUp p speed width
  else s

/-! ### D3hot and STILL (R450, R452, R453) -/

/-- Whether every present port stands in D3hot and no long operation runs. -/
def mayStill (s : State) : Bool :=
  (s.rd Fld.pwrStatus_state == 0 || s.lull) && s.running && (s.portList.all fun p => (s.port p).d3) && (s.ops.all fun e => !(e.2.live && e.2.st == 0))

/-- STILL entered: nothing but keystone and the auxiliary domain goes on. -/
def enterStill (s : State) : State :=
  let s := (s.saveReads.wr Fld.pwrStatus_state 2).modPwr fun x => { x with wdogAt := none }
  s.modKey fun k => { k with running := false }

/-- STILL entered when its condition holds. -/
def stillIf (s : State) : State := if s.mayStill then s.enterStill else s

/-- What the block does while no command waits: a tick of the 100 MHz reference (log entry 2), long operations go on, and STILL is
entered where it may be. -/
def tick (s : State) : State :=
  let s := s.after 10
  if s.running then s.runJobs.stillIf else s

/-- A port's power state. D3hot takes it down as R415 lays down; D0 serves a new host (R416), and in STILL starts the exit. -/
def powerState (s : State) (p : Nat) (d3 : Bool) : State :=
  if !s.portPresent p || (s.port p).d3 == d3 then s
  else if d3 then
    if s.portUp p then ((s.portGone p).modPort p fun h => { h with d3 := true }).stillIf else s
  else if s.still then (s.modPort p fun h => { h with d3 := false }).requestReset .stillExit
  else s.bringUp p (s.rd Fld.hptId_speed p) (s.rd Fld.hptId_width p)

end State

/-- COMMAND_POST (R390). -/
def execCommandPost (p : PortId) (tail : BitVec 32) (s : State) : Out := .next (s.post p tail.toNat)
/-- COMMAND_WINDOW_WRITE (R389). -/
def execCommandWindowWrite (p : PortId) (off : Nat) (data : List Byte) (s : State) : Out := .next (s.windowWrite p off data)
/-- BAD_ACCESS (R383). -/
def execBadAccess (p : PortId) (write : Bool) (s : State) : Out :=
  if s.barOpen p then
    .next ((onlyIf (!write) (fun s => s.deliver (portIdent p) 0) s).wr Fld.hptStatus_badAccess 1 p)
  else .next s
/-- PCIE_CONFIG_REQUEST (R377, R414): Request Retry Status, or the function's identification. -/
def execPcieConfigRequest (p : PortId) (s : State) : Out :=
  if s.portUp p then .next (s.modPort p fun h => { h with crsAnswer := h.crs, idAnswer := if h.crs then none else some s.pcieId }) else .next s
/-- POISONED_WRITE (R501): dropped, and reported as a Poisoned TLP. -/
def execPoisonedWrite (p : PortId) (s : State) : Out := if s.barOpen p then .next (s.aer p .poisonedTlp) else .next s
/-- PORT_DOWN (R415). -/
def execPortDown (p : PortId) (cause : DownCause) (s : State) : Out := .next (s.portDown p cause)
/-- PORT_UP (R416). -/
def execPortUp (p : PortId) (speed width : Nat) (s : State) : Out := .next (s.linkUp p speed width)
/-- PORT_POWER_STATE (R450, R453). -/
def execPortPowerState (p : PortId) (d3hot : Bool) (s : State) : Out := .next (s.powerState p d3hot)

end Sys2Proof.Machine
end

