-- ==== Sys2Proof/Machine/Serve.lean ====
section
/-!
DEFINITION. Steward firmware takes commands from the ports' queues (13, R395, R399).
-/
namespace Sys2Proof.Machine
namespace State

/-- What a command does once its header has passed, by its opcode (R402). An opcode that the table has not got never comes here. -/
def command (op : Nat) (c : Caller) (pkt : Packet) (s : State) : State :=
  match op with
  | 0x01 => s.final c 0x00 0 pkt.body
  | 0x02 => s.final c 0x00 0 (s.infoOf c.port)
  | 0x10 => s.modelLoad c pkt false
  | 0x11 => s.modelUnload c pkt
  | 0x12 => s.modelLoad c pkt true
  | 0x13 => s.adapterCmd c pkt false
  | 0x14 => s.adapterCmd c pkt true
  | 0x15 => s.adapterDrop c pkt
  | 0x20 => s.reqCreate c pkt
  | 0x21 => s.reqAppend c pkt
  | 0x22 => s.reqCancel c pkt
  | 0x23 => s.reqQuery c pkt
  | 0x30 => s.spanConfigure c pkt
  | 0x31 => s.configStage c pkt
  | 0x32 => s.configCommit c pkt
  | 0x40 => s.objRegister c pkt
  | 0x41 => s.objPlace c pkt
  | 0x42 => s.objRevoke c pkt
  | 0x50 => (s.flashWriteImage c pkt).runJobs
  | 0x51 => (s.flashErase c pkt).runJobs
  | 0x52 => (s.flashReadCmd c pkt).runJobs
  | 0x60 => s.trainStart c pkt
  | 0x70 => s.opSuspend c pkt
  | 0x71 => s.opResume c pkt
  | 0x72 => s.opAbort c pkt
  | 0x7F => s.opStatus c pkt
  | 0x80 => s.cadenceSet c pkt
  | 0x90 => s.powerSet c pkt
  | 0xA0 => s.fwUpdate c pkt
  | _ => s.fin c 0x20

/-- The next command of all ports: by priority, then receipt time, then port number (R395). -/
def nextCommand (s : State) : Option (Nat × CmdEntry) :=
  argMin (fun e => e.2.prio * 2 ^ 66 + e.2.stamp * 4 + e.1) (s.portList.flatMap fun p => (s.port p).cmdQ.map fun c => (p, c))

/-- A command leaves its queue. -/
def popCommand (s : State) (p : Nat) (e : CmdEntry) : State :=
  let n := (s.port p).cmdQ.length
  (s.modPort p fun h => { h with cmdQ := h.cmdQ.erase e }).crossed p 0 n (n - 1)

/-- Steward firmware takes the next command and serves it. What the read of its entry met is counted (R430); one with an uncorrectable word
is answered with 0x52 and its tag (R431). -/
def dispatch (s : State) (ecc : EccOutcome) : State :=
  match s.nextCommand with
  | none => s
  | some (p, e) =>
    if !s.serves p then s
    else
      let c := callerOf p e.pkt e.stamp
      let s := (s.popCommand p e).queueEcc p 0 ecc
      match ecc with
      | .uncorrectable _ _ => s.fin c 0x52
      | _ => s.serveFor c e.pkt (command e.pkt.opcode)

end State

/-- COMMAND_DISPATCH (R395). -/
def execCommandDispatch (ecc : EccOutcome) (s : State) : Out := .next (s.dispatch ecc)

end Sys2Proof.Machine
end

