-- ==== Sys2Proof/Machine/Registers.lean ====
section
/-!
DEFINITION. Register accesses (00_scope, R4, R6 to R9; 13, R381 to R387; 15, R465; 18, R523 to R527): what each register reads as, what a
write does by its access code, what a read clears, the MSI-X table, and the windows of BAR2.
-/
namespace Sys2Proof.Machine

/-- The bits that an access of 4 or 8 bytes at `off` covers in its slot (R524). -/
def byteMask (off size : Nat) : Nat := if size = 8 then 2 ^ 64 - 1 else (2 ^ 32 - 1) <<< (if off % 8 = 4 then 32 else 0)
/-- A written value placed in its slot. -/
def placed (off size v : Nat) : Nat := if size = 8 then v % 2 ^ 64 else (v % 2 ^ 32) <<< (if off % 8 = 4 then 32 else 0)
/-- Whether an access is naturally aligned and of 4 or 8 bytes (R383). -/
def aligned (off size : Nat) : Bool := (size == 4 && off % 4 == 0) || (size == 8 && off % 8 == 0)

/-- `a` with the bits of mask `m` taken from `b`. -/
def blend (a b m : Nat) : Nat := a - (a &&& m) + (b &&& m)

/-- A register's word after a write of `v` to the bits of mask `be`, by the access codes of its fields (R6): RW fields take the value,
W1C fields lose the ones written, W1S fields gain them; every other field stays. -/
def Reg.written (r : Reg) (old v be : Nat) : Nat :=
  let rw := fieldMask r.fields (· == .rw) &&& be
  let w1c := fieldMask r.fields (· == .w1c) &&& be
  let w1s := fieldMask r.fields (· == .w1s) &&& be
  let x := blend old v rw
  (x - (x &&& (v &&& w1c))) ||| (v &&& w1s)

/-- An exponent held from 8 to 20 (R122, R180). -/
def clampExp (v : Nat) : Nat := max 8 (min 20 v)

/-- What the meaning of single fields makes of a written word: exponents clamped, a coalescing window of 0 set to 1, mode 3 of
`QUE_CFG` dropped, the reserved mode 3 of `CEL_CTRL` not taken. -/
def Reg.settled (r : Reg) (old new : Nat) : Nat :=
  match r with
  | .poolCfg => blend new (clampExp (nbits new 12 8) * 2 ^ 8) (0x1F * 2 ^ 8)
  | .tieScrub => blend new (clampExp (nbits new 12 8) * 2 ^ 8) (0x1F * 2 ^ 8)
  | .queCfg =>
    let new := if nbits new 25 16 = 0 then new + 2 ^ 16 else new
    if nbits new 1 0 = 3 then blend new old 3 else new
  | .celCtrl => if nbits new 3 2 = 3 then blend new old 0xC else new
  | _ => new

/-- Whether a register belongs to the keystone block (R465). -/
def inKeystone (off : Nat) : Bool := off % 2 ^ 24 < 0x10000

namespace State

/-! ### Registers that read what the machine knows -/

/-- Whether the domain that holds a cell's registers is powered; `CEL_ID` and `CEL_STATUS` answer always (R527). -/
def cellAnswers (s : State) (h : Hit) : Bool := h.reg == .celId || h.reg == .celStatus || s.cellOn h.n

/-- Slots in use that hold for a test. -/
def slotCount (s : State) (f : Slot → Bool) : Nat := (s.slots.filter fun e => e.2.st != 0 && f e.2).length

/-- Requests in PENDING for a span of a class; a routed one counts for every span that could take it. -/
def pendingFor (s : State) (sp cls : Nat) : Nat :=
  (s.reqs.filter fun r => r.st == 1 && r.par.cls == cls && (r.span == sp || (r.span == 0xFF && (s.spansFor r.span r.modelId).contains sp))).length

/-- Completions of `FLC_DONE`. -/
def doneHead (s : State) : Nat := match s.flash.done with
  | [] => 0
  | c :: _ => c.word.toNat

/-- `IMG_LIB[i]`: state 5 stands for UNAVAILABLE (R231). -/
def imgLibWord (s : State) (i : Nat) : Nat :=
  let e := s.lib i
  (if e.st ≠ 0 ∧ !s.libServes then 5 else e.st) * 2 ^ 61 + s.imgReaders i % 256 * 2 ^ 48 + e.first % 512 * 2 ^ 32 +
    e.units % 512 * 2 ^ 16 + e.gen % 65536

/-- `SRV_SPAN_BATCH[s]`. -/
def batchWord (s : State) (sp : Nat) : Nat :=
  let x := s.span sp
  let b := match x.batch with
    | none => 0
    | some b => b.chunk * 2 ^ 20 + b.rows.length * 2 ^ 10 + b.seqs
  b2n x.admitStop * 2 ^ 31 + b2n x.paused * 2 ^ 30 + b

/-- `KVW_POOL[s]`. -/
def poolWord (s : State) (sp : Nat) : Nat :=
  let l := (s.span sp).pools
  let t := (l.map fun e => e.2.total).sum
  t * 2 ^ 32 + (t - (l.map fun e => e.2.used.length).sum)

/-- `FLC_RESERVE[d]`. -/
def reserveWord (s : State) (d : Nat) : Nat :=
  s.flash.retired.length * 2 ^ 24 + (s.flash.bad.filter fun b => b.die == d && b.cause != 0).length * 2 ^ 12 +
    ((List.range 64).map fun k => (s.spareOf d k).length).sum

/-- What a register reads as before its WO fields are blanked: the computed value of those that report other state, else the stored
word. -/
def value (s : State) (h : Hit) : Nat :=
  let raw := (s.reg h.reg h.n h.i).toNat
  match h.reg with
  | .hptId => blend raw (s.straps.toNat * 2 ^ 10) (3 * 2 ^ 10)
  | .hptPerm => (s.reg .keyPerm 0 h.n).toNat % 16
  | .mshInflight => min 256 (s.inFlight h.i)
  | .mshInflightTie => s.issuedUsed * 2 ^ 16 + s.legsUsed
  | .tieStatus => raw + b2n (s.dirFree == 0) + 4 * b2n (s.tier.objs.any fun e => e.2.e.st == stRevoking || e.2.revoke.isSome)
  | .tieDirFree => s.dirFree
  | .flcStatus => raw + b2n s.flashBusy
  | .flcLimits => (s.reg .keyFlashLim).toNat
  | .flcDone => s.doneHead
  | .flcQueue => s.flash.done.length * 2 ^ 16 + s.flashQueued
  | .flcReserve => s.reserveWord h.i
  | .flcJournal => SMap.get 0 s.flash.jpos h.i
  | .imgLibFree => ((List.range 64).filter fun i => (s.lib i).st != 0).length * 2 ^ 16 +
      ((List.range Config.flashUnits).filter fun u => !s.unitTaken u).length
  | .imgSpan => blend raw (s.slotCount fun x => x.span == h.i && x.old) 0xFFFF
  | .imgLib => s.imgLibWord h.i
  | .srvSlotsFree => 4096 - s.slotCount fun _ => true
  | .srvPortReq => (s.reqs.filter fun r => r.who.port == h.i).length * 2 ^ 16 + s.slotCount fun x => x.ident == portIdent h.i
  | .srvSpanBatch => s.batchWord h.i
  | .srvSpanQueue => s.pendingFor h.i 3 * 2 ^ 48 + s.pendingFor h.i 2 * 2 ^ 32 + s.pendingFor h.i 1 * 2 ^ 16 + s.pendingFor h.i 0
  | .cadNow => s.cadNow
  | .kvwPool => s.poolWord h.i
  | .mbxState => s.mbxState h.i
  | .queLevel => s.queLevel h.n h.i
  | .queNext => s.queNext h.n h.i
  | .keyWdog => blend raw s.wdogLeft 0xFFFF
  | .pwrStatus => s.pwrStatusWord.toNat
  | .pwrDom => s.pwrDom h.i
  | _ => raw

/-- What a read returns: WO fields and reserved bits zero (R4, R6), a gated cell's block zero (R527), a port that the straps absorb
zero (R379). -/
def readHit (s : State) (h : Hit) : Nat :=
  if h.reg.place.scope = .cell ∧ !s.cellAnswers h then 0
  else if h.reg.place.scope = .port ∧ !s.portPresent h.n then 0
  else s.value h &&& fieldMask h.reg.fields (· != .wo)

/-! ### MSI-X and BAR2 (R381, R385, R419, R436) -/

/-- Whether an offset lies in the MSI-X table. -/
def inMsix (off : Nat) : Bool := 0xF00000 ≤ off && off < 0xF00400

/-- A word of the MSI-X table: address, or data with the vector control, whose bit 0 is the mask. -/
def msixWord (s : State) (p off : Nat) : Nat :=
  let h := s.port p
  let k := (off - 0xF00000) / 8
  if k % 2 = 0 then (SMap.get 0 h.msixTable k).toNat
  else blend (SMap.get 0 h.msixTable k).toNat (b2n (bit h.msixMask (k / 2)) * 2 ^ 32) (2 ^ 32)

/-- A write to the MSI-X table: clearing a mask sends what was pending. -/
def msixWrite (s : State) (p off size v : Nat) : State :=
  let k := (off - 0xF00000) / 8
  let w := blend (s.msixWord p off) (placed off size v) (byteMask off size)
  let s := s.modPort p fun h => { h with msixTable := SMap.put 0 h.msixTable k (BitVec.ofNat 64 (if k % 2 = 0 then w else w % 2 ^ 32)) }
  if k % 2 = 0 then s
  else
    let m := k / 2
    let mask := w.testBit 32
    let s := s.modPort p fun h => { h with msixMask := setBits h.msixMask m m (b2n mask) }
    if !mask && bit (s.port p).msixPba m then
      (s.modPort p fun h => { h with msixPba := setBits h.msixPba m m 0 }).fire p m
    else s

/-- A byte of a queue window: 16 slots of 4 KiB, and the sequence words at 0x1_0000 (R436). -/
def queueByte (s : State) (p k off : Nat) : Byte :=
  let q := s.queue p k
  if off < 0x10000 then
    match q.head.find? fun e => e.1 == off / 0x1000 with
    | some (_, e) => (e.bytes[off % 0x1000]?).getD 0
    | none => 0
  else if off < 0x10080 then
    match q.head.find? fun e => e.1 == (off - 0x10000) / 8 with
    | some (_, e) => BitVec.ofNat 8 (e.seq / 256 ^ (off % 8))
    | none => 0
  else 0

/-- A byte of the page of mailbox `m`: the staging buffer, and the delivery view (R419). -/
def mailByte (s : State) (w m off : Nat) : Byte :=
  if off < 0x40 then ((s.staging w m)[off]?).getD 0
  else if off < 0x80 ∧ (s.box m).full ∧ s.receiver m = w then ((s.box m).msg[off - 0x40]?).getD 0
  else 0

/-- A byte of BAR2 of port `p` (R381). The command window has no read; it reads zero. -/
def windowRead (s : State) (p off : Nat) : Byte :=
  if off < 0x100000 then 0
  else if off < 0x200000 then s.queueByte p 1 (off - 0x100000)
  else if off < 0x400000 then s.queueByte p (2 + (off - 0x200000) / 0x20000) ((off - 0x200000) % 0x20000)
  else if off < 0x420000 then s.mailByte (portIdent p) ((off - 0x400000) / 0x1000) (off % 0x1000)
  else 0

/-- One byte written into a staging buffer of identity `w` (R419). -/
def stageByte (s : State) (w m off : Nat) (b : Byte) : State :=
  if 8 ≤ off ∧ off < 0x40 then
    s.modMbx fun x => { x with staging := SMap.put [] x.staging (w * 32 + m) (modAt (fun _ => b) off (slice (SMap.get [] x.staging (w * 32 + m)) 0 64)) }
  else s

/-- A write to BAR2: the command window and the staging buffers take it, everything else drops it (R381, R382). An internal sender
reaches its own staging buffers at the same offsets. -/
def bar2Write (s : State) (w off : Nat) (l : List Byte) : State :=
  if off < 0x100000 then (if isPort w then s.windowWrite (w - 1) off l else s)
  else if 0x400000 ≤ off ∧ off < 0x420000 then
    forEach l.zipIdx (fun e t => t.stageByte w ((off - 0x400000) / 0x1000) (off % 0x1000 + e.2) e.1) s
  else s

/-! ### Writes -/

/-- A write by the access codes alone. -/
def plainWrite (s : State) (h : Hit) (v be : Nat) : State :=
  let old := (s.reg h.reg h.n h.i).toNat
  s.setReg h.reg h.n h.i (BitVec.ofNat 64 (h.reg.settled old (h.reg.written old v be)))

/-- A write to a `KEY_` register (R465 to R467, R7): by keystone as the access codes say, a locked RWL field and a WO1 field being
violations; by anyone else a violation. -/
def keyWrite (s : State) (w off v be : Nat) : State :=
  match regAt 4 off with
  | none => s.hostDeny w
  | some h =>
    if !isKeystone w then s.keyViol w off
    else if h.reg == .keySlot || h.reg == .keySlotRev then
      (if (s.reg h.reg h.n h.i).toNat = 0 ∧ v &&& be &&& h.reg.mask = 0 then s else s.keyViol w off)
    else if fieldMask h.reg.fields (· == .rwl) &&& be != 0 then
      (if s.flag Fld.keyLock_lock then s.keyViol w off
       else
        let old := (s.reg h.reg h.n h.i).toNat
        s.setReg h.reg h.n h.i (BitVec.ofNat 64 (blend old v (fieldMask h.reg.fields (· == .rwl) &&& be))))
    else s.plainWrite h v be

/-- The descriptor held in `FLC_OP`. -/
def flcDescriptor (s : State) : Inst256 :=
  BitVec.ofNat 256 ((List.range 4).map fun i => (s.reg .flcOp 0 i).toNat * 2 ^ (64 * i)).sum

/-- A write to a register of a cell's block by steward firmware or keystone; a gated block drops it (R527). The mode and the side-path enable of
`CEL_CTRL` are steward firmware's alone (R98). -/
def cellWrite (s : State) (w : Nat) (h : Hit) (v be : Nat) : State :=
  let low := be % 2 ^ 32 != 0
  let n := h.n
  if !s.cellOn n then s
  else match h.reg with
  | .celStart => if low then s.startStream n (v % 2 ^ 32) else s
  | .celRngSeed => if low then s.modCell n fun c => { c with rng := seedRng (BitVec.ofNat 32 v) } else s
  | .hndLo => s.installHandle n h.i (BitVec.ofNat 64 (blend (s.reg .hndLo n h.i).toNat v be))
  | .hndHi =>
    let old := (SMap.get none (s.cell n).hiStage h.i).getD (s.reg .hndHi n h.i)
    s.modCell n fun c => { c with hiStage := SMap.put none c.hiStage h.i (some (BitVec.ofNat 64 (blend old.toNat v be))) }
  | .celCtrl =>
    let s := s.plainWrite h v (if isSteward w then be else be - (be &&& 0x1C))
    if (v &&& be).testBit 7 then s.requestStop n else s
  | _ => s.plainWrite h v be

/-- A write by steward firmware or keystone to a register outside the keystone block. The port blocks are the ports' own; the doorbells,
taken bits and errors of an internal party are its own (R427). -/
def insideWrite (s : State) (w : Nat) (h : Hit) (v be : Nat) : State :=
  let x := v &&& be
  let low := be % 2 ^ 32 != 0
  let drop := fun (m : SMap Nat) => SMap.put 0 m w (SMap.get 0 m w - (SMap.get 0 m w &&& x))
  match h.reg with
  | .mbxDb => s.modMbx fun y => { y with intDb := drop y.intDb }
  | .mbxTaken => s.modMbx fun y => { y with intTaken := drop y.intTaken }
  | .mbxPerr => s.modMbx fun y => { y with intPerr := drop y.intPerr }
  | .mbxLock => if low then s.lockWrite w h.i (x % 256) else s
  | .mbxSend => if x.testBit 0 then s.mail w h.i else s
  | .mbxTake => if x.testBit 0 then s.take w h.i else s
  | .mbxLockBreak => if isKeystone w && low then s.breakLock (x % 32) 1 else s
  | .flcClk => if low then s.writeClk (x % 2 ^ 32) else s
  | .flcWait => if low then s.writeWait (x % 2 ^ 32) else s
  | .flcOpGo => if x.testBit 0 then s.flashGo w s.flcDescriptor else s
  | .pwrWdogFeed => if low then s.feed w (x % 2 ^ 32) else s
  | _ =>
    match h.reg.place.scope with
    | .cell => s.cellWrite w h v be
    | .shared => s.plainWrite h v be
    | .port => s

/-- Whether a host may write a register of its blocks (R384). -/
def hostWrites (r : Reg) : Bool := r.place.scope == .port || r == .mbxLock || r == .mbxSend || r == .mbxTake

/-- A host's write to a register of its own `HPT_`, `MBX_` or `QUE_` block. -/
def ownWrite (s : State) (p : Nat) (h : Hit) (v be : Nat) : State :=
  let x := v &&& be
  let low := be % 2 ^ 32 != 0
  let w := portIdent p
  match h.reg with
  | .mbxLock => if low then s.lockWrite w h.i (x % 256) else s
  | .mbxSend => if x.testBit 0 then s.mail w h.i else s
  | .mbxTake => if x.testBit 0 then s.take w h.i else s
  | .mbxDbMask => if low then s.maskWrite p (x % 2 ^ 32) else s
  | .hptCmdPost => if low then s.post p (x % 2 ^ 21) else s
  | .hptCtrl =>
    let s := s.plainWrite h v be
    if s.perm p 3 then s else s.wr Fld.hptCtrl_peerNotice 0 p
  | .queConsume => if low then s.consumeWrite p h.i (x % 2 ^ 32) else s
  | .queFlush => if low then s.flushWrite p x else s
  | _ => s.plainWrite h v be

/-- Whether an offset lies in the views of R387, which nobody writes. -/
def inViews (off : Nat) : Bool := 0x21000 ≤ off && off < 0x25000

/-- A host's write to BAR0 (R382 to R384). -/
def hostWrite (s : State) (p off size v : Nat) : State :=
  let w := portIdent p
  if !aligned off size then s.wr Fld.hptStatus_badAccess 1 p
  else if inMsix off then s.msixWrite p off size v
  else if inKeystone off then s.keyWrite w off (placed off size v) (byteMask off size)
  else match regAt p off with
    | none => s.hostDeny w
    | some h => if inViews off || !hostWrites h.reg then s.hostDeny w else s.ownWrite p h (placed off size v) (byteMask off size)

/-- A written value without the W1C bits on which a hardware event of the same cycle falls: they stay set (R8). `meets` stands in the register's
slot. -/
def unmet (w off size v meets : Nat) : Nat :=
  match (if off < 2 ^ 24 then regAt (if isPort w then w - 1 else 4) off else none) with
  | none => v
  | some h =>
    let m := (meets &&& fieldMask h.reg.fields (· == .w1c)) >>> (if size = 4 ∧ off % 8 = 4 then 32 else 0)
    v - (v &&& m)

/-- A register write (R6), by a host through its BARs (offsets from 0x100_0000 are those of BAR2), or from inside the device. A cell
writes no register; its write to a `KEY_` register is a violation. -/
def regWrite (s : State) (w off size v : Nat) : State :=
  if isPort w && !s.barOpen (w - 1) then s
  else if 2 ^ 24 ≤ off then s.bar2Write w (off - 2 ^ 24) (leBytes (min 8 size) v)
  else if isPort w then s.hostWrite (w - 1) off size v
  else if !aligned off size then s
  else if inKeystone off then s.keyWrite w off (placed off size v) (byteMask off size)
  else if isSteward w || isKeystone w then
    match regAt 4 off with
    | some h => if inViews off then s else s.insideWrite w h (placed off size v) (byteMask off size)
    | none => s
  else s

/-! ### Reads -/

/-- The RC fields that lie wholly within the bytes of a read, cleared (R6, R525). -/
def readClears (s : State) (h : Hit) (be : Nat) : State :=
  let m := h.reg.fields.foldl (fun a f =>
    let k := (2 ^ (f.hi + 1 - f.lo) - 1) * 2 ^ f.lo
    if f.acc == .rc && k &&& be == k then a + k else a) 0
  if m = 0 then s else s.setReg h.reg h.n h.i (BitVec.ofNat 64 (blend (s.reg h.reg h.n h.i).toNat 0 m))

/-- Whether a port's permissions withhold a read: another port's view without the diagnostics permission (R387). -/
def withheld (s : State) (p off : Nat) : Bool := inViews off && off / 0x1000 != 0x21 + p && !s.perm p 3

/-- The side effect of a read of a register (R382): the value read, and the state after it. -/
def readEffect (s : State) (w : Nat) (h : Hit) (off size : Nat) : Nat × State :=
  let be := byteMask off size
  let v := (s.readHit h &&& be) >>> (if size = 4 && off % 8 = 4 then 32 else 0)
  match h.reg with
  | .mbxLock => if be % 2 ^ 32 != 0 then s.lockRead w h.i else (v, s)
  | .flcDone => (v, if be.testBit 63 then s.popDone.2 else s)
  | .cadNow =>
    if !isPort w || size = 8 then (v, s)
    else if off % 8 = 0 then (v, s.modPort (w - 1) fun x => { x with cadLatch := some (s.cadNow / 2 ^ 32) })
    else (((s.port (w - 1)).cadLatch).getD v, s.modPort (w - 1) fun x => { x with cadLatch := none })
  | r => if r.place.scope = .cell ∧ !s.cellAnswers h then (v, s) else (v, s.readClears h be)

/-- A host's read of BAR0 (R382 to R384). -/
def hostRead (s : State) (p off size : Nat) : Nat × State :=
  if !aligned off size then (0, s.wr Fld.hptStatus_badAccess 1 p)
  else if inMsix off then ((s.msixWord p off &&& byteMask off size) >>> (if size = 4 && off % 8 = 4 then 32 else 0), s)
  else if off / 8 = 0xF01000 / 8 then (((s.port p).msixPba.toNat &&& byteMask off size) >>> (if size = 4 && off % 8 = 4 then 32 else 0), s)
  else if s.withheld p off then (0, s.hostDeny (portIdent p))
  else match regAt p off with
    | none => (0, s)
    | some h => s.readEffect (portIdent p) h off size

/-- A register read: its value goes to the port that read. An offset from 0x100_0000 reads BAR2, without any effect. -/
def regRead (s : State) (w off size : Nat) : State :=
  if isPort w then
    if !s.barOpen (w - 1) then s
    else if 2 ^ 24 ≤ off then
      s.deliver w (ofLe ((List.range (min 8 size)).map fun i => s.windowRead (w - 1) (off - 2 ^ 24 + i)))
    else
      let r := s.hostRead (w - 1) off size
      r.2.deliver w r.1
  else if 2 ^ 24 ≤ off ∨ !aligned off size then s
  else match regAt 4 off with
    | some h => if h.n < 4 ∨ h.reg.place.scope ≠ .port then (s.readEffect w h off size).2 else s
    | none => s

end State

/-- REGISTER_WRITE (R6, R8, R382 to R384). -/
def execRegisterWrite (writer : Ident) (off size : Nat) (data : RegData) (s : State) : Out :=
  .next (s.regWrite writer.toNat off size (State.unmet writer.toNat off size data.value.toNat data.meets.toNat))
/-- READ_CLEAR (R9, R525). -/
def execReadClear (reader : Ident) (off size : Nat) (s : State) : Out := .next (s.regRead reader.toNat off size)
/-- FLC_DONE_READ (R199): an 8-byte read of `FLC_DONE`. -/
def execFlcDoneRead (reader : Ident) (s : State) : Out := .next (s.regRead reader.toNat 0x80068 8)
/-- CAD_NOW_READ (R382): a 4-byte read of the low half of `CAD_NOW`. -/
def execCadNowRead (reader : Ident) (s : State) : Out := .next (s.regRead reader.toNat 0x60018 4)
/-- KEY_REGISTER_WRITE (R465): an 8-byte write to the keystone block, a host's through its open BAR. -/
def execKeyRegisterWrite (writer : Ident) (off : Nat) (value : Word) (s : State) : Out :=
  let w := writer.toNat
  if !inKeystone off || 2 ^ 24 ≤ off || (isPort w && !s.barOpen (w - 1)) then .next s
  else .next (s.keyWrite w off value.toNat (2 ^ 64 - 1))

end Sys2Proof.Machine
end

