-- ==== Sys2Proof/Machine/Dispatch.lean ====
section
/-!
DEFINITION. The dispatch of commands: one arm per row of the opcode table, each one direct call of the row's meaning.
-/
namespace Sys2Proof.Machine

/-- The effect of a command on the state, everything but the queue of waiting commands. -/
def exec (i : Instr) (s : State) : Host.Outcome State Fault Refusal :=
  match i with
  | .echo p pkt => Sys2Proof.Machine.execEcho p pkt s
  | .getInfo p pkt => Sys2Proof.Machine.execGetInfo p pkt s
  | .modelLoad p pkt => Sys2Proof.Machine.execModelLoad p pkt s
  | .modelUnload p pkt => Sys2Proof.Machine.execModelUnload p pkt s
  | .modelSwap p pkt => Sys2Proof.Machine.execModelSwap p pkt s
  | .adapterLoad p pkt => Sys2Proof.Machine.execAdapterLoad p pkt s
  | .adapterReplace p pkt => Sys2Proof.Machine.execAdapterReplace p pkt s
  | .adapterDrop p pkt => Sys2Proof.Machine.execAdapterDrop p pkt s
  | .reqCreate p pkt => Sys2Proof.Machine.execReqCreate p pkt s
  | .reqAppend p pkt => Sys2Proof.Machine.execReqAppend p pkt s
  | .reqCancel p pkt => Sys2Proof.Machine.execReqCancel p pkt s
  | .reqQuery p pkt => Sys2Proof.Machine.execReqQuery p pkt s
  | .spanConfigure p pkt => Sys2Proof.Machine.execSpanConfigure p pkt s
  | .configStage p pkt => Sys2Proof.Machine.execConfigStage p pkt s
  | .configCommit p pkt => Sys2Proof.Machine.execConfigCommit p pkt s
  | .objRegister p pkt => Sys2Proof.Machine.execObjRegister p pkt s
  | .objPlace p pkt => Sys2Proof.Machine.execObjPlace p pkt s
  | .objRevoke p pkt => Sys2Proof.Machine.execObjRevoke p pkt s
  | .flashWriteImage p pkt => Sys2Proof.Machine.execFlashWriteImage p pkt s
  | .flashErase p pkt => Sys2Proof.Machine.execFlashErase p pkt s
  | .flashRead p pkt => Sys2Proof.Machine.execFlashRead p pkt s
  | .trainStart p pkt => Sys2Proof.Machine.execTrainStart p pkt s
  | .opSuspend p pkt => Sys2Proof.Machine.execOpSuspend p pkt s
  | .opResume p pkt => Sys2Proof.Machine.execOpResume p pkt s
  | .opAbort p pkt => Sys2Proof.Machine.execOpAbort p pkt s
  | .opStatus p pkt => Sys2Proof.Machine.execOpStatus p pkt s
  | .cadenceSet p pkt => Sys2Proof.Machine.execCadenceSet p pkt s
  | .powerSet p pkt => Sys2Proof.Machine.execPowerSet p pkt s
  | .fwUpdate p pkt => Sys2Proof.Machine.execFwUpdate p pkt s
  | .commandPost p tail => Sys2Proof.Machine.execCommandPost p tail s
  | .commandWindowWrite p off data => Sys2Proof.Machine.execCommandWindowWrite p off data s
  | .commandDispatch ecc => Sys2Proof.Machine.execCommandDispatch ecc s
  | .badAccess p write => Sys2Proof.Machine.execBadAccess p write s
  | .registerWrite writer off size data => Sys2Proof.Machine.execRegisterWrite writer off size data s
  | .readClear reader off size => Sys2Proof.Machine.execReadClear reader off size s
  | .flcDoneRead reader => Sys2Proof.Machine.execFlcDoneRead reader s
  | .cadNowRead reader => Sys2Proof.Machine.execCadNowRead reader s
  | .keyRegisterWrite writer off value => Sys2Proof.Machine.execKeyRegisterWrite writer off value s
  | .pcieConfigRequest p => Sys2Proof.Machine.execPcieConfigRequest p s
  | .poisonedWrite p => Sys2Proof.Machine.execPoisonedWrite p s
  | .portDown p cause => Sys2Proof.Machine.execPortDown p cause s
  | .portUp p speed width => Sys2Proof.Machine.execPortUp p speed width s
  | .portPowerState p d3hot => Sys2Proof.Machine.execPortPowerState p d3hot s
  | .mbxSend writer m => Sys2Proof.Machine.execMbxSend writer m s
  | .mbxTake writer m => Sys2Proof.Machine.execMbxTake writer m s
  | .mbxLockRead reader m => Sys2Proof.Machine.execMbxLockRead reader m s
  | .mbxLockRelease writer m value => Sys2Proof.Machine.execMbxLockRelease writer m value s
  | .mbxLockBreak m cause => Sys2Proof.Machine.execMbxLockBreak m cause s
  | .mbxHoldExpiry m => Sys2Proof.Machine.execMbxHoldExpiry m s
  | .mbxDbMaskWrite p mask => Sys2Proof.Machine.execMbxDbMaskWrite p mask s
  | .ping p => Sys2Proof.Machine.execPing p s
  | .state p => Sys2Proof.Machine.execState p s
  | .unknownMessageType p => Sys2Proof.Machine.execUnknownMessageType p s
  | .mgmtAnswerTimeout p => Sys2Proof.Machine.execMgmtAnswerTimeout p s
  | .queConsume p k seq => Sys2Proof.Machine.execQueConsume p k seq s
  | .queFlush p value => Sys2Proof.Machine.execQueFlush p value s
  | .flushApply p k => Sys2Proof.Machine.execFlushApply p k s
  | .headFill p k ecc => Sys2Proof.Machine.execHeadFill p k ecc s
  | .coalesceWindowExpiry p k => Sys2Proof.Machine.execCoalesceWindowExpiry p k s
  | .pacedRelease slot => Sys2Proof.Machine.execPacedRelease slot s
  | .nop n => Sys2Proof.Machine.execNop n s
  | .stop n => Sys2Proof.Machine.execStop n s
  | .branch n handle off => Sys2Proof.Machine.execBranch n handle off s
  | .countedLoop n start count => Sys2Proof.Machine.execCountedLoop n start count s
  | .signal n c => Sys2Proof.Machine.execSignal n c s
  | .wait n c => Sys2Proof.Machine.execWait n c s
  | .reset n c => Sys2Proof.Machine.execReset n c s
  | .rearm n c => Sys2Proof.Machine.execRearm n c s
  | .move n c => Sys2Proof.Machine.execMove n c s
  | .matrixInstruction n c => Sys2Proof.Machine.execMatrixInstruction n c s
  | .matrixComplete n => Sys2Proof.Machine.execMatrixComplete n s
  | .sidePathInstruction n c => Sys2Proof.Machine.execSidePathInstruction n c s
  | .vectorInstruction n c => Sys2Proof.Machine.execVectorInstruction n c s
  | .arrayParityError n => Sys2Proof.Machine.execArrayParityError n s
  | .celStart writer n value => Sys2Proof.Machine.execCelStart writer n value s
  | .stopReq writer n => Sys2Proof.Machine.execStopReq writer n s
  | .celRngSeedWrite writer n seed => Sys2Proof.Machine.execCelRngSeedWrite writer n seed s
  | .hndHiWrite writer n h value => Sys2Proof.Machine.execHndHiWrite writer n h value s
  | .hndLoWrite writer n h value => Sys2Proof.Machine.execHndLoWrite writer n h value s
  | .poolScrubRead n ecc => Sys2Proof.Machine.execPoolScrubRead n ecc s
  | .moveComplete n m => Sys2Proof.Machine.execMoveComplete n m s
  | .fetchLegComplete leg ns poisoned => Sys2Proof.Machine.execFetchLegComplete leg ns poisoned s
  | .flitCrcFail n dir => Sys2Proof.Machine.execFlitCrcFail n dir s
  | .waitNotification r => Sys2Proof.Machine.execWaitNotification r s
  | .waiterRegistrationRetry r => Sys2Proof.Machine.execWaiterRegistrationRetry r s
  | .objectMoveEnd o => Sys2Proof.Machine.execObjectMoveEnd o s
  | .eviction obj tier => Sys2Proof.Machine.execEviction obj tier s
  | .dramPatrolRead ch ecc => Sys2Proof.Machine.execDramPatrolRead ch ecc s
  | .channelCopyDone => Sys2Proof.Machine.execChannelCopyDone s
  | .t3CompletionTimeout leg => Sys2Proof.Machine.execT3CompletionTimeout leg s
  | .read writer w => Sys2Proof.Machine.execRead writer w s
  | .readRaw writer w => Sys2Proof.Machine.execReadRaw writer w s
  | .markCheck writer w => Sys2Proof.Machine.execMarkCheck writer w s
  | .program writer w => Sys2Proof.Machine.execProgram writer w s
  | .erase writer w => Sys2Proof.Machine.execErase writer w s
  | .paramRead writer w => Sys2Proof.Machine.execParamRead writer w s
  | .paramProgram writer w => Sys2Proof.Machine.execParamProgram writer w s
  | .paramErase writer w => Sys2Proof.Machine.execParamErase writer w s
  | .relocate writer w => Sys2Proof.Machine.execRelocate writer w s
  | .dieReset writer w => Sys2Proof.Machine.execDieReset writer w s
  | .flcClkWrite writer value => Sys2Proof.Machine.execFlcClkWrite writer value s
  | .flcWaitWrite writer value => Sys2Proof.Machine.execFlcWaitWrite writer value s
  | .flcClockSwitch => Sys2Proof.Machine.execFlcClockSwitch s
  | .arrayReadDone d k o => Sys2Proof.Machine.execArrayReadDone d k o s
  | .planeSuspend d p => Sys2Proof.Machine.execPlaneSuspend d p s
  | .planeResume d k => Sys2Proof.Machine.execPlaneResume d k s
  | .programVerifyPass d p => Sys2Proof.Machine.execProgramVerifyPass d p s
  | .eraseVerifyPass d p => Sys2Proof.Machine.execEraseVerifyPass d p s
  | .pulseLimitReached d k => Sys2Proof.Machine.execPulseLimitReached d k s
  | .operationCut d k => Sys2Proof.Machine.execOperationCut d k s
  | .readCountSave => Sys2Proof.Machine.execReadCountSave s
  | .relayPacket sp role obj t => Sys2Proof.Machine.execRelayPacket sp role obj t s
  | .tokenizeDone p tag tokens replaced => Sys2Proof.Machine.execTokenizeDone p tag tokens replaced s
  | .stepBoundary sp env => Sys2Proof.Machine.execStepBoundary sp env s
  | .stepEnd sp r => Sys2Proof.Machine.execStepEnd sp r s
  | .appendAck sp row layer => Sys2Proof.Machine.execAppendAck sp row layer s
  | .labMissFill sp slot layer line parityBad => Sys2Proof.Machine.execLabMissFill sp slot layer line parityBad s
  | .admWaitExpiry p tag => Sys2Proof.Machine.execAdmWaitExpiry p tag s
  | .parkLimitExpiry slot => Sys2Proof.Machine.execParkLimitExpiry slot s
  | .epochReadbackTimeout die again => Sys2Proof.Machine.execEpochReadbackTimeout die again s
  | .trainStep op o => Sys2Proof.Machine.execTrainStep op o s
  | .cadenceEdge src dt deckDiff => Sys2Proof.Machine.execCadenceEdge src dt deckDiff s
  | .periodTimeout deckDiff => Sys2Proof.Machine.execPeriodTimeout deckDiff s
  | .holdoverEntry => Sys2Proof.Machine.execHoldoverEntry s
  | .acquireTimeout => Sys2Proof.Machine.execAcquireTimeout s
  | .holdoverExpiry => Sys2Proof.Machine.execHoldoverExpiry s
  | .ptmSourceFail => Sys2Proof.Machine.execPtmSourceFail s
  | .powerMeasurement mainMv auxMv nowDw tenMsDw avgDw clock10 => Sys2Proof.Machine.execPowerMeasurement mainMv auxMv nowDw tenMsDw avgDw clock10 s
  | .sensorReading temps => Sys2Proof.Machine.execSensorReading temps s
  | .throttleStep => Sys2Proof.Machine.execThrottleStep s
  | .gustEntry => Sys2Proof.Machine.execGustEntry s
  | .gustCreditSpent => Sys2Proof.Machine.execGustCreditSpent s
  | .sagWarn mv => Sys2Proof.Machine.execSagWarn mv s
  | .sagClear mv => Sys2Proof.Machine.execSagClear mv s
  | .sagReset => Sys2Proof.Machine.execSagReset s
  | .seatOpen mv => Sys2Proof.Machine.execSeatOpen mv s
  | .powerUpStart lanes smbA bankCharged => Sys2Proof.Machine.execPowerUpStart lanes smbA bankCharged s
  | .lullEntry => Sys2Proof.Machine.execLullEntry s
  | .lullWake => Sys2Proof.Machine.execLullWake s
  | .watchdogFeed writer progress => Sys2Proof.Machine.execWatchdogFeed writer progress s
  | .watchdogExpiry => Sys2Proof.Machine.execWatchdogExpiry s
  | .lockstepMismatch => Sys2Proof.Machine.execLockstepMismatch s
  | .stewardFault core => Sys2Proof.Machine.execStewardFault core s
  | .coldReset lanes smbA => Sys2Proof.Machine.execColdReset lanes smbA s
  | .moduleReset cause => Sys2Proof.Machine.execModuleReset cause s
  | .boot env => Sys2Proof.Machine.execBoot env s
  | .trestleRetrain link => Sys2Proof.Machine.execTrestleRetrain link s
  | .trestleRetrainDone link repaired sparesLeft => Sys2Proof.Machine.execTrestleRetrainDone link repaired sparesLeft s
  | .setEndpointId op eid => Sys2Proof.Machine.execSetEndpointId op eid s
  | .getEndpointId => Sys2Proof.Machine.execGetEndpointId s
  | .getMctpVersionSupport msgType => Sys2Proof.Machine.execGetMctpVersionSupport msgType s
  | .getMessageTypeSupport => Sys2Proof.Machine.execGetMessageTypeSupport s
  | .getVendorDefinedMessageSupport selector => Sys2Proof.Machine.execGetVendorDefinedMessageSupport selector s
  | .getInventory => Sys2Proof.Machine.execGetInventory s
  | .getThermal => Sys2Proof.Machine.execGetThermal s
  | .getPower => Sys2Proof.Machine.execGetPower s
  | .getLog => Sys2Proof.Machine.execGetLog s
  | .keystoneRecord fragment last => Sys2Proof.Machine.execKeystoneRecord fragment last s
  | .bypass tdi => Sys2Proof.Machine.execBypass tdi s
  | .idcode => Sys2Proof.Machine.execIdcode s
  | .samplePreload pins load => Sys2Proof.Machine.execSamplePreload pins load s
  | .extest shift pins => Sys2Proof.Machine.execExtest shift pins s
  | .flywheelBoundary deckDiff => Sys2Proof.Machine.execFlywheelBoundary deckDiff s
  | .holdupBankCharged => Sys2Proof.Machine.execHoldupBankCharged s

end Sys2Proof.Machine
end

