-- ==== Sys2Proof/Safety.lean ====
section
/-!
DEFINITION. What claims about runs say: the block never stops, and what no command but the ones named may change.
-/
namespace Sys2Proof.Machine

/-- A command answers a next state. -/
def Completes (c : Instr) (s : State) : Prop := ∃ t, exec c s = .next t

/-- A run of `k` steps that never stops. -/
def SafeRun (k : Nat) (s : State) : Prop := ∃ t, Sys2Proof.core.run k s = .next t

/-- What stands outside the block's own doing: the queue of commands that wait, the straps (R378, R518), and the fuses (R467). -/
structure Anchor where
  pending : List Instr
  straps  : BitVec 2
  smbA    : BitVec 2
  fuses   : SMap Word
  revoked : Nat
  minSvn  : Nat
  deriving DecidableEq, Repr

/-- The anchored part of a state. -/
def State.anchor (s : State) : Anchor :=
  { pending := s.pending, straps := s.straps, smbA := s.smbA, fuses := s.key.fuses, revoked := s.key.revoked, minSvn := s.key.minSvn }

/-- Whether a command samples the straps: only those that bring a cold reset (R378, R475, R518). -/
def Instr.samplesStraps : Instr → Bool
  | .coldReset _ _ => true
  | .powerUpStart _ _ _ => true
  | _ => false

/-- The commands of the opcode table (R402): their opcode, their port and their packet. -/
def Instr.asPacket : Instr → Option (Nat × PortId × Packet)
  | .echo p k => some (0x01, p, k)
  | .getInfo p k => some (0x02, p, k)
  | .modelLoad p k => some (0x10, p, k)
  | .modelUnload p k => some (0x11, p, k)
  | .modelSwap p k => some (0x12, p, k)
  | .adapterLoad p k => some (0x13, p, k)
  | .adapterReplace p k => some (0x14, p, k)
  | .adapterDrop p k => some (0x15, p, k)
  | .reqCreate p k => some (0x20, p, k)
  | .reqAppend p k => some (0x21, p, k)
  | .reqCancel p k => some (0x22, p, k)
  | .reqQuery p k => some (0x23, p, k)
  | .spanConfigure p k => some (0x30, p, k)
  | .configStage p k => some (0x31, p, k)
  | .configCommit p k => some (0x32, p, k)
  | .objRegister p k => some (0x40, p, k)
  | .objPlace p k => some (0x41, p, k)
  | .objRevoke p k => some (0x42, p, k)
  | .flashWriteImage p k => some (0x50, p, k)
  | .flashErase p k => some (0x51, p, k)
  | .flashRead p k => some (0x52, p, k)
  | .trainStart p k => some (0x60, p, k)
  | .opSuspend p k => some (0x70, p, k)
  | .opResume p k => some (0x71, p, k)
  | .opAbort p k => some (0x72, p, k)
  | .opStatus p k => some (0x7F, p, k)
  | .cadenceSet p k => some (0x80, p, k)
  | .powerSet p k => some (0x90, p, k)
  | .fwUpdate p k => some (0xA0, p, k)
  | _ => none

/-- Steward firmware serves the port, and no check of the packet's header refuses it (R395, R402). -/
def State.accepts (s : State) (op : Nat) (p : PortId) (pkt : Packet) : Prop :=
  s.serves p = true ∧ s.headerStatus p (pkt.withOpcode op) = none

/-- Who is answered for a packet of port `p` that comes now under opcode `op` (R397, R399). -/
def State.asker (s : State) (op : Nat) (p : PortId) (pkt : Packet) : Caller := callerOf p (pkt.withOpcode op) s.cadNow

/-- The sequencer of cell `n` stands at an instruction that it can issue, with no half of a dual pair before it (R76, R90). -/
def State.ready (s : State) (n : Nat) : Prop := s.issues n = true ∧ (s.cell n).dual = none

/-- An identity that may write the device's own registers: a steward core or keystone (R384). -/
def inside (w : Ident) : Prop := (isSteward w.toNat || isKeystone w.toNat) = true

end Sys2Proof.Machine
end

