-- ==== Sys2Proof/Certificates/Slice0/Obligations.lean ====
section
/-!
DEFINITION. The statements for the provers. Each formalises rules of the spec, or says of the machine what its chapters say as a whole; what
rests on a choice of the model names the log entry.
-/
open Sys2Proof Sys2Proof.Machine

/-- A step takes the command at the front of the queue and runs it on the rest. For every command c, every list of waiting commands and every
state s: a step of s with c in front of those commands is exec of c on s with those commands waiting. That the model keeps a first-in first-
out queue of commands is its own form (log entry 1). (00_scope) -/
def Obligations.StepRunsTheFrontCommand : Prop :=
    ∀ (c : Instr) (rest : List Instr) (s : State),
    step { s with pending := c :: rest } = exec c { s with pending := rest }

/-- On an empty queue the block ticks once; outside service only the clock moves. When no command waits, a step answers the state after one tick
of the 100 MHz reference, and while steward firmware does not run that tick is 10 ns of the clock and nothing else. The idle tick is the
model's own choice (log entry 2). (00_scope) -/
def Obligations.EmptyQueueStepTicks : Prop :=
    ∀ s : State, s.pending = [] →
    step s = .next s.tick ∧ (s.running = false → s.tick = s.after 10)

/-- No command stops the block. For every command and every state, exec answers a next state: the spec describes no stop of the block, since
every error is a flag, a log entry, a status or a reset. (16_startup_reset_and_faults) -/
def Obligations.EveryCommandCompletes : Prop :=
    ∀ (c : Instr) (s : State), ∃ t, exec c s = .next t

/-- No command changes the queue of waiting commands. Whatever command runs and in whatever state, the commands that wait are the same after it
as before it. The queue is the model's own form (log entry 1). (00_scope) -/
def Obligations.CommandsKeepTheQueue : Prop :=
    ∀ (c : Instr) (s t : State), exec c s = .next t → t.pending = s.pending

/-- The straps are sampled at a cold reset only. Every command but the two that bring a cold reset (COLD_RESET and POWER_UP_START, which is the
cold reset of a power-up) leaves the sampled bifurcation straps and SMBus address straps as they were; and a COLD_RESET of a module whose
seat is closed, like a POWER_UP_START, samples both. (R378, R475, R518) -/
def Obligations.StrapsChangeOnlyAtColdReset : Prop :=
    (∀ (c : Instr) (s t : State), exec c s = .next t → Instr.samplesStraps c = false → t.straps = s.straps ∧ t.smbA = s.smbA) ∧
    (∀ (a b : BitVec 2) (s t : State), s.pwr.seatOpen = false → exec (.coldReset a b) s = .next t → t.straps = a ∧ t.smbA = b) ∧
    (∀ (a b : BitVec 2) (q : Bool) (s t : State), exec (.powerUpStart a b q) s = .next t → t.straps = a ∧ t.smbA = b)

/-- A burned fuse word keeps its value, and a revoked slot stays revoked, whatever command runs. For every command, a fuse word that is burned
(not zero) reads the same after it, and every bit of the revoke word that is set stays set. Only an unburned word can be burned. (R467,
15_power_and_keystone) -/
def Obligations.BurnedFusesNeverChange : Prop :=
    ∀ (c : Instr) (s t : State), exec c s = .next t →
    (∀ k, SMap.get 0 s.key.fuses k ≠ 0 → SMap.get 0 t.key.fuses k = SMap.get 0 s.key.fuses k) ∧
    (∀ i, s.key.revoked.testBit i = true → t.key.revoked.testBit i = true)

/-- The minimum security version never falls, and only a boot raises it. No command lowers the minimum svn in keystone data, and every command
but BOOT leaves it unchanged. (R482, 16_startup_reset_and_faults) -/
def Obligations.MinimumSvnOnlyRises : Prop :=
    ∀ (c : Instr) (s t : State), exec c s = .next t →
    s.key.minSvn ≤ t.key.minSvn ∧ ((∀ e, c ≠ .boot e) → t.key.minSvn = s.key.minSvn)

/-- At reset every register reads the reset value of its table and everything else is empty. In State.reset every register of every block
instance and index reads its reset word, nothing waits in the queue, no port queue, slot, span, object or operation exists, no fuse is
burned, and the module is not in service. (R6, R475, 18_register_map) -/
def Obligations.ResetStateReadsResetValues : Prop :=
    (∀ (r : Reg) (n i : Nat), State.reset.reg r n i = r.resetWord n i) ∧
    State.reset.pending = [] ∧ State.reset.running = false ∧
    (∀ p k, (State.reset.queue p k).level = 0) ∧ (∀ i, (State.reset.slot i).st = 0) ∧ (∀ i, (State.reset.span i).cfg.on = false) ∧
    (∀ o, (State.reset.obj o).e.st = 0) ∧ (∀ i, (State.reset.op i).live = false) ∧ (∀ k, SMap.get 0 State.reset.key.fuses k = 0)

/-- A field write sets that field and no other part of the machine. Writing a value into a register field makes the field read that value modulo
its width; bits of the same register outside the field, every register with another address, and everything that is not a register stay as
they were. (R6, 00_scope) -/
def Obligations.FieldWriteReadsBack : Prop :=
    ∀ (s : State) (f : FieldRef) (v n i : Nat), f.lo ≤ f.hi → f.hi < 64 →
    (s.wr f v n i).rd f n i = v % 2 ^ (f.hi + 1 - f.lo) ∧
    (∀ hi lo, (hi < f.lo ∨ f.hi < lo) → hi < 64 → bits ((s.wr f v n i).reg f.reg n i) hi lo = bits (s.reg f.reg n i) hi lo) ∧
    (∀ (r : Reg) (m j : Nat), r.key m j ≠ f.reg.key n i → (s.wr f v n i).reg r m j = s.reg r m j) ∧
    { s.wr f v n i with regs := s.regs } = s

/-- A command whose header check fails gets its FINAL reply with that status and no effect. For each of the 29 opcode rows: when steward
firmware serves the port and the checks of the header and body shape give a status (unknown flags or reserved bits, fields the row does not
name, SAFE, a missing permission, no free table entry, a body that is too short or not clean), the command ends with that status as its
FINAL reply and nothing else happens. (R391, R393, R402, R412, R411, 13_host_ports_and_commands) -/
def Obligations.RefusedHeadersAreAnswered : Prop :=
    ∀ (i : Instr) (op : Nat) (p : PortId) (pkt : Packet) (s : State) (st : Nat), Instr.asPacket i = some (op, p, pkt) →
    s.serves p = true → s.headerStatus p (pkt.withOpcode op) = some st → exec i s = .next (s.fin (s.asker op p pkt) st)

/-- A command row does what steward firmware does for that opcode when it takes it from the queue. For each of the 29 opcode rows: when firmware
serves the port and the header passes, the row answers the next state of the command table of COMMAND_DISPATCH for that opcode, with the
same caller and packet. (R395, R402, 13_host_ports_and_commands) -/
def Obligations.AcceptedCommandsDoWhatDispatchDoes : Prop :=
    ∀ (i : Instr) (op : Nat) (p : PortId) (pkt : Packet) (s : State), Instr.asPacket i = some (op, p, pkt) →
    s.accepts op p pkt → exec i s = .next (s.command op (s.asker op p pkt) (pkt.withOpcode op))

/-- A FINAL reply frees its outstanding entry and stands on the reply queue of its port. For a port that is up and a reply queue with room:
after a FINAL reply the outstanding count of the port is one less (0 stays 0), and the reply queue holds an entry with the next sequence
number, the command's priority, and the bytes of a FINAL with its status, tag, code and body. (R394, R397, R399, R430) -/
def Obligations.FinalReplyIsPosted : Prop :=
    ∀ (s : State) (c : Caller) (st code : Nat) (body : List Byte), s.portUp c.port = true → s.queueFull c.port 1 = false →
    (s.final c st code body).rd Fld.hptCmdOut_count c.port = s.rd Fld.hptCmdOut_count c.port - 1 ∧
    ∃ e ∈ ((s.final c st code body).queue c.port 1).entries,
      e.seq = (s.queue c.port 1).nextSeq ∧ e.prio = c.prio ∧ e.bytes = replyBytes 3 st c.tag code s.stamp body

/-- ECHO returns its own body; GET_INFO returns the information record. An accepted ECHO ends with FINAL 0x00 and the packet's body unchanged;
an accepted GET_INFO ends with FINAL 0x00 and the information record for the port that asked. (R400, R407) -/
def Obligations.EchoAndGetInfoAnswer : Prop :=
    ∀ (p : PortId) (pkt : Packet) (s : State),
    (s.accepts 0x01 p pkt → exec (.echo p pkt) s = .next (s.final (s.asker 0x01 p pkt) 0x00 0 pkt.body)) ∧
    (s.accepts 0x02 p pkt → exec (.getInfo p pkt) s = .next (s.final (s.asker 0x02 p pkt) 0x00 0 (s.infoOf p)))

/-- MODEL_LOAD, MODEL_SWAP and MODEL_UNLOAD are accepted and begin. With no refusal of the load checks and a free operation entry, MODEL_LOAD
and MODEL_SWAP open a long operation with its ACCEPTED reply and begin the load or swap on it. MODEL_UNLOAD of a configured, idle span that
holds a model opens an operation, stops admission on the span, forces every bound request out under FORCE with status 0x38, and shows the
span as UNLOADING. (R232, R234, R247, R248, R399) -/
def Obligations.LoadsSwapsAndUnloadsBegin : Prop :=
    ∀ (p : PortId) (pkt : Packet) (s : State) (i : Nat), s.freeOp = some i →
    (s.accepts 0x10 p pkt → s.loadStatus pkt.span (pkt.fld 0 1) false = none →
      exec (.modelLoad p pkt) s = .next
        (((s.openOp i (s.asker 0x10 p pkt) 0x10 pkt.span 0 (.load { image := pkt.fld 0 1, swap := false, todo := [], legs := [], objs := [], ready := false })).modSpan pkt.span
          fun x => { x with swapPort := none }).loadBegin pkt.span (pkt.fld 0 1) false i)) ∧
    (s.accepts 0x12 p pkt → s.loadStatus pkt.span (pkt.fld 0 1) true = none →
      exec (.modelSwap p pkt) s = .next
        (((s.openOp i (s.asker 0x12 p pkt) 0x12 pkt.span 0 (.load { image := pkt.fld 0 1, swap := true, todo := [], legs := [], objs := [], ready := false })).modSpan pkt.span
          fun x => { x with swapPort := some p.val }).loadBegin pkt.span (pkt.fld 0 1) true i)) ∧
    (s.accepts 0x11 p pkt → (s.span pkt.span).cfg.on = true → s.spanBusy pkt.span = false → s.training pkt.span = false →
      (s.span pkt.span).cur.isSome = true →
      exec (.modelUnload p pkt) s = .next
        (let t := s.openOp i (s.asker 0x11 p pkt) 0x11 pkt.span (s.boundTo pkt.span) (.unload pkt.force)
         let l := if pkt.force then t.spanSlots pkt.span else []
         ((t.modSpan pkt.span fun x => { x with
            unload := some (i, pkt.force), admitStop := true,
            forced := x.forced ++ l.map fun k => ⟨k, 8, 0x38⟩ }).wr Fld.imgSpan_state 5 0 pkt.span).setBit Fld.imgStatus_active pkt.span))

/-- ADAPTER_LOAD, ADAPTER_REPLACE and ADAPTER_DROP are accepted and begin. With no refusal of the span, the index and the pack, enough free
share and directory entries, and a free operation entry, ADAPTER_LOAD and ADAPTER_REPLACE open an operation for the version they bring and
begin it. ADAPTER_DROP of a READY index whose running replacement, if any, is not staged opens an operation, turns the index DROPPING and
its current version retiring. (R366, R367, R376, R399) -/
def Obligations.AdapterCommandsBegin : Prop :=
    ∀ (p : PortId) (pkt : Packet) (s : State) (i : Nat) (cp : ModelCopy), s.freeOp = some i → s.adapterSpan pkt.span = none →
    pkt.fld 0 2 < 256 →
    (∀ replace : Bool, (s.accepts (if replace then 0x14 else 0x13) p pkt) →
      State.indexStatus (s.adapter pkt.span (pkt.fld 0 2)) replace = none → s.packStatus p pkt.span (pkt.fld 4 4) = none →
      (s.span pkt.span).cur = some cp → s.packOk (pkt.fld 4 4) cp = true →
      ((s.packObjects (pkt.fld 4 4) cp).map fun f => f.tiles * tileBytes f.fmt false 0).sum ≤ s.shareFree pkt.span →
      (s.packObjects (pkt.fld 4 4) cp).length ≤ s.dirFree →
      exec (if replace then .adapterReplace p pkt else .adapterLoad p pkt) s = .next
        (let op := if replace then 0x14 else 0x13
         let v := if replace then nextVer (s.adapter pkt.span (pkt.fld 0 2)).last else 1
         let n := ((s.packObjects (pkt.fld 4 4) cp).map fun f => f.tiles * tileBytes f.fmt false 0).sum
         let t := s.openOp i (s.asker op p pkt) op pkt.span n (.adapter (pkt.fld 0 2) v replace)
         t.adapterBegin pkt.span (pkt.fld 0 2) v (pkt.fld 4 4) (PackHdr.parse (t.objRead (pkt.fld 4 4) 0 256))
           (s.packObjects (pkt.fld 4 4) cp) i)) ∧
    (s.accepts 0x15 p pkt → (s.adapter pkt.span (pkt.fld 0 2)).st = 2 → State.AdIndex.staged (s.adapter pkt.span (pkt.fld 0 2)) = none →
      exec (.adapterDrop p pkt) s = .next
        ((s.openOp i (s.asker 0x15 p pkt) 0x15 pkt.span (s.adapter pkt.span (pkt.fld 0 2)).vers.length (.drop (pkt.fld 0 2))).modAdapter
          pkt.span (pkt.fld 0 2) fun x => { x with
            st := 3, op := some i,
            vers := x.vers.map fun y => if y.role = 0 then { y with role := 2, port := p.val } else y }))

/-- REQ_CREATE that meets no refusal waits as a new request, and its prompt ends at once unless more is to come. An accepted REQ_CREATE with
target and generation 0, a span of 0 to 7 or 0xFF, and none of the refusals of R255 adds one request, TOKENIZING, with its caller,
parameters and prompt, at the end of the waiting requests. Without MORE its prompt is complete at once; with MORE nothing else changes.
(R254, R255, R257, R403) -/
def Obligations.CreateEntersTheWaitingRequests : Prop :=
    ∀ (p : PortId) (pkt : Packet) (s : State), s.accepts 0x20 p pkt → pkt.target = 0 → pkt.gen = 0 → (pkt.span < 8 ∨ pkt.span = 0xFF) →
    s.createStatus pkt (Params.ofBody pkt.body) = none →
    (let c := s.asker 0x20 p pkt
     let r : Req := { who := c, st := 0, span := pkt.span, modelId := leAt pkt.body 0xD0 16, par := Params.ofBody pkt.body,
                      prompt := slice pkt.body 0xF0 (leAt pkt.body 0xE0 4), kind := byteAt pkt.body 0xE4, ended := false, tokens := [],
                      fffd := false, stamp := c.time, pendAt := 0, why := 0x30 }
     let t : State := { s with reqs := s.reqs ++ [r] }
     exec (.reqCreate p pkt) s = .next (if (Params.ofBody pkt.body).more then t else t.endPrompt r))

/-- REQ_APPEND adds its part to the prompt of a waiting request or of the next turn of a PARKED one. By tag: an accepted REQ_APPEND of a well-
shaped part to a request of the port whose prompt is not complete, within 1 MiB, is answered 0x00, lengthens the prompt, and with END
completes it. By slot: for a PARKED request of the port with the right generation and class that is not about to end, no complete turn
waiting, and a max_new of 0 or not below min_new, the part is staged for the next turn. (R258, R404) -/
def Obligations.AppendLengthensThePrompt : Prop :=
    ∀ (p : PortId) (pkt : Packet) (s : State), s.accepts 0x21 p pkt → pkt.span = 0xFF →
    promptOk pkt.body [(0, 5), (6, 2), (8, 4)] 0x10 (leAt pkt.body 0 4) (byteAt pkt.body 4) = true →
    (∀ r, pkt.target = 0xFFFF → s.reqByTag p (leAt pkt.body 6 2) = some r → r.ended = false →
      r.prompt.length + (slice pkt.body 0x10 (leAt pkt.body 0 4)).length ≤ promptMax →
      (let part := slice pkt.body 0x10 (leAt pkt.body 0 4)
       let r' : Req := { r with prompt := r.prompt ++ part, kind := joinKind r.prompt part r.kind (byteAt pkt.body 4) }
       let t := (s.putReq r r').fin (s.asker 0x21 p pkt) 0x00
       exec (.reqAppend p pkt) s = .next (if pkt.ends then t.endPrompt r' else t))) ∧
    (pkt.target ≠ 0xFFFF → s.ownSlot p pkt = true → (s.slot pkt.target).par.cls = pkt.cls → leAt pkt.body 6 2 = 0 →
      (leAt pkt.body 8 4 = 0 ∨ (s.slot pkt.target).par.minNew ≤ leAt pkt.body 8 4) → (s.slot pkt.target).st = slParked →
      (s.slot pkt.target).endDue = false → (s.slot pkt.target).turn.any (·.ended) = false →
      exec (.reqAppend p pkt) s = .next
        (s.appendTurn (s.asker 0x21 p pkt) pkt.target (slice pkt.body 0x10 (leAt pkt.body 0 4)) (byteAt pkt.body 4) (leAt pkt.body 8 4) pkt.ends))

/-- REQ_CANCEL ends the request it names; REQ_QUERY returns its state and changes no request. By tag, REQ_CANCEL takes a waiting request of the
port out, with 0x0E as the final reply of its REQ_CREATE, and is answered 0x00; REQ_QUERY returns 0x80 or 0x81 and zeros. By slot of the
port, with the right generation and class, REQ_CANCEL is answered 0x00 and cancels the request in the mode of the port; REQ_QUERY returns
the 256-byte slot copy. (R253, R279, R400) -/
def Obligations.CancelAndQueryOfRequests : Prop :=
    ∀ (p : PortId) (pkt : Packet) (s : State), pkt.span = 0xFF → State.tagBodyOk pkt = true →
    (∀ r, pkt.target = 0xFFFF → 2 ≤ pkt.body.length → s.reqByTag p (leAt pkt.body 0 2) = some r →
      (s.accepts 0x22 p pkt → exec (.reqCancel p pkt) s = .next ((s.dropReq r 0x0E).fin (s.asker 0x22 p pkt) 0x00)) ∧
      (s.accepts 0x23 p pkt → exec (.reqQuery p pkt) s = .next
        (s.final (s.asker 0x23 p pkt) 0x00 0 (leBytes 1 (0x80 + r.st) ++ leBytes 255 0)))) ∧
    (pkt.target ≠ 0xFFFF → s.ownSlot p pkt = true → (s.slot pkt.target).par.cls = pkt.cls →
      (s.accepts 0x22 p pkt → exec (.reqCancel p pkt) s = .next
        ((s.fin (s.asker 0x22 p pkt) 0x00).cancelSlot pkt.target (s.flag Fld.hptCtrl_cancelMode p))) ∧
      (s.accepts 0x23 p pkt → exec (.reqQuery p pkt) s = .next
        (s.final (s.asker 0x23 p pkt) 0x00 0 ((s.slot pkt.target).encode (s.kvPages pkt.target)))))

/-- SPAN_CONFIGURE applies its record at once; CONFIG_STAGE puts it in the shadow set; CONFIG_COMMIT queues or discards the set. An accepted
SPAN_CONFIGURE of a record in range, for an EMPTY idle span that takes nothing from another and makes a legal map, puts the record into the
map and is answered 0x00. CONFIG_STAGE, while no commit drains and the shadow set is free or the port's own, makes the port its owner and
replaces the span's record in it. CONFIG_COMMIT of the port's own set that is not empty discards it under DISCARD, and else, with no refusal
of R284, queues it as one commit, empties the shadow set, and shows the spans as draining when there are several. (R282, R283, R284, R285) -/
def Obligations.SpanMapCommandsTakeEffect : Prop :=
    ∀ (p : PortId) (pkt : Packet) (s : State),
    (let r := SpanRec.ofBody pkt.body
     let m := s.mapWith [(pkt.span, r)]
     s.accepts 0x30 p pkt → (r.on = true → r.inRange = true) → s.rd Fld.imgSpan_state 0 pkt.span = 0 → s.spanBusy pkt.span = false →
      s.training pkt.span = false →
      (∀ a ∈ State.eightSpans, a ≠ pkt.span → shareCells r (s.span a).cfg = false ∧ shareLatch r (s.span a).cfg = false) →
      s.pairOk m pkt.span = true → s.mapStatus m = none →
      exec (.spanConfigure p pkt) s = .next ((s.applyRecs [(pkt.span, r)]).fin (s.asker 0x30 p pkt) 0x00)) ∧
    (let r := SpanRec.ofBody pkt.body
     s.accepts 0x31 p pkt → s.draining = false → (s.shadowOwner = 0 ∨ s.shadowOwner = portIdent p) → (r.on = true → r.inRange = true) →
      (r.on = true → s.holdsModel pkt.span = true → r.bits = (s.span pkt.span).cfg.bits) →
      exec (.configStage p pkt) s = .next
        (({ (s.wr Fld.srvStatus_shadowOwner (portIdent p)).wr Fld.srvStatus_shadowHeld 1 with
            shadow := s.shadow.filter (fun e => e.1 != pkt.span) ++ [(pkt.span, r)] } : State).fin (s.asker 0x31 p pkt) 0x00)) ∧
    (s.accepts 0x32 p pkt → s.draining = false → (s.shadowOwner = 0 ∨ s.shadowOwner = portIdent p) → s.shadow ≠ [] →
      (pkt.discard = true → exec (.configCommit p pkt) s = .next (s.dropShadow.fin (s.asker 0x32 p pkt) 0x00)) ∧
      (pkt.discard = false → s.commitStatus pkt.force = none →
        (let l := s.shadow
         let u := if s.carries l then s else s.forceCarry l
         let t := ({ u with commits := u.commits ++ [⟨l, l.map (·.1), [], [], pkt.force⟩] } : State).dropShadow
         let t := if 2 ≤ l.length then t.wr Fld.srvStatus_draining (maskOf (l.map (·.1))) else t
         exec (.configCommit p pkt) s = .next (t.fin (s.asker 0x32 p pkt) 0x00))))

/-- OBJ_REGISTER makes a directory entry, OBJ_PLACE reports or moves an object, OBJ_REVOKE revokes one. An accepted OBJ_REGISTER of a well-
formed window or buffer with a format and a Gust variant of their tables, with a free entry, makes that entry and returns its number.
OBJ_PLACE with QUERY, of a tier up to 3, of an object that the port may name returns its 32-byte entry and changes nothing else; without QUERY it applies the place to a RESIDENT object that may go to that tier,
and holds it on a MOVING one after ending the one held before. OBJ_REVOKE of the port's own RESIDENT buffer with no revoke waiting starts
its revoke. (R158, R174, R175, R177) -/
def Obligations.ObjectCommandsTakeEffect : Prop :=
    ∀ (p : PortId) (pkt : Packet) (s : State),
    (let kind := pkt.fld 0x11 1
     let b := pkt.fld 0x13 1
     let tile := tileBytes (pkt.fld 0x12 1) (b.testBit 0) (b / 2 % 8)
     let unit := if kind = 1 then tile else 4096
     s.accepts 0x40 p pkt → kind ≤ 1 → b < 32 → fmtOk (pkt.fld 0x12 1) = true → b / 2 % 8 ≤ 4 → (kind = 1 → tile ≠ 0 ∧ pkt.fld 8 8 % tile = 0) → pkt.fld 0 8 % 4096 = 0 →
      pkt.fld 8 8 % 4096 = 0 → pkt.fld 8 8 ≠ 0 → pkt.fld 0 8 + pkt.fld 8 8 ≤ 2 ^ 64 → pkt.fld 8 8 / unit < 2 ^ 32 →
      ∀ n t, s.allocObj
          { e := { st := stResident, home := 3, window := kind == 0, fmt := if kind = 1 then pkt.fld 0x12 1 else 0, mx := kind == 1 && b.testBit 0,
                   gust := if kind = 1 then b / 2 % 8 else 0, grant := pkt.fld 0x10 1, owner := portIdent p, ro := kind == 1 && b.testBit 4,
                   addr := pkt.fld 0 8, tiles := pkt.fld 8 8 / unit }
            buffer := if kind = 1 then pkt.fld 0 8 + 1 else 0 } = some (n, t) →
        exec (.objRegister p pkt) s = .next (t.final (s.asker 0x40 p pkt) 0x00 0 (leBytes 4 n ++ leBytes 4 0))) ∧
    (let o := pkt.fld 0 4
     let x := s.obj o
     let h : HeldCmd := ⟨s.asker 0x41 p pkt, pkt.fld 4 1, pkt.fld 5 1, false⟩
     s.accepts 0x41 p pkt → o < 131072 → x.e.st ≠ 0 → s.mayPlace p x.e = true →
      (pkt.query = true → h.tier ≤ 3 → exec (.objPlace p pkt) s = .next (s.final (s.asker 0x41 p pkt) 0x00 0 x.e.encode)) ∧
      (pkt.query = false → 1 ≤ h.tier → h.tier ≤ 3 → (x.e.st = stResident ∨ x.e.st = stMoving) → (h.tier = 1 → h.col < 8) →
        x.e.window = false → (h.tier = 2 → x.e.originEn = true ∧ x.e.ro = true) →
        exec (.objPlace p pkt) s = .next
          (if x.e.st = stMoving then (s.finHeld x.place 0x00).modObj o fun x => { x with place := some h } else s.applyPlace o h))) ∧
    (let o := pkt.fld 0 4
     let x := s.obj o
     s.accepts 0x42 p pkt → o < 131072 → x.e.st = stResident → x.e.owner = portIdent p → x.e.window = false → x.buffer ≠ 0 →
      x.revoke = none → exec (.objRevoke p pkt) s = .next (s.startRevoke o ⟨s.asker 0x42 p pkt, 0, 0, pkt.force⟩))

/-- FLASH_WRITE_IMAGE, FLASH_ERASE and FLASH_READ are accepted and begin. With a free operation entry: FLASH_READ of a range inside the flash
into a writable object of the port, its dies in service, opens an operation and issues its first page. FLASH_ERASE of an image that is in
the library and not in use marks it ERASING, cuts its objects' origins and opens an operation. FLASH_WRITE_IMAGE (without RESUME) of a
readable source with a length that is a positive multiple of 4 KiB to an image that is EMPTY or WRITING and not in use, with room for its
units, writes the library entry and opens an operation; with RESUME, to a WRITING image of as many units, it opens the operation on the entry
as it stands. (R213, R221, R225, R231, R399) -/
def Obligations.FlashCommandsBegin : Prop :=
    ∀ (p : PortId) (pkt : Packet) (s : State) (i : Nat), s.freeOp = some i →
    (s.accepts 0x52 p pkt → pkt.fld 8 8 ≠ 0 → pkt.fld 0 8 + pkt.fld 8 8 ≤ Config.flashUnits * 2 ^ 30 →
      s.jobObjStatus p (pkt.fld 0x10 4) (pkt.fld 8 8) true = none →
      ((State.pagesOf (pkt.fld 0 8) (pkt.fld 8 8)).all fun f => s.dieServes f.die) = true →
      exec (.flashRead p pkt) s = .next
        (((s.openOp i (s.asker 0x52 p pkt) 0x52 noSpan (pkt.fld 8 8)
          (.flash ⟨.read, 0, 0, 0, pkt.fld 0x10 4, pkt.fld 8 8, 0, 0, false, 0, pkt.fld 0 8⟩)).flashIssue i).runJobs)) ∧
    (s.accepts 0x51 p pkt → pkt.rebuild = false → pkt.fld 1 1 = 0 → pkt.fld 0 1 < 64 → s.libServes = true → (s.lib (pkt.fld 0 1)).st ≠ 0 →
      s.imgInUse (pkt.fld 0 1) = false →
      (let g := pkt.fld 0 1
       let e := s.lib g
       let t := s.setLibState g 4
       let t := forEach t.objNums (fun o t => t.modObj o fun x =>
         if x.e.originEn ∧ x.e.image = g then { x with e := { x.e with originEn := false } } else x) t
       t.freeOp = some i →
       exec (.flashErase p pkt) s = .next
        (((t.openOp i (s.asker 0x51 p pkt) 0x51 noSpan (e.units * 2 ^ 30)
          (.flash ⟨.erase, g, e.first, e.units, 0, 0, 0, 0, false, 0, 0⟩)).flashIssue i).runJobs))) ∧
    (s.accepts 0x50 p pkt → pkt.resume = false → s.libServes = true → s.jobObjStatus p (pkt.fld 0 4) (pkt.fld 8 8) false = none →
      pkt.fld 8 8 ≠ 0 → pkt.fld 8 8 % 4096 = 0 → pkt.fld 4 1 < 64 → s.imgInUse (pkt.fld 4 1) = false →
      ((s.lib (pkt.fld 4 1)).st = 0 ∨ (s.lib (pkt.fld 4 1)).st = 1) →
      ∀ u, (s.modLib (pkt.fld 4 1) fun _ => {}).freeUnits (cdiv (pkt.fld 8 8) (2 ^ 30)) = some u →
      (let g := pkt.fld 4 1
       let n := cdiv (pkt.fld 8 8) (2 ^ 30)
       let t := (s.modFlash fun x => { x with writeSeq := x.writeSeq + 1 }).putLib g fun _ =>
         { st := 1, first := u, units := n, seq := s.flash.writeSeq + 1, period := s.periods % 2 ^ 32 }
       exec (.flashWriteImage p pkt) s = .next
        (((t.openOp i (s.asker 0x50 p pkt) 0x50 noSpan (pkt.fld 8 8)
          (.flash ⟨.write, g, u, n, pkt.fld 0 4, pkt.fld 8 8, 0, 0, false, 0, 0⟩)).flashIssue i).runJobs))) ∧
    (s.accepts 0x50 p pkt → pkt.resume = true → s.libServes = true → s.jobObjStatus p (pkt.fld 0 4) (pkt.fld 8 8) false = none →
      pkt.fld 8 8 ≠ 0 → pkt.fld 8 8 % 4096 = 0 → pkt.fld 4 1 < 64 → s.imgInUse (pkt.fld 4 1) = false → (s.lib (pkt.fld 4 1)).st = 1 →
      (s.lib (pkt.fld 4 1)).units = cdiv (pkt.fld 8 8) (2 ^ 30) →
      exec (.flashWriteImage p pkt) s = .next
        (((s.openOp i (s.asker 0x50 p pkt) 0x50 noSpan (pkt.fld 8 8)
          (.flash ⟨.write, pkt.fld 4 1, (s.lib (pkt.fld 4 1)).first, (s.lib (pkt.fld 4 1)).units, pkt.fld 0 4, pkt.fld 8 8, 0, 0, true, 0,
            0⟩)).flashIssue i).runJobs))

/-- TRAIN_START that meets no refusal opens a training job. An accepted TRAIN_START with parameters in range, on an idle span configured for
training with a model and no bound request, whose image has a training plan, starting from no adapter (init 0xFFFF) without RESUME, with a
good dataset and checkpoint object and a free entry, opens a long operation whose job holds the parameters and the record count of the
dataset. (R370, R371, R399) -/
def Obligations.TrainStartOpensAJob : Prop :=
    ∀ (p : PortId) (pkt : Packet) (s : State) (i n vocab x : Nat) (cp : ModelCopy), s.freeOp = some i → s.accepts 0x60 p pkt →
    (s.span pkt.span).cfg.on = true → s.spanBusy pkt.span = false → s.training pkt.span = false →
    pkt.resume = false → (TrainJob.ofBody pkt.body).inRange false = true → (s.span pkt.span).cur = some cp → s.isTrain pkt.span = true →
    s.boundTo pkt.span = 0 → Config.hasTrainingPlan (s.imgSection cp.image 4) = true → (TrainJob.ofBody pkt.body).init = 0xFFFF →
    s.datasetStatus p pkt.span (TrainJob.ofBody pkt.body).dataset = none → s.ckptStatus p (TrainJob.ofBody pkt.body).ckpt = none →
    (s.objRead (TrainJob.ofBody pkt.body).dataset 0 64).take 8 = dataMagic →
    Config.datasetHeader (s.objRead (TrainJob.ofBody pkt.body).dataset 0 64) = (vocab, n, x) → vocab = cp.hdr.vocab → n ≠ 0 →
    exec (.trainStart p pkt) s = .next (s.openOp i (s.asker 0x60 p pkt) 0x60 pkt.span (TrainJob.ofBody pkt.body).steps
      (.train { TrainJob.ofBody pkt.body with records := n }))

/-- OP_STATUS reports, OP_SUSPEND suspends, OP_RESUME resumes and OP_ABORT ends the operation whose handle is named. For a live operation whose
handle the packet names and that the port may act on: OP_STATUS answers the record of R405; OP_SUSPEND of a running stoppable operation sets
it SUSPENDED (a training job first finishes its step) and is answered 0x00; OP_RESUME of a suspended flash or firmware job sets it RUNNING,
is answered 0x00, and the jobs go on; OP_ABORT of a running training job ends it with 0x0F and its own reply follows with 0x00. (R405, R408,
R409, R410) -/
def Obligations.OperationCommandsAct : Prop :=
    ∀ (p : PortId) (pkt : Packet) (s : State),
    (let i := pkt.target % 64
     let o := s.op i
     o.live = true → o.gen = pkt.target / 64 →
      (s.accepts 0x7F p pkt → s.mayOp p o true = true →
        exec (.opStatus p pkt) s = .next (s.final (s.asker 0x7F p pkt) 0x00 0 (s.opRecord o))) ∧
      (s.accepts 0x70 p pkt → s.mayOp p o false = true → o.job.stoppable = true → o.st = 0 →
        exec (.opSuspend p pkt) s = .next
          ((s.modOp i fun o => { o with
            st := 1, job := match o.job with | .train j => .train { j with finishing := true } | j => j }).fin (s.asker 0x70 p pkt) 0x00)) ∧
      (s.accepts 0x71 p pkt → s.mayOp p o false = true → o.st = 1 → (∀ j : LoadJob, o.job ≠ .load j) → (∀ j : TrainJob, o.job ≠ .train j) →
        exec (.opResume p pkt) s = .next (((s.modOp i fun o => { o with st := 0 }).fin (s.asker 0x71 p pkt) 0x00).runJobs)) ∧
      (∀ j : TrainJob, s.accepts 0x72 p pkt → s.mayOp p o false = true → o.st ≤ 1 → o.job = .train j →
        exec (.opAbort p pkt) s = .next
          ((((s.modOp i fun o => { o with st := 2, abort := some (s.asker 0x72 p pkt) }).trainEnd i j 0x0F).modOp i
            fun o => { o with abort := none }).fin (s.asker 0x72 p pkt) 0x00)))

/-- CADENCE_SET waits for the next boundary; POWER_SET sets the GUST permission and asks for its limit. An accepted CADENCE_SET with clean
reserved bits, a hold_max of 1 or more, no reserved source and, when it names PTM, an enabled port and a period of 0.5 to 50 ms, stands
pending for the next boundary and is answered 0x00. An accepted POWER_SET with a limit that keystone allows and a GUST byte of 0, or 1 where
keystone allows GUST, sets the GUST permission, leaves GUST at 0, keeps the limit for the boundary, treats a lower one as a capacity loss,
tells every port, and is answered 0x00. (R315, R457) -/
def Obligations.CadenceAndPowerCommandsTakeEffect : Prop :=
    ∀ (p : PortId) (pkt : Packet) (s : State),
    (let v := pkt.fld 0 4
     let ptm := (List.range 3).any fun i => nbits v 5 0 / 4 ^ i % 4 == 1
     s.accepts 0x80 p pkt → nbits v 31 26 = 0 → nbits v 15 10 = 0 → nbits v 6 6 = 0 → nbits v 25 16 ≠ 0 →
      (∀ i < 3, nbits v 5 0 / 4 ^ i % 4 ≠ 3) →
      (ptm = true → 500000 ≤ pkt.fld 4 4 ∧ pkt.fld 4 4 ≤ 50000000 ∧ s.portUp (nbits v 9 8) = true ∧ Config.ptmEnabled (nbits v 9 8) = true) →
      exec (.cadenceSet p pkt) s = .next
        ((s.modCad fun x => { x with setTo := some (v, pkt.fld 4 4, pkt.fld 8 8) }).fin (s.asker 0x80 p pkt) 0x00)) ∧
    (let pl := pkt.fld 0 1
     let g := pkt.fld 1 1
     s.accepts 0x90 p pkt → s.rd Fld.keyPwrLim_pl1Min ≤ pl → pl ≤ s.rd Fld.keyPwrLim_pl1Max → g ≤ 1 →
      (g = 1 → s.flag Fld.keyPwrLim_gustEn = true) →
      exec (.powerSet p pkt) s = .next
        (let t := (s.wr Fld.pwrProfile_gust g).modPwr fun x => { x with plPend := some pl }
         let t := if g = 0 then t.leaveGust else t
         let t := if pl < s.pwr.plPend.getD (s.rd Fld.pwrProfile_pl1) then t.capacityLossAll else t
         (t.applyIdle.noticeDev 0x24 noSpan (pl * 256 + g)).fin (s.asker 0x90 p pkt) 0x00))

/-- FW_UPDATE of a verified image begins the update of the other image; of a keystone record, its check. With a flash die in service and a
readable source: an image of 512 to 491,520 bytes whose header verifies and whose length matches opens a long operation on the image that is
not active, and jobs go on; a source that begins with the record magic and holds a whole record opens an operation that ends with 0x00 when
keystone accepts the record and with 0x54 when it rejects it. (R469, R492) -/
def Obligations.FirmwareUpdateBegins : Prop :=
    ∀ (p : PortId) (pkt : Packet) (s : State) (i : Nat), s.freeOp = some i → s.accepts 0xA0 p pkt → s.diesIn ≠ [] →
    s.jobObjStatus p (pkt.fld 0 4) (pkt.fld 4 4) false = none →
    (s.objRead (pkt.fld 0 4) 0 8 ≠ recordMagic → fwHeader ≤ pkt.fld 4 4 → pkt.fld 4 4 ≤ fwBytes →
      s.fwHeaderOk (s.objRead (pkt.fld 0 4) 0 fwHeader) = true →
      pkt.fld 4 4 = fwHeader + FwHdr.payload (s.objRead (pkt.fld 0 4) 0 fwHeader) →
      exec (.fwUpdate p pkt) s = .next
        ((s.openOp i (s.asker 0xA0 p pkt) 0xA0 noSpan (pkt.fld 4 4) (.fw ⟨pkt.fld 0 4, pkt.fld 4 4, 1 - s.key.active, 0⟩)).runJobs)) ∧
    (s.objRead (pkt.fld 0 4) 0 8 = recordMagic → recordBytes ≤ pkt.fld 4 4 →
      exec (.fwUpdate p pkt) s = .next
        (let t := s.openOp i (s.asker 0xA0 p pkt) 0xA0 noSpan (pkt.fld 4 4) .none
         let r := t.takeRecord (t.objRead (pkt.fld 0 4) 0 recordBytes) false
         r.2.endOp i (if r.1 then 0x00 else 0x54) []))

/-- A window write outside the posted range changes exactly its bytes; one inside it changes nothing but win_overrun. Through an open BAR, a
non-empty write to the command window that meets no posted byte puts its bytes at its offset and changes nothing else. A byte that is posted
and not yet taken stays, and win_overrun is set. (R389, R381) -/
def Obligations.CommandWindowTakesBytes : Prop :=
    ∀ (p : PortId) (off : Nat) (l : List Byte) (s : State), s.barOpen p = true →
    (l ≠ [] → off + l.length ≤ 2 ^ 20 → (∀ i < l.length, s.posted p (off + i) = false) →
      exec (.commandWindowWrite p off l) s = .next (s.modPort p fun h => { h with win := writeBytes 0 h.win off l })) ∧
    (∀ b, l = [b] → off < 2 ^ 20 → s.posted p off = true →
      exec (.commandWindowWrite p off l) s = .next (s.wr Fld.hptStatus_winOverrun 1 p))

/-- An accepted post makes the engine take the posted packets; a refused one sets post_bad; dispatch takes the next command. A post whose tail
is a multiple of 8 and lies at or past the last accepted tail, at most 2^20 bytes past the head, becomes the last tail and the complete
packets up to it are taken; any other post only sets post_bad. COMMAND_DISPATCH takes the command that is next by priority, receipt time and
port from its queue and serves it, counting a corrected word first; one met with an uncorrectable word is counted, flagged, told to the
ports as an error of PCIe, and answered 0x52. A configuration request to a port that is up is
answered, with Request Retry Status while the boot lasts and with the function's identification after it; a poisoned write through an open BAR is dropped and adds a Poisoned TLP to the
errors of its port. (R377, R388, R390, R395, R431, R414, R501) -/
def Obligations.PortCommandsReachTheirQueue : Prop :=
    (∀ (p : PortId) (tail : BitVec 32) (s : State), s.barOpen p = true →
      (let t := tail.toNat % 2 ^ 21
       let ok := t % 8 = 0 ∧ s.fromHead p (s.port p).lastTail ≤ s.fromHead p t ∧ s.fromHead p t ≤ 2 ^ 20
       (ok → exec (.commandPost p tail) s = .next ((s.modPort p fun h => { h with lastTail := t }).takeAll p 65536)) ∧
       (¬ok → exec (.commandPost p tail) s = .next (s.wr Fld.hptStatus_postBad 1 p)))) ∧
    (∀ (p : Nat) (e : CmdEntry) (s : State), s.nextCommand = some (p, e) → s.serves p = true →
      (let c := callerOf p e.pkt e.stamp
       exec (.commandDispatch .clean) s = .next ((s.popCommand p e).serveFor c e.pkt (State.command e.pkt.opcode)) ∧
       exec (.commandDispatch .corrected) s = .next
         (((s.popCommand p e).bump Fld.queEcc_ce p 0).serveFor c e.pkt (State.command e.pkt.opcode)) ∧
       ∀ a b, exec (.commandDispatch (.uncorrectable a b)) s = .next
         (((((s.popCommand p e).bump Fld.queEcc_ue p 0).wr Fld.queStatus_ue 1 p 0).aerAll .correctedInternal).fin c 0x52))) ∧
    (∀ (p : PortId) (s : State), s.portUp p = true →
      (∀ h (id : PcieId), h = s.port p → id = ⟨0x1E9D, 0x1E9D, 0x120000, 0x8640, if Config.isA32 then 0x0032 else 0x0064,
          s.rd Fld.keyDie_version 0 1 / 2 ^ 16 % 256⟩ →
        (h.crs = true → exec (.pcieConfigRequest p) s = .next (s.modPort p fun _ => { h with crsAnswer := true, idAnswer := none })) ∧
        (h.crs = false → exec (.pcieConfigRequest p) s = .next (s.modPort p fun _ => { h with crsAnswer := false, idAnswer := some id }))) ∧
      (s.running = true → exec (.poisonedWrite p) s = .next (s.modPort p fun h => { h with aer := h.aer ++ [.poisonedTlp] })))

/-- Accesses that are not aligned accesses of 4 or 8 bytes have no effect but bad_access. Through an open BAR, a BAD_ACCESS that writes, and a
REGISTER_WRITE below BAR2 that is not a naturally aligned access of 4 or 8 bytes, change nothing but bad_access; a BAD_ACCESS that reads
returns zero to its port and sets bad_access; so does a READ_CLEAR that is not aligned. An aligned access reaches the register it names.
(R383) -/
def Obligations.OtherAccessesAreFlagged : Prop :=
    ∀ (p : PortId) (s : State), s.barOpen p = true →
    exec (.badAccess p true) s = .next (s.wr Fld.hptStatus_badAccess 1 p) ∧
    exec (.badAccess p false) s = .next ((s.deliver (portIdent p) 0).wr Fld.hptStatus_badAccess 1 p) ∧
    (∀ (w : Ident) (off size : Nat) (v meets : Word), w.toNat = portIdent p → off < 2 ^ 24 →
      (aligned off size = false →
        exec (.registerWrite w off size ⟨v, meets⟩) s = .next (s.wr Fld.hptStatus_badAccess 1 p) ∧
        exec (.readClear w off size) s = .next ((s.wr Fld.hptStatus_badAccess 1 p).deliver (portIdent p) 0)) ∧
      (aligned off size = true → ∀ h, regAt p off = some h → State.inMsix off = false → inKeystone off = false → State.inViews off = false →
        State.hostWrites h.reg = true →
        exec (.registerWrite w off size ⟨v, meets⟩) s = .next
          (s.ownWrite p h (placed off size (State.unmet w.toNat off size v.toNat meets.toNat)) (byteMask off size))))

/-- Register writes and reads act by the access codes of the fields; a host writes its own blocks only. A write from inside the device to a
shared register without an effect of its own sets the word that the access codes give; a W1C bit that a hardware event sets in the same cycle
is not cleared (log entry 82). A host write to a register outside its own blocks is dropped and counted. A read from inside the device of a shared register without an effect of its own clears the RC fields wholly within its
bytes and nothing else. After a write by the codes RW fields hold the written value, W1C fields have lost the written ones, and every other
bit stays. (R6, R384, R525, R8) -/
def Obligations.RegisterWritesFollowTheCodes : Prop :=
    (∀ (w : Ident) (off size : Nat) (v meets : Word) (h : Hit) (s : State), inside w → aligned off size = true → off < 2 ^ 24 →
      inKeystone off = false → State.inViews off = false → regAt 4 off = some h → h.reg.place.scope = .shared →
      h.reg ∉ [Reg.mbxLock, .mbxSend, .mbxTake, .mbxLockBreak, .flcClk, .flcWait, .flcOpGo, .pwrWdogFeed, .flcDone, .cadNow,
        .mbxDb, .mbxTaken, .mbxPerr] →
      exec (.registerWrite w off size ⟨v, meets⟩) s = .next
        (s.plainWrite h (placed off size (State.unmet w.toNat off size v.toNat meets.toNat)) (byteMask off size)) ∧
      (∀ i < 64, (placed off size (State.unmet w.toNat off size v.toNat meets.toNat)).testBit i =
        ((placed off size v.toNat).testBit i && !(meets.toNat.testBit i && (fieldMask h.reg.fields (· == .w1c)).testBit i))) ∧
      exec (.readClear w off size) s = .next (s.readClears h (byteMask off size))) ∧
    (∀ (p : PortId) (w : Ident) (off size : Nat) (v meets : Word) (h : Hit) (s : State), w.toNat = portIdent p → s.barOpen p = true →
      off < 2 ^ 24 → aligned off size = true → State.inMsix off = false → inKeystone off = false → regAt p off = some h →
      (State.inViews off = true ∨ State.hostWrites h.reg = false) → exec (.registerWrite w off size ⟨v, meets⟩) s = .next (s.hostDeny (portIdent p))) ∧
    (∀ (r : Reg) (old v be : Nat), old < 2 ^ 64 → v < 2 ^ 64 → be < 2 ^ 64 → ∀ i < 64,
      (r.written old v be).testBit i =
        if be.testBit i && (fieldMask r.fields (· == .rw)).testBit i then v.testBit i
        else if be.testBit i && (fieldMask r.fields (· == .w1c)).testBit i then old.testBit i && !v.testBit i
        else if be.testBit i && (fieldMask r.fields (· == .w1s)).testBit i then old.testBit i || v.testBit i
        else old.testBit i)

/-- FLC_DONE gives its oldest completion and drops it; CAD_NOW read by halves latches its high half. A read of FLC_DONE from inside the device
takes the oldest completion from the list and changes nothing else. A read of the low half of CAD_NOW by a host through its open BAR returns
the low half and latches the high half for that port, and changes nothing else. (R382, R199) -/
def Obligations.ReadsWithSideEffects : Prop :=
    ∀ (s : State),
    (∀ (w : Ident) (d : Completion) (r : List Completion), inside w → s.flash.done = d :: r →
      exec (.flcDoneRead w) s = .next (s.modFlash fun x => { x with done := r })) ∧
    (∀ (w : Ident) (p : PortId), w.toNat = portIdent p → s.barOpen p = true →
      exec (.cadNowRead w) s = .next (s.modPort p fun h =>
        { h with cadLatch := some (s.cadNow / 2 ^ 32), readData := BitVec.ofNat 64 (s.cadNow % 2 ^ 32) }))

/-- Only keystone writes KEY_ registers; every other write is dropped, logged, counted and flagged. A write to a KEY_ register by a steward
core, a cell or a host with an open BAR is dropped: KEY_VIOL_LOG takes it when KEY_VIOL_CNT reads 0, KEY_VIOL_LAST always, viol is set, the
count rises by 1, and a host write is also counted under R384. A keystone write to a locked RWL field or to a set WO1 word is handled the
same way. A keystone write to an RWL register before the lock takes effect. (R465) -/
def Obligations.KeystoneBlockIsKeystones : Prop :=
    ∀ (w : Ident) (off : Nat) (v : Word) (h : Hit) (s : State), inKeystone off = true → off < 2 ^ 24 → regAt 4 off = some h →
    (let e := off * 2 ^ 40 + w.toNat * 2 ^ 32 + s.stamp16
     let viol : State := (if s.rd Fld.keyViolCnt_count = 0 then s.setReg .keyViolLog 0 0 (BitVec.ofNat 64 e) else s).bump Fld.keyViolCnt_count
     let viol := ((viol.setReg .keyViolLast 0 0 (BitVec.ofNat 64 e)).wr Fld.keyStatus_viol 1).hostDeny w.toNat
     (isKeystone w.toNat = false → (isPort w.toNat = true → s.barOpen (w.toNat - 1) = true) →
       exec (.keyRegisterWrite w off v) s = .next viol) ∧
     (isKeystone w.toNat = true →
       ((h.reg = .keySlot ∨ h.reg = .keySlotRev) → s.reg h.reg h.n h.i ≠ 0 → exec (.keyRegisterWrite w off v) s = .next viol) ∧
       (h.reg ≠ .keySlot → h.reg ≠ .keySlotRev → fieldMask h.reg.fields (· == .rwl) ≠ 0 →
         (s.flag Fld.keyLock_lock = true → exec (.keyRegisterWrite w off v) s = .next viol) ∧
         (s.flag Fld.keyLock_lock = false → exec (.keyRegisterWrite w off v) s = .next
           (s.setReg h.reg h.n h.i (BitVec.ofNat 64
             (blend (s.reg h.reg h.n h.i).toNat v.toNat (fieldMask h.reg.fields (· == .rwl))))))) ∧
       (h.reg ≠ .keySlot → h.reg ≠ .keySlotRev → fieldMask h.reg.fields (· == .rwl) = 0 →
         exec (.keyRegisterWrite w off v) s = .next (s.plainWrite h v.toNat (2 ^ 64 - 1)))))

/-- A port that goes down is torn down in the order of the table; one that comes up starts from reset values. A port that is up and goes down
outside LULL passes the six steps of the teardown in order (queues, objects, requests, shared things, mailboxes, operations) for every
cause; before service only the link goes. A present port that is down comes up, outside resets and STILL, with its block, queues and window
at reset values, its speed and width, link_up, ready and safe. A port that enters D3hot goes down and stays in D3hot; one that returns to D0
outside STILL comes up. (R415, R416, R453, R450) -/
def Obligations.PortsGoDownAndComeUp : Prop :=
    ∀ (p : PortId) (s : State),
    (s.portUp p = true → s.lull = false → ∀ c : DownCause,
      (s.running = true → exec (.portDown p c) s = .next
        (((((((s.stopQueues p).dropObjects p).dropRequests p).dropShared p).dropMail p).orphanOps p).runJobs)) ∧
      (s.running = false → exec (.portDown p c) s = .next
        ((s.wr Fld.hptStatus_linkUp 0 p).modPort p fun h => { h with cmdQ := [], serving := [], queues := [], reserved := 0 }))) ∧
    (∀ speed width, s.portPresent p = true → s.portUp p = false → s.key.inReset = none → s.pwr.seatOpen = false → s.still = false →
      1 ≤ speed → speed ≤ 5 → 2 ≤ width → width ≤ 4 →
      exec (.portUp p speed width) s = .next
        (let t : State := { s with regs := s.regs.filter fun e => !(e.1 / 2 ^ 24 == p.val + 1) }
         let t := t.modMbx fun x => { x with staging := x.staging.filter fun e => e.1 / 32 != portIdent p }
         let t := t.modPort p fun _ => { crs := !s.running }
         let t := (t.wr Fld.hptId_speed speed p).wr Fld.hptId_width width p
         let t := (t.wr Fld.hptStatus_linkUp 1 p).wr Fld.hptStatus_ready (b2n s.running) p
         t.wr Fld.hptStatus_safe (b2n (s.running && t.safe)) p)) ∧
    (s.portUp p = true → (s.port p).d3 = false →
      exec (.portPowerState p true) s = .next (((s.portGone p).modPort p fun h => { h with d3 := true }).stillIf)) ∧
    (s.portPresent p = true → (s.port p).d3 = true → s.still = false →
      exec (.portPowerState p false) s = .next (s.bringUp p (s.rd Fld.hptId_speed p) (s.rd Fld.hptId_width p)))

/-- A send delivers or names the first condition that fails; a take empties the mailbox and tells the sender. A send to an empty mailbox with a
receiver, allowed by its senders, with the lock free or the sender's, fills it with the sender, the mailbox number, the time and the staged
payload, and sets the receiver's doorbell bit. A failed condition only sets send_denied, send_full or send_locked in the writer's view. A
take by the receiver empties a full mailbox with outcome TAKEN and sets the taken bit of its sender, unless that port has gone down since,
and management answers that waited go out where they can (log entry 31); a take by another only sets take_denied. Which of several failed
conditions is named is the order of the rule (log entry 3). (R418, R420, R421) -/
def Obligations.MailboxSendAndTake : Prop :=
    ∀ (w : Ident) (m : MbxId) (s : State),
    (let n := w.toNat
     let ok := s.receiver m ≠ 0 ∧ s.mayMail n m = true
     let free := s.lockOwner m = 0 ∨ s.lockOwner m = n
     (ok → (s.box m).full = false → free → exec (.mbxSend w m) s = .next
       ((s.modBox m fun b => { b with
           full := true, sender := n, orphan := false,
           msg := leBytes 1 n ++ leBytes 1 m ++ leBytes 6 s.stamp ++ (s.staging n m).drop 8 }).ring (s.receiver m) m false)) ∧
     (¬ok → exec (.mbxSend w m) s = .next (s.mbxError n 2)) ∧
     (ok → (s.box m).full = true → exec (.mbxSend w m) s = .next (s.mbxError n 0)) ∧
     (ok → (s.box m).full = false → ¬free → exec (.mbxSend w m) s = .next (s.mbxError n 1)) ∧
     (s.receiver m ≠ n → exec (.mbxTake w m) s = .next (s.mbxError n 3)) ∧
     (s.receiver m = n → (s.box m).full = true → exec (.mbxTake w m) s = .next
       (let t := s.modBox m fun b => { b with full := false, msg := [], outcome := 1 }
        (if (s.box m).orphan then t else t.ring (s.box m).sender m true).sendOwed)))

/-- A lock read acquires a free lock or names its owner; the owner's write releases; keystone breaks; a mask write fires what it uncovers. A
read of a free lock returns 0 and makes the reader the owner; a read by the owner returns 0 and changes nothing; any other read returns the
owner and changes nothing. The owner's own identity written frees the lock and, when no management answer waits for it, changes nothing else;
with answers waiting they go out where they can (log entry 31); any other write only sets release_bad. A break frees a held lock, counts it
and logs mailbox, owner and cause; an expired hold is a break with cause 3; a break of a free lock does nothing. A mask write sets the mask
and fires vector 17 + m, in ascending order, for each mailbox whose mask bit it clears while the doorbell or taken bit behind it is set;
one that uncovers no set bit only sets the mask. (R424, R425, R426, R427) -/
def Obligations.MailboxLocks : Prop :=
    ∀ (w : Ident) (m : MbxId) (s : State),
    (let n := w.toNat
     (s.lockOwner m = 0 → exec (.mbxLockRead w m) s = .next
       (((s.wr Fld.mbxLock_owner n 0 m).modBox m fun b => { b with since := s.cadNow }).deliver n 0)) ∧
     (s.lockOwner m ≠ 0 → exec (.mbxLockRead w m) s = .next (s.deliver n (if s.lockOwner m = n then 0 else s.lockOwner m))) ∧
     (∀ v : BitVec 8, (s.lockOwner m = n ∧ v.toNat = n →
         (s.mbx.owed = [] → exec (.mbxLockRelease w m v) s = .next (s.wr Fld.mbxLock_owner 0 0 m)) ∧
         exec (.mbxLockRelease w m v) s = .next (s.wr Fld.mbxLock_owner 0 0 m).sendOwed) ∧
       (¬(s.lockOwner m = n ∧ v.toNat = n) → exec (.mbxLockRelease w m v) s = .next (s.mbxError n 4)))) ∧
    (let broken := fun (s : State) (cause : Nat) =>
       (s.wr Fld.mbxLock_owner 0 0 m).logFirst Fld.mbxBreakCnt_count .mbxBreakLog
         (m * 2 ^ 48 + s.lockOwner m * 2 ^ 40 + cause % 256 * 2 ^ 32 + (s.wr Fld.mbxLock_owner 0 0 m).stamp16)
     (s.lockOwner m ≠ 0 →
       (∀ cause, (s.mbx.owed = [] → exec (.mbxLockBreak m cause) s = .next (broken s cause)) ∧
         exec (.mbxLockBreak m cause) s = .next (broken s cause).sendOwed) ∧
       (s.rd Fld.mbxCfg_holdMax 0 m ≠ 0 → ((s.box m).since + 1 + s.rd Fld.mbxCfg_holdMax 0 m * 65536) / 65536 ≤ s.periods →
         exec (.mbxHoldExpiry m) s =
           .next (broken (s.atCadence ((s.box m).since + 1 + s.rd Fld.mbxCfg_holdMax 0 m * 65536)) 3).sendOwed)) ∧
     (s.lockOwner m = 0 → (∀ cause, exec (.mbxLockBreak m cause) s = .next s) ∧ exec (.mbxHoldExpiry m) s = .next s)) ∧
    (∀ (p : PortId) (mask : BitVec 32),
      exec (.mbxDbMaskWrite p mask) s = .next
        (forEach ((List.range 32).filter fun i => (s.rd Fld.mbxDbMask_mask p).testBit i && !mask.toNat.testBit i &&
            (s.rd Fld.mbxDb_bits p ||| s.rd Fld.mbxTaken_bits p).testBit i)
          (fun i (t : State) => t.fire p (17 + i)) (s.wr Fld.mbxDbMask_mask mask.toNat p)) ∧
      ((∀ i < 32, (s.rd Fld.mbxDbMask_mask p).testBit i = true → mask.toNat.testBit i = false →
          (s.rd Fld.mbxDb_bits p ||| s.rd Fld.mbxTaken_bits p).testBit i = false) →
        exec (.mbxDbMaskWrite p mask) s = .next (s.wr Fld.mbxDbMask_mask mask.toNat p)))

/-- A management message is taken and answered by its type; an answer is sent when its mailbox can take it, and dropped when it cannot be sent
in time. A message of port p that waits in mailbox 4 + p while firmware serves is taken and answered: PING with its own bytes under type
0x81, STATE with the module state, ready, the number of active cells, the hottest temperature in °C and CAD_NOW under type 0x82, any other
with type 0xFF and the type received. An answer to port p is sent at once to mailbox p, as steward core 0's message with these bytes, when
that mailbox is empty, its lock is free or core 0's own, and it takes core 0's mail; else it is kept with its time (log entry 31). Answers to
a port that are kept for 16 periods are dropped, whatever else waits, and nothing else changes. (R428) -/
def Obligations.ManagementMessagesAreAnswered : Prop :=
    (∀ (p : PortId) (s : State) (t : Nat) (l : List Byte), s.mgmtMessage p = some (t, l) →
      (t = 0x01 → exec (.ping p) s = .next ((s.empty (4 + p) 1).answer p (leBytes 1 0x81 ++ l.drop 1))) ∧
      (t = 0x02 → exec (.state p) s = .next ((s.empty (4 + p) 1).answer p
        (leBytes 1 0x82 ++ leBytes 1 (s.rd Fld.pwrStatus_state) ++ leBytes 1 (s.rd Fld.hptStatus_ready p) ++ leBytes 1 s.activeCells ++
          leBytes 2 s.hottestC ++ leBytes 2 0 ++ leBytes 8 s.cadNow))) ∧
      (t ≠ 0x01 → t ≠ 0x02 → exec (.unknownMessageType p) s = .next ((s.empty (4 + p) 1).answer p (leBytes 1 0xFF ++ leBytes 1 t)))) ∧
    (∀ (p : PortId) (s : State) (a : List Byte),
      (let can := (s.box p).full = false ∧ (s.lockOwner p = 0 ∨ s.lockOwner p = 0x10) ∧ s.receiver p ≠ 0 ∧ s.mayMail 0x10 p = true
       (can → a.length ≤ 56 → (s.answer p a).box p = { s.box p with
         full := true, sender := 0x10, orphan := false,
         msg := leBytes 1 0x10 ++ leBytes 1 p ++ leBytes 6 s.stamp ++ a ++ List.replicate (56 - a.length) 0 }) ∧
       (¬can → s.answer p a = s.modMbx fun x => { x with owed := x.owed ++ [{ port := p, payload := a, since := s.cadNow }] }))) ∧
    (∀ (p : PortId) (s : State), exec (.mgmtAnswerTimeout p) s =
      .next (s.modMbx fun x => { x with owed := x.owed.filter fun o => !(o.port == p.val && o.since + 16 * 65536 ≤ s.cadNow) }))

/-- A consume frees the slot of the number it names; a flush empties the queue at its boundary; queue 0 takes neither. A consume of a number in
the head removes that entry, releases its reply space and counts a crossing of the level; a number that is not there only sets stale. A
flush write of 1 to 17 sets flushing; at the packet boundary the queue empties, every reply space is released, the crossing is counted and
flushing clears. On the command queue a consume and a flush change nothing. (R437, R438, R443, R445) -/
def Obligations.QueuesAreConsumedAndFlushed : Prop :=
    ∀ (p : PortId) (k : QueueId) (s : State),
    (k.val ≠ 0 → ∀ seq : BitVec 32,
      (∀ i e, (s.queue p k).head.find? (fun e => e.2.seq == seq.toNat) = some (i, e) →
        exec (.queConsume p k seq) s = .next
          ((((s.modQueue p k fun q => { q with head := q.head.filter fun x => !(x.1 == i) }).modPort p fun h =>
              { h with reserved := h.reserved - e.lines }).crossed p k (s.queue p k).level ((s.queue p k).level - 1)))) ∧
      ((s.queue p k).head.find? (fun e => e.2.seq == seq.toNat) = none →
        exec (.queConsume p k seq) s = .next (s.wr Fld.queStatus_stale 1 p k))) ∧
    (∀ v : BitVec 32, nbits v.toNat 4 0 = k.val → k.val ≠ 0 → exec (.queFlush p v) s = .next (s.wr Fld.queStatus_flushing 1 p k)) ∧
    (k.val ≠ 0 → s.flag Fld.queStatus_flushing p k = true →
      exec (.flushApply p k) s = .next (((forEach (s.queue p k).entries (fun e (t : State) => t.release p e.lines)
        (s.modQueue p k fun q => { q with head := [], outside := [] })).crossed p k (s.queue p k).level 0).wr Fld.queStatus_flushing 0 p k)) ∧
    (k.val = 0 → ∀ (seq v : BitVec 32), exec (.queConsume p k seq) s = .next s ∧ (nbits v.toNat 4 0 = 0 → exec (.queFlush p v) s = .next s))

/-- A free or reclaimable head slot is filled with the first waiting entry; a coalescing window ends with one signal. When an entry waits and a
slot is free or can be reclaimed, a clean read moves the first waiting entry in read order into that slot, signalling it once it has become
readable; a corrected read is counted first, and after an uncorrectable one the entry is rebuilt from the control record. The end of a
coalescing window signals the queue once. (R435, R444) -/
def Obligations.HeadFillsAndWindowsClose : Prop :=
    ∀ (p : PortId) (k : QueueId) (s : State) (e : Entry), k.val ≠ 0 →
    ((s.queue p k).firstOut = some e → ∀ i v, (s.queue p k).room e = some (i, v) →
      exec (.headFill p k .clean) s = .next
        (let t := s.modQueue p k fun q => (match v with | some v => (q.giveBack i v).place i e | none => q.place i e)
         if e.signalled then t else t.readable p k) ∧
      exec (.headFill p k .corrected) s = .next ((s.bump Fld.queEcc_ce p k).fillHead p k) ∧
      (∀ a b, exec (.headFill p k (.uncorrectable a b)) s = .next
        (((((s.bump Fld.queEcc_ue p k).wr Fld.queStatus_ue 1 p k).aerAll .correctedInternal).modQueue p k fun q =>
          { q with outside := q.outside.map fun x => if x.seq == e.seq then State.rebuilt x else x }).fillHead p k))) ∧
    ((s.queue p k).coal = true →
      exec (.coalesceWindowExpiry p k) s = .next
        (((s.atTime (((s.queue p k).lastSig.getD 0) + s.rd Fld.queCfg_coalUs p k * 1000)).modQueue p k fun q =>
          { q with coal := false }).signalQueue p k))

/-- NOP, STOP, branches and counted loops move the sequencer as the chapter lays down. At an instruction that the sequencer can issue: NOP goes
32 bytes on; STOP goes on and halts; a branch through a linear pool handle sets the stream and the offset; a counted loop at its end runs
its body again while runs are left and goes on when none are. Alignment of a branch offset and the count of a loop are the model's reading
(log entry 19). (R73, R76, R110) -/
def Obligations.ControlInstructionsMoveTheSequencer : Prop :=
    ∀ (n : CellId) (s : State), s.ready n →
    exec (.nop n) s = .next (s.wr Fld.celPc_offset (s.rd Fld.celPc_offset n + 32) n) ∧
    exec (.stop n) s = .next (((s.advance n).wr Fld.celStatus_running 0 n).wr Fld.celStatus_halted 1 n) ∧
    (∀ h off v, s.streamView n (h % 64) = some v → exec (.branch n h off) s = .next
      ((s.modCell n fun c => { c with stream := some v }).setReg .celPc n 0 (BitVec.ofNat 64 (off % 2 ^ 24 / 32 * 32 * 256 + h % 64)))) ∧
    (∀ h off, s.streamView n (h % 64) = none → exec (.branch n h off) s = .next (s.illegal n (s.pc n) 0x06)) ∧
    (∀ start count,
      (let here := s.rd Fld.celPc_offset n
       let others := (s.cell n).loops.filter fun e => !(e.1 == here)
       let left := match (s.cell n).loops.find? fun e => e.1 == here with | some e => e.2 | none => count - 1
       (left = 0 → exec (.countedLoop n start count) s = .next ((s.modCell n fun c => { c with loops := others }).advance n)) ∧
       (left ≠ 0 → exec (.countedLoop n start count) s = .next
         ((s.modCell n fun c => { c with loops := (here, left - 1) :: others }).wr Fld.celPc_offset (start % 2 ^ 24 / 32 * 32) n))))

/-- Latch instructions on an owned latch have the effect of the table and go on; operations of one cycle combine in the order of the rule. At an instruction that the sequencer can issue, with an opcode that is not reserved, on a latch in the
ranges of its span whose cycle nothing holds open, with reserved bits and an unused value zero: the sequencer goes 32 bytes on, and SIGNAL
(value not 0) adds its value, RESET clears the counter and sets the target, REARM subtracts the target; then waits on the latch are
evaluated. A WAIT on a latch of its own home that is met changes nothing more; one that is not shows the sequencer waiting on it, and one on
a latch elsewhere registers there too. An operation marked with more of the same cycle only joins that cycle (log entry 59). When the cycle
ends, the RESET of the highest identity stands, then the SIGNALs add up, then the REARMs subtract. No count passes its limits here. (R144,
R146, R147, R148, R77) -/
def Obligations.LatchInstructionsTakeEffect : Prop :=
    (∀ (n : CellId) (w : Inst256) (s : State), s.ready n → reservedOp (bits w 7 0) = false → bits w 15 8 = 0 → bits w 255 64 = 0 →
      (let l := bits w 31 16
       let v := bits w 63 32
       let t := s.advance n
       let shown := ((t.modCell n fun c => { c with waitL := some l }).wr Fld.celStatus_waiting 1 n).wr Fld.celStatus_waitLatch l n
       s.ownsLatch (s.cellSpan n) l = true →
        ((∀ o ∈ s.latchOps, o.latch ≠ l) →
          (v ≠ 0 → s.counter l + v ≤ 0xFFFFFFFF →
            exec (.signal n ⟨w, false⟩) s = .next ((t.setLatch l (s.counter l + v) (s.target l)).evalLatch l)) ∧
          exec (.reset n ⟨w, false⟩) s = .next ((t.setLatch l 0 v).evalLatch l) ∧
          (v = 0 → s.target l ≤ s.counter l →
            exec (.rearm n ⟨w, false⟩) s = .next ((t.setLatch l (s.counter l - s.target l) (s.target l)).evalLatch l)) ∧
          (v = 0 → State.latchHome l = n → s.met l = true → exec (.wait n ⟨w, false⟩) s = .next t) ∧
          (v = 0 → State.latchHome l = n → s.met l = false → exec (.wait n ⟨w, false⟩) s = .next shown) ∧
          (v = 0 → State.latchHome l ≠ n → exec (.wait n ⟨w, false⟩) s = .next (shown.register n l .seq))) ∧
        (let joined := fun (k : LatchOpKind) (x : Nat) =>
           ({ t with latchOps := s.latchOps ++ [{ latch := l, kind := k, who := cellIdent n, value := x }] } : State)
         (v ≠ 0 → exec (.signal n ⟨w, true⟩) s = .next (joined .signal v)) ∧
         exec (.reset n ⟨w, true⟩) s = .next (joined .reset v) ∧
         (v = 0 → exec (.rearm n ⟨w, true⟩) s = .next (joined .rearm 0))))) ∧
    (∀ (s : State) (l : Nat) (r : Option LatchOp), l < 65536 →
      (let mine := s.latchOps.filter fun o => o.latch == l
       let rearms := (mine.filter fun o => o.kind == .rearm).length
       let top := match r with
         | none => ∀ o ∈ mine, o.kind ≠ .reset
         | some x => x ∈ mine ∧ x.kind = .reset ∧ ∀ o ∈ mine, o.kind = .reset → o ≠ x → o.who < x.who
       let sum := (r.elim (s.counter l) fun _ => 0) + ((mine.filter fun o => o.kind == .signal).map fun o => o.value).sum
       let tgt := r.elim (s.target l) fun x => x.value % 2 ^ 32
       top → sum ≤ 0xFFFFFFFF → rearms * tgt ≤ sum →
         (s.settleLatch l).counter l = sum - rearms * tgt ∧ (s.settleLatch l).target l = tgt ∧
         (s.settleLatch l).latchOps = s.latchOps.filter fun o => !(o.latch == l)))

/-- A signal past 0xFFFF_FFFF holds there, a rearm below the target clears, and each is counted and logged. At an instruction that the sequencer
can issue, with an opcode that is not reserved, on an owned latch whose cycle nothing holds open: a SIGNAL that would carry the counter past
0xFFFF_FFFF leaves it there, and a REARM of a counter below its target sets it to 0. Either adds 1 to LAT_ERR_CNT and writes LAT_ERR_LOG when
the count reads 0; the sequencer goes on like after any other latch instruction. (R145) -/
def Obligations.LatchesHoldAtTheirLimits : Prop :=
    ∀ (n : CellId) (w : Inst256) (s : State), s.ready n → reservedOp (bits w 7 0) = false → bits w 15 8 = 0 → bits w 255 64 = 0 →
    (let l := bits w 31 16
     let v := bits w 63 32
     let t := s.advance n
     let logged := fun (u : State) (cause : Nat) =>
       (if u.rd Fld.latErrCnt_count = 0 then
          u.setReg .latErrLog 0 0 (BitVec.ofNat 64 (l * 2 ^ 48 + cause * 2 ^ 40 + cellIdent n * 2 ^ 32 + u.stamp16)) else u).bump Fld.latErrCnt_count
     s.ownsLatch (s.cellSpan n) l = true → (∀ o ∈ s.latchOps, o.latch ≠ l) →
      (v ≠ 0 → 0xFFFFFFFF < s.counter l + v →
        exec (.signal n ⟨w, false⟩) s = .next ((logged (t.setLatch l 0xFFFFFFFF (s.target l)) 1).evalLatch l)) ∧
      (v = 0 → s.counter l < s.target l →
        exec (.rearm n ⟨w, false⟩) s = .next ((logged (t.setLatch l 0 (s.target l)) 2).evalLatch l)))

/-- A latch that is set reads its new counter and target, and every other latch stays. For every latch number below 65,536: after a latch is
set, its counter and target read the values modulo 2^32, and every other latch reads as before. (R21, R144) -/
def Obligations.SetLatchReadsBack : Prop :=
    ∀ (s : State) (l k c t : Nat), l < 65536 → k < 65536 →
    (s.setLatch l c t).counter l = c % 2 ^ 32 ∧ (s.setLatch l c t).target l = t % 2 ^ 32 ∧
    (k ≠ l → (s.setLatch l c t).counter k = s.counter k ∧ (s.setLatch l c t).target k = s.target k)

/-- An illegal instruction does nothing but halt its sequencer before it, with its address and cause recorded if it is the first. A reserved
opcode of the class (cause 0x01), a latch instruction with a reserved bit or an unused value set or a SIGNAL of 0 (0x02), a latch instruction
on a latch outside the ranges of its span (0x07, which also sets latch_range), a matrix or side-path instruction with a cause of the table, a
MOVE with a reserved bit or a count outside 1 to 64, and a vector instruction with a reserved rounding mode (0x02; that cause and those of
out-of-range fields are the model's, log entries 62 and 89): the sequencer halts where it stands, CEL_FLAGS.illegal is set, address and cause
are recorded when it was clear, steward firmware is told, and nothing else happens. The code of the notice to firmware is the model's (log
entry 28). (R73, R77, R78, R86, R110) -/
def Obligations.IllegalInstructionsHalt : Prop :=
    ∀ (n : CellId) (w : Inst256) (more : Bool) (errs : ReadErrs) (s : State), s.ready n →
    (let halted := fun (cause : Nat) =>
       let t := if cause = 7 then s.wr Fld.celFlags_latchRange 1 n else s
       let t := if t.flag Fld.celFlags_illegal n then t else (t.setReg .celFaultPc n 0 (s.reg .celPc n)).wr Fld.celFaultCause_cause cause n
       let t := (t.wr Fld.celFlags_illegal 1 n).setReg .celPc n 0 (s.reg .celPc n)
       let t := (t.wr Fld.celStatus_running 0 n).wr Fld.celStatus_halted 1 n
       ({ t with notes := t.notes ++ [(1, n.val)] } : State)
     let known := reservedOp (bits w 7 0) = false
     let l := bits w 31 16
     let v := bits w 63 32
     (reservedOp (bits w 7 0) = true →
       exec (.signal n ⟨w, more⟩) s = .next (halted 1) ∧ exec (.wait n ⟨w, more⟩) s = .next (halted 1) ∧ exec (.reset n ⟨w, more⟩) s = .next (halted 1) ∧
       exec (.rearm n ⟨w, more⟩) s = .next (halted 1) ∧ exec (.move n ⟨w, errs, none⟩) s = .next (halted 1) ∧
       exec (.matrixInstruction n ⟨w, errs⟩) s = .next (halted 1) ∧ exec (.sidePathInstruction n ⟨w, errs⟩) s = .next (halted 1)) ∧
     (known → (bits w 15 8 ≠ 0 ∨ bits w 255 64 ≠ 0) →
       exec (.signal n ⟨w, more⟩) s = .next (halted 2) ∧ exec (.wait n ⟨w, more⟩) s = .next (halted 2) ∧
       exec (.reset n ⟨w, more⟩) s = .next (halted 2) ∧ exec (.rearm n ⟨w, more⟩) s = .next (halted 2)) ∧
     (known → (v = 0 → exec (.signal n ⟨w, more⟩) s = .next (halted 2)) ∧
       (v ≠ 0 → exec (.wait n ⟨w, more⟩) s = .next (halted 2) ∧ exec (.rearm n ⟨w, more⟩) s = .next (halted 2))) ∧
     (known → bits w 15 8 = 0 → bits w 255 64 = 0 → s.ownsLatch (s.cellSpan n) l = false →
       exec (.reset n ⟨w, more⟩) s = .next (halted 7) ∧ (v ≠ 0 → exec (.signal n ⟨w, more⟩) s = .next (halted 7)) ∧
       (v = 0 → exec (.wait n ⟨w, more⟩) s = .next (halted 7) ∧ exec (.rearm n ⟨w, more⟩) s = .next (halted 7))) ∧
     (∀ cause, known → s.matrixCause n (Mx.withOp w 0x40) false = some cause →
       exec (.matrixInstruction n ⟨w, errs⟩) s = .next (halted cause)) ∧
     (∀ cause, known → s.matrixCause n (Mx.withOp w 0x41) true = some cause →
       exec (.sidePathInstruction n ⟨w, errs⟩) s = .next (halted cause)) ∧
     (known → (bits w 15 14 ≠ 0 ∨ bits w 255 40 ≠ 0 ∨ bits w 39 32 = 0 ∨ 64 < bits w 39 32) →
       exec (.move n ⟨w, errs, none⟩) s = .next (halted 2)) ∧
     (∀ v : VectorInst, rndOf v.rnd = none → exec (.vectorInstruction n ⟨v, errs⟩) s = .next (halted 2)))

/-- CEL_START starts a stream only on an idle cell with run set; a stop request halts; a seed sets the generator; waits end. From inside the
device, on a powered cell: CEL_START with run set and the sequencer idle starts the stream that its valid plain linear pool handle names, at
its offset, and with any other handle is illegal with cause 0x06; otherwise it only sets start_busy. A stop request halts a running sequencer
that neither waits nor stalls nor holds half a dual pair. CEL_RNG_SEED sets the generator to the value, or to 0x9E3779B9 for 0. The
notification of a remote wait ends it, and a refused registration is repeated. (R76, R110, R529, R148) -/
def Obligations.StreamsStartAndStop : Prop :=
    (∀ (w : Ident) (n : CellId) (s : State), inside w → s.cellOn n = true →
      (∀ v : BitVec 32, s.flag Fld.celCtrl_run n = true → s.flag Fld.celStatus_running n = false →
        (let pc : Word := BitVec.ofNat 64 (nbits v.toNat 31 8 % 2 ^ 24 / 32 * 32 * 256 + nbits v.toNat 5 0)
         (∀ view, s.streamView n (nbits v.toNat 5 0) = some view → exec (.celStart w n v) s = .next
           ((((s.modCell n fun c => { c with stream := some view, loops := [], dual := none, stopReq := false }).setReg .celPc n 0 pc).wr
             Fld.celStatus_running 1 n).wr Fld.celStatus_halted 0 n)) ∧
         (s.streamView n (nbits v.toNat 5 0) = none → exec (.celStart w n v) s = .next
           ((if s.flag Fld.celFlags_illegal n then s else (s.setReg .celFaultPc n 0 pc).wr Fld.celFaultCause_cause 0x06 n).wr
             Fld.celFlags_illegal 1 n)))) ∧
      (∀ v : BitVec 32, (s.flag Fld.celCtrl_run n = false ∨ s.flag Fld.celStatus_running n = true) →
        exec (.celStart w n v) s = .next (s.wr Fld.celFlags_startBusy 1 n)) ∧
      (s.flag Fld.celStatus_running n = true → s.flag Fld.celStatus_waiting n = false → (s.cell n).stall = none → (s.cell n).dual = none →
        exec (.stopReq w n) s = .next ((s.wr Fld.celStatus_running 0 n).wr Fld.celStatus_halted 1 n)) ∧
      (∀ v : BitVec 32, exec (.celRngSeedWrite w n v) s = .next
        (s.modCell n fun c => { c with rng := if v = 0 then 0x9E3779B9 else v }))) ∧
    (∀ (e : Fin 57) (i : Nat) (x : RemoteWait) (s : State), (s.waitsOf e)[i]? = some x →
      (x.st = .notified →
        (let t := s.modWaits e fun l => l.filter fun y => !(y == x)
         exec (.waitNotification ⟨e, i⟩) s = .next (t.wake e x.by_) ∧
         (x.by_ = .seq → e.val < 56 → (s.cell e).stopReq = false → (s.cell e).sideMet = none → exec (.waitNotification ⟨e, i⟩) s = .next
           (((t.modCell e fun c => { c with waitL := none }).wr Fld.celStatus_waiting 0 e).wr Fld.celStatus_waitLatch 0 e)))) ∧
      (x.st = .refused → exec (.waiterRegistrationRetry ⟨e, i⟩) s = .next (s.register e x.latch x.by_)))

/-- HND_HI stages its word; HND_LO installs both words together, or an invalid entry when the check fails. From inside the device, on a powered
cell: a write of HND_HI changes only the staged word. A write of HND_LO with valid 0, or that passes the check, puts the staged high word
and the written low word into the entry; one that fails it installs the entry with valid 0 and sets hnd_bad, and keeps the handle number
when that flag was clear. (R107, R108) -/
def Obligations.HandlesInstallTogether : Prop :=
    ∀ (w : Ident) (n : CellId) (h : Fin 64) (v : Word) (s : State), inside w → s.cellOn n = true →
    (let hi := (SMap.get none (s.cell n).hiStage h).getD (s.reg .hndHi n h)
     exec (.hndHiWrite w n h v) s = .next (s.modCell n fun c => { c with hiStage := SMap.put none c.hiStage h (some v) }) ∧
     ((bit v 0 = false ∨ handleOk v hi = true) → exec (.hndLoWrite w n h v) s = .next ((s.setReg .hndHi n h hi).setReg .hndLo n h v)) ∧
     (bit v 0 = true → handleOk v hi = false → s.flag Fld.poolStatus_hndBad n = false → exec (.hndLoWrite w n h v) s = .next
       ((((s.setReg .hndHi n h hi).setReg .hndLo n h (setBits v 0 0 0)).wr Fld.poolStatus_hndBad 1 n).wr Fld.poolStatus_hndIdx h n)) ∧
     (bit v 0 = true → handleOk v hi = false → s.flag Fld.poolStatus_hndBad n = true → exec (.hndLoWrite w n h v) s = .next
       ((s.setReg .hndHi n h hi).setReg .hndLo n h (setBits v 0 0 0))))

/-- Legal matrix, side-path and vector instructions go to their engines, and a completed one writes its result and signals. At an instruction
that the sequencer can issue: a legal matrix instruction of a single shape that no incomplete one holds back joins the array and the
sequencer goes on; a first dual instruction is held for its second, and both join the array when the second agrees with it. One that finds
the array empty and waits on no latch is prepared, with its operands as they stand (log entry 60). A legal side-path instruction whose latch,
if it waits on one, is its own cell's and met, and whose operands are sound, writes its result, goes on and signals. The oldest prepared
matrix instruction with sound operands writes its result, leaves the array, is counted with its cycles, except as the east half of a pair,
and signals. A vector instruction with legal rounding, length and handles and sound operands has its result written and goes on; EXP2 into an
FP32 destination is spelled out. Words corrected in the reads are counted. (R85, R74, R89, R90, R94, R97, R44, R87, R119) -/
def Obligations.EnginesCompleteTheirInstructions : Prop :=
    ∀ (n : CellId) (s : State),
    (∀ (w : Inst256) (errs : ReadErrs), reservedOp (bits w 7 0) = false →
      (let m := Mx.withOp w 0x40
       s.matrixCause n m false = none →
        (s.ready n → hazard (s.cell n).jobs (Mx.reads m) (Mx.writes m) = false →
          (Mx.shape m ≠ 1 → exec (.matrixInstruction n ⟨w, errs⟩) s = .next (((s.putJob n m (s.pc n) errs).advance n).arrayGo n) ∧
            (∀ p, (s.cell n).jobs = [] → bit m 224 = false → s.prepare n m false errs = .inr p →
              ((((s.putJob n m (s.pc n) errs).advance n).arrayGo n).cell n).jobs =
                [{ id := (s.cell n).nextJob, w := m, pc := s.pc n, errs, waiting := false, prep := some p }])) ∧
          (Mx.shape m = 1 → bit m 14 = false → exec (.matrixInstruction n ⟨w, errs⟩) s = .next
            ((s.modCell n fun c => { c with dual := some (m, s.pc n, errs) }).advance n))) ∧
        (∀ a apc aerrs, s.issues n = true → (s.cell n).dual = some (a, apc, aerrs) → Mx.dualAgree a m = true →
          hazard (s.cell n).jobs (Mx.reads a ++ Mx.reads m) (Mx.writes a ++ Mx.writes m) = false →
          exec (.matrixInstruction n ⟨w, errs⟩) s = .next
            (((((s.modCell n fun c => { c with dual := none }).putJob n a apc aerrs).putJob n m (s.pc n) errs).advance n).arrayGo n))) ∧
      (let m := Mx.withOp w 0x41
       let u := s.modCell n fun c => { c with sideMet := none }
       let t := u.corrected n errs.corrected
       let l := bits m 207 192
       ∀ p, s.ready n → s.matrixCause n m true = none → hazard (s.cell n).jobs (Mx.reads m) (Mx.writes m) = false → (s.cell n).sideMet = none →
        (bit m 224 = true → State.latchHome l = n ∧ s.met l = true ∧ ∀ o ∈ s.latchOps, o.latch ≠ l) →
        u.prepare n m true errs = .inr p → t.operandUe n m p errs = none →
        exec (.sidePathInstruction n ⟨w, errs⟩) s = .next (((t.writeResult n m p).advance n).signalDone n m))) ∧
    (∀ j rest p, (s.cell n).jobs = j :: rest → j.prep = some p → (s.corrected n j.errs.corrected).operandUe n j.w p j.errs = none →
      exec (.matrixComplete n) s = .next
      (let t := (((s.corrected n j.errs.corrected).writeResult n j.w p).leaveArray n).bump64 Fld.arrInstr_count n
       (if bit j.w 14 then t else t.bump64 Fld.arrBusy_count n 0 (State.streamCycles j.w)).signalDone n j.w)) ∧
    (∀ (v : VectorInst) (errs : ReadErrs) (r : Rounding) (vs : List View) (d : View), s.ready n → rndOf v.rnd = some r →
      (v.op ∈ [VectorOp.add, .mul, .fma, .div] → r ≠ .sr) → (∀ k, v.op = .topK k → k ≤ 256) → (v.op.reduces = true → v.len ≤ 262144) →
      hazard (s.cell n).jobs (v.sources.map (· % 64)) [v.hd % 64] = false → errs.parity = none →
      (v.sources.map fun h => s.vectorSource n h v.len) = vs.map some → s.vectorDest n v.hd v.outLen r = some d →
      (s.corrected n errs.corrected).vectorUe n v vs errs = none →
      (let t := s.corrected n errs.corrected
       exec (.vectorInstruction n ⟨v, errs⟩) s = .next ((t.vectorRun n v r vs d).advance n) ∧
       (∀ a, v.op = .exp2 → vs = [a] → d.fmt = 0 → exec (.vectorInstruction n ⟨v, errs⟩) s = .next
         (let q := t.vectorRead n a v.len
          (q.2.modCell n fun c => { c.store d 0 (pack 0 ((q.1.map exp2F32).map (·.toNat))) with rng := (q.2.cell n).rng }).advance n))))

/-- A parity error fences the array; the scrubber corrects and counts, or raises a cell fault; a read of an uncorrectable word raises one. With a prepared matrix instruction at the head of the array, a parity error records it (when it is
the first fault), sets array_par, leaves free values in the partial sums of the instruction, or of both halves of a dual pair, drops what
else the array was given without its signals, lets what stands in the landing buffer in, halts the sequencer and raises a cell fault that
fences the array alone (log entry 71). A scrub read of a powered cell with scrub_en set moves the position on; a corrected line is counted in
POOL_ECC_CE; an uncorrectable one marks its line, is counted and raises a memory fault. A vector instruction whose sources meet an
uncorrectable word goes on to the fault without a result. (R100, R120, R122, R493) -/
def Obligations.ArrayAndMemoryFaults : Prop :=
    ∀ (n : CellId) (s : State),
    (∀ j r, (s.cell n).jobs = j :: r → j.prep.isSome = true → exec (.arrayParityError n) s = .next
      (let t := if !s.flag Fld.celFlags_illegal n && !s.flag Fld.celFlags_arrayPar n then
           (s.setReg .celFaultPc n 0 j.pc).wr Fld.celFaultCause_cause 0x10 n else s
       let t := t.wr Fld.celFlags_arrayPar 1 n
       let t := forEach ((s.cell n).jobs.take (State.groupLen (s.cell n).jobs)) (fun j t => t.spoil n j) t
       let t := ((t.dropJobs n 0).drainLanding n).wr Fld.celStatus_arrayBusy 0 n
       ((t.wr Fld.celStatus_running 0 n).wr Fld.celStatus_halted 1 n).cellFault n 0x01 false)) ∧
    (s.cellOn n = true → s.flag Fld.poolCfg_scrubEn n = true →
      (let m := s.rd Fld.poolScrubPos_mem n
       let l := s.rd Fld.poolScrubPos_line n
       let k := if m = 2 then 1 * 2 ^ 18 + 4096 + l else m * 2 ^ 18 + l
       let nx := State.nextScrub m l
       let t := (s.wr Fld.poolScrubPos_mem nx.1 n).wr Fld.poolScrubPos_line nx.2 n
       ((s.cell n).poison.contains k = false →
         exec (.poolScrubRead n .clean) s = .next t ∧
         exec (.poolScrubRead n .corrected) s = .next (t.bump Fld.poolEccCe_count n) ∧
         ∀ wd syn, exec (.poolScrubRead n (.uncorrectable wd syn)) s = .next
           (((t.modCell n fun c => c.poisonLines [k]).poolUe n k wd (some syn)).memFault n k)) ∧
       ((s.cell n).poison.contains k = true → ∀ e, exec (.poolScrubRead n e) s = .next ((t.poolUe n k 0 none).memFault n k)))) ∧
    (∀ (v : VectorInst) (errs : ReadErrs) (vs : List View) (d : View) (e : Nat × Nat × Option Nat), s.ready n → rndOf v.rnd = some .rne →
      (∀ k, v.op ≠ .topK k) → v.op.reduces = false → hazard (s.cell n).jobs (v.sources.map (· % 64)) [v.hd % 64] = false → errs.parity = none →
      (v.sources.map fun h => s.vectorSource n h v.len) = vs.map some → s.vectorDest n v.hd v.outLen .rne = some d →
      (s.corrected n errs.corrected).vectorUe n v vs errs = some e → exec (.vectorInstruction n ⟨v, errs⟩) s = .next
        (((s.corrected n errs.corrected).advance n).readFault n e))

/-- MOVE issues its descriptors; a move in flight completes with its data, record and signal; a leg delivers; a replay is counted. A MOVE with a
linear pool handle that holds its descriptors goes on and issues them in order. A descriptor that steward firmware or a step sequencer pushes
is taken while its pool has room, and else waits (log entry 67). A move that nothing holds back and whose reads meet no error carries over
what is left of its data and leaves flight with its status, or keeps its status while its destination object moves; one whose reads meet
errors completes after they are met, and what they do to their channels follows. A failed one ends with 0x11; one whose held writes are done
ends with the status it kept; a piece that a walker delivers completes like a move. A fetch leg that is next of its
move delivers its tile. A flit replay is counted and flagged; the sixteenth in a row takes the link down, logs the fault under identity 0x00
(the number of the link is log entry 70's) and requests a reset. (R135, R136, R137, R138, R139, R140, R142, R168, R171, R129) -/
def Obligations.MovesIssueAndComplete : Prop :=
    ∀ (s : State),
    (∀ (n : CellId) (w : Inst256) (v : View) (errs : ReadErrs), s.ready n → reservedOp (bits w 7 0) = false → bits w 15 14 = 0 →
      bits w 255 40 = 0 → 1 ≤ bits w 39 32 → bits w 39 32 ≤ 64 → hazard (s.cell n).jobs [bits w 13 8] [] = false → errs.parity = none →
      s.resolve n (bits w 13 8) = some v → v.mem = 0 → v.rmode = 0 → v.holds (bits w 31 16 * 64) (bits w 39 32 * 64) = true →
      exec (.move n ⟨w, errs, none⟩) s = .next (((s.advance n).corrected n errs.corrected).issueMoves n v
        { errs with bad := errs.bad.map fun e => (e.1, bits w 31 16 + e.2.1, e.2.2) } (bits w 31 16) (bits w 39 32))) ∧
    (∀ (n : CellId) (w : Inst256) (errs : ReadErrs) (who : Ident) (d : BitVec 512),
      ((0x10 ≤ who.toNat ∧ who.toNat ≤ 0x17) ∨ (0x30 ≤ who.toNat ∧ who.toNat ≤ 0x37)) →
      (s.moveRoom 56 d = true → exec (.move n ⟨w, errs, some (who, d)⟩) s = .next (s.acceptMove 56 who.toNat d)) ∧
      (s.moveRoom 56 d = false → exec (.move n ⟨w, errs, some (who, d)⟩) s = .next
        (s.modTier fun t => { t with pushes := t.pushes ++ [(who.toNat, d)] }))) ∧
    (∀ (n : Fin 57) (i : Nat) (m : Move) (errs : List (Nat × EccOutcome)), (s.movesOf n)[i]? = some m →
      (n.val < 56 → s.cellFenced n = false) →
      (let t := s.linksFresh n
       let lost := (descObjs m.desc).any fun o => (s.obj o).e.st == stLost
       ((m.failed = true ∨ lost = true) → exec (.moveComplete n ⟨i, []⟩) s = .next (t.endMove n m 0x11)) ∧
       (m.failed = false → lost = false → m.waiting = false → m.legs = 0 → s.behind n m = false → s.arrayHolds m = false → m.held = none →
         (let r := t.carryAll n m false [] (Desc.count m.desc - m.done)
          let st := if r.1.poison then 0x02 else if r.1.fmtExc + r.1.codErr ≠ 0 then 0x01 else 0x00
          exec (.moveComplete n ⟨i, []⟩) s = .next
            (if r.2.dstMoving r.1 then r.2.putMove n { r.1 with held := some st } else r.2.endMove n r.1 st)) ∧
         exec (.moveComplete n ⟨i, errs⟩) s = .next
           (forEach (errs.filterMap fun x => (t.srcAddr m x.1).map fun a => (a, x.2)) (fun x t => t.dramRead x.1 x.2)
             ((t.meetSource m errs).completeMove n m errs))) ∧
       (∀ st, m.failed = false → lost = false → m.waiting = false → m.legs = 0 → s.behind n m = false → s.arrayHolds m = false →
         m.held = some st → s.dstMoving m = false → exec (.moveComplete n ⟨i, []⟩) s = .next (t.endMove n m st)))) ∧
    (∀ (n : Fin 57) (i : Nat) (p : PieceMove), (s.movesOf n)[i]? = none → (s.piecesTo n)[i - (s.movesOf n).length]? = some p →
      (n.val < 56 → s.cellFenced n = false) → p.leg = false → (State.inWeights p.view = true → s.dualRuns n = false) →
      exec (.moveComplete n ⟨i, []⟩) s = .next
        ((s.linksFresh n).finishPiece p [])) ∧
    (∀ leg ns bad l, s.tier.legs.find? (fun l => l.id == leg) = some l → s.legNext l = true →
      exec (.fetchLegComplete leg ns bad) s = .next ((s.legDone l ns (bad || l.bad)).runJobs)) ∧
    (∀ (n : CellId) (dir : Fin 5),
      (let k := n.val * 5 + dir.val
       let c := SMap.get 0 s.meshRetry k + 1
       let t : State := { (s.bump Fld.mshLinkRetry_count).wr Fld.mshStatus_linkRetry 1 with meshRetry := SMap.put 0 s.meshRetry k c }
       (c < 16 → exec (.flitCrcFail n dir) s = .next t) ∧
       (16 ≤ c → s.flag Fld.mshStatus_linkDown = false → exec (.flitCrcFail n dir) s = .next
         (((t.wr Fld.mshStatus_linkDown 1).keyFault 0x06 0 k).requestReset .meshLink))))

/-- An object move ends with the object at its new home; an eviction moves a free object or is deferred; a timeout loses it. The end of the move
of an object that the tier engine carries, with its slot, its tiles delivered and no read against its old home, copies it where both homes are
T1 and puts it at its new home with what it held; what reads of T1 meet is poisoned before the copy and told to its channel after it. The
factor object of a running adapter load takes its bytes from the pack and counts for the load. An eviction of a MOVING object defers it and is
counted; of a RESIDENT evictable object without pins to a tier with room it starts the move; of a pinned one it is given up. A completion
timeout of a T3 leg is reported on its port, loses the object, and ends the leg. (R142, R164, R165, R173, R502) -/
def Obligations.ObjectsMoveBetweenTiers : Prop :=
    ∀ (s : State) (o : Nat),
    ((s.obj o).pack = none → (s.obj o).e.st = stMoving → (s.obj o).load = 0 → (s.obj o).slot = true →
      ((s.obj o).byLegs = true → (s.obj o).e.tiles ≤ (s.obj o).got) → s.readsOut o = false →
      exec (.objectMoveEnd ⟨o, []⟩) s = .next (((s.copyHome o).arrive o).drainArrivals o) ∧
      (∀ errs : List (Nat × EccOutcome),
        (let bad := errs.filterMap fun e => match e.2 with | .uncorrectable _ _ => some e.1 | _ => none
         let a := (s.obj o).e.addr
         ((s.obj o).e.home ≠ 1 → exec (.objectMoveEnd ⟨o, errs⟩) s = .next (((s.copyHome o).arrive o).drainArrivals o)) ∧
         ((s.obj o).e.home = 1 → exec (.objectMoveEnd ⟨o, errs⟩) s = .next
           ((forEach errs (fun e t => t.dramRead (a + e.1 * 64) e.2) (((s.poisonT1 a bad).copyHome o).arrive o)).drainArrivals o))))) ∧
    (∀ src off errs, (s.obj o).pack = some (src, off) → (s.obj o).e.st = stMoving → (s.op ((s.obj o).load - 1)).st = 0 →
      ((s.obj src).e.st = stResident ∨ (s.obj src).e.st = stMoving) → exec (.objectMoveEnd ⟨o, errs⟩) s = .next
      (let n := (s.obj o).e.bytes
       let t := (s.dramWrite (s.obj o).destAddr (s.objRead src off n)).poisonT1 (s.obj o).destAddr (s.objPoison src off n)
       ((t.arrive o).modOp ((s.obj o).load - 1) fun q => { q with done := q.done + n }).adapterLoaded ((s.obj o).load - 1))) ∧
    (∀ tier, (s.obj o).e.st = stMoving → exec (.eviction o tier) s = .next
      ((s.modObj o fun x => { x with e := { x.e with defer := true }, deferTo := tier }).bump Fld.tieDeferCnt_count)) ∧
    (∀ tier, (s.obj o).e.st = stResident → (s.obj o).e.pins ≠ 0 → exec (.eviction o tier) s = .next s) ∧
    (∀ tier t, (s.obj o).e.st = stResident → (s.obj o).e.pins = 0 → s.evictable o tier = true → s.placeObj o tier 0 none = some t →
      exec (.eviction o tier) s = .next t) ∧
    (∀ leg l, s.tier.legs.find? (fun l => l.id == leg && l.tier == 3) = some l → exec (.t3CompletionTimeout leg) s = .next
      ((((s.aer l.port .completionTimeout).loseObj l.obj).repeatHolders l.obj).legFail l))

/-- A patrol read counts and corrects, or flags, logs and retires; a finished channel copy switches the slot. With patrol on, a read moves the
position of its channel on. A clean line does nothing more; a corrected one is counted, and a channel above its threshold is retired; an
uncorrectable one is counted, flagged, told to every port and logged when it is the first, its line is poisoned and its frame retired, and one
that comes back at a place rewritten since retires the channel. The end of the oldest copy maps the slot to the spare of its stack and clears
migrating when no other runs. (R180, R181, R183, R184, R126) -/
def Obligations.DramErrorsAreHandled : Prop :=
    ∀ (s : State),
    (∀ ch : Fin 34, s.flag Fld.tieScrub_en = true →
      (let n := SMap.get 0 s.tier.patrol ch
       let t := s.modTier fun t => { t with patrol := SMap.put 0 t.patrol ch ((n + 1) % State.channelLines) }
       exec (.dramPatrolRead ch .clean) s = .next t ∧
       (∀ a b,
         (let u := t.bump Fld.tieDramUe_count 0 ch
          let u := if u.flag Fld.tieStatus_dramUe then u
            else u.setReg .tieDramAddr 0 0 (BitVec.ofNat 64 (ch * 2 ^ 58 + u.periods % 2 ^ 20 * 2 ^ 32 + n))
          let u := (u.wr Fld.tieStatus_dramUe 1).aerAll .correctedInternal
          (t.lineAddr ch n = none → exec (.dramPatrolRead ch (.uncorrectable a b)) s = .next u) ∧
          (∀ x, t.lineAddr ch n = some x →
            (let k := x / 64
             let z := (u.modTier fun t => { t with
               ueAt := t.ueAt.filter (fun e => !(e.1 == k)) ++ [(k, false)], poison := (t.poison ++ [k]).eraseDups }).retireFrame x
             exec (.dramPatrolRead ch (.uncorrectable a b)) s = .next
               (if s.tier.ueAt.any fun e => e.1 == k && e.2 then z.retireChannel ch else z))))) ∧
       (let win := ((SMap.get [] s.tier.ceWin ch) ++ [s.periods]).filter fun p => s.periods < p + max 1 (s.rd Fld.tieCeThresh_periods)
        let u := (t.bump Fld.tieDramCe_count 0 ch).modTier fun x => { x with ceWin := SMap.put [] x.ceWin ch win }
        (win.length ≤ s.rd Fld.tieCeThresh_count → exec (.dramPatrolRead ch .corrected) s = .next u) ∧
        (s.rd Fld.tieCeThresh_count < win.length → exec (.dramPatrolRead ch .corrected) s = .next
          ((u.modTier fun x => { x with ceWin := SMap.put [] x.ceWin ch [] }).retireChannel ch))))) ∧
    (∀ st j rest, s.tier.copies = (st, j) :: rest →
      (let t := (s.modTier fun t => { t with copies := rest }).wr Fld.tieStatus_migrating (if rest = [] then 0 else 1)
       (st = 0 → exec .channelCopyDone s = .next ((t.wr Fld.tieSlotMap_s0Used 1).wr Fld.tieSlotMap_s0Slot j)) ∧
       (st = 1 → exec .channelCopyDone s = .next ((t.wr Fld.tieSlotMap_s1Used 1).wr Fld.tieSlotMap_s1Slot j))))

/-- A descriptor row writes FLC_OP and starts its operation: read, program, erase, relocate, parameter access or die reset. From inside the
device, with fewer than 64 operations queued, each of the ten descriptor rows puts its descriptor, with the operation code of the row, into
FLC_OP and the operation into the controller. What is refused completes at once with 0x05. An accepted read queues at the planes it selects;
a program, an erase and a relocate queue at theirs and start where they can; a parameter operation is carried out and completes (log entry
4), but a write waits while sag_hold is set, and one of a sector that is not its writer's is refused; a DIE_RESET cuts what runs on its die and
completes. With 64 queued only op_full is set. (R191,
R196, R197, R198, R206, R199) -/
def Obligations.FlashDescriptorsAreSubmitted : Prop :=
    ∀ (x : Ident) (w : Inst256) (s : State), inside x →
    (let put := fun (code : Nat) => forEach (List.range 4) (fun i (t : State) =>
       t.setReg .flcOp 0 i (BitVec.ofNat 64 (bits (Fop.withCode w code) (64 * i + 63) (64 * i)))) s
     let op := fun (code : Nat) => ({
       id := s.flash.nextId, writer := x.toNat, w := Fop.withCode w code, left := selected (Fop.withCode w code),
       status := 0, badPl := 0, job := none, leg := none, opened := false, page := 0, target := 0 } : FlashOp)
     let entered := fun (code : Nat) => (put code).modFlash fun f => { f with nextId := s.flash.nextId + 1, ops := f.ops ++ [op code] }
     let refused := fun (code : Nat) => (entered code).flashComplete { op code with status := 5 }
     let formed := fun (code : Nat) => Fop.wellFormed (Fop.withCode w code) Config.flashUnits
     let ok := fun (code : Nat) => formed code = true ∧ s.dieServes (Fop.die w) = true
     let reads := fun (code : Nat) => (forEach (selected w) (fun k t => t.queueRead (Fop.die w) k s.flash.nextId) (entered code)).runJobs
     let queued := fun (f : Plane → Plane) (code : Nat) =>
       (forEach (selected w) (fun k t => t.planeGo (Fop.die w) k)
         (forEach (selected w) (fun k t => t.modPlane (Fop.die w) k f) (entered code))).runJobs
     let waitsP := fun (p : Plane) => { p with waitP := p.waitP ++ [s.flash.nextId] }
     let waitsE := fun (p : Plane) => { p with waitE := p.waitE ++ [s.flash.nextId] }
     let mayWrite := sectorWriter s.key.active s.updating x.toNat (bits w 19 16) = true
     s.flashQueued < 64 →
      (selected w ≠ [] →
        (ok 0x01 → exec (.read x w) s = .next (reads 0x01)) ∧ (ok 0x02 → exec (.readRaw x w) s = .next (reads 0x02)) ∧
        (ok 0x03 → exec (.markCheck x w) s = .next (reads 0x03)) ∧
        (ok 0x10 → s.rowValid (Fop.row w) = false →
          (∀ k ∈ selected w, (entered 0x10).programRefused (Fop.die w) k (Fop.row w) (Fop.page w) = false) →
          exec (.program x w) s = .next (queued waitsP 0x10)) ∧
        (ok 0x20 → exec (.erase x w) s = .next (queued waitsE 0x20)) ∧
        (ok 0x40 → exec (.relocate x w) s = .next (queued waitsE 0x40))) ∧
      (formed 0x30 = true → exec (.paramRead x w) s = .next (((entered 0x30).paramOp (op 0x30)).runJobs)) ∧
      (formed 0x31 = true → mayWrite →
        (s.flag Fld.flcStatus_sagHold = false → exec (.paramProgram x w) s = .next (((entered 0x31).paramOp (op 0x31)).runJobs)) ∧
        (s.flag Fld.flcStatus_sagHold = true → exec (.paramProgram x w) s = .next (entered 0x31).runJobs)) ∧
      (formed 0x32 = true → mayWrite →
        (s.flag Fld.flcStatus_sagHold = false → exec (.paramErase x w) s = .next (((entered 0x32).paramOp (op 0x32)).runJobs)) ∧
        (s.flag Fld.flcStatus_sagHold = true → exec (.paramErase x w) s = .next (entered 0x32).runJobs)) ∧
      (¬mayWrite → exec (.paramProgram x w) s = .next (refused 0x31).runJobs ∧ exec (.paramErase x w) s = .next (refused 0x32).runJobs) ∧
      (formed 0x7F = true →
        exec (.dieReset x w) s = .next ((((entered 0x7F).dieReset (Fop.die w)).flashComplete (op 0x7F)).runJobs)) ∧
      (formed 0x20 = false → exec (.erase x w) s = .next (refused 0x20).runJobs) ∧
      (s.rowValid (Fop.row w) = true → exec (.program x w) s = .next (refused 0x10).runJobs)) ∧
    (64 ≤ s.flashQueued → exec (.read x w) s = .next (((forEach (List.range 4) (fun i (t : State) =>
       t.setReg .flcOp 0 i (BitVec.ofNat 64 (bits (Fop.withCode w 0x01) (64 * i + 63) (64 * i)))) s).wr Fld.flcStatus_opFull 1).runJobs))

/-- Planes suspend, resume, finish, fail and are cut as the table of plane states lays down. Each event in its state: a read at the head of a
plane delivers and its operation goes on; a program or erase suspends after at least one more pulse or segment, within its limit, when a read
waits, for an erase a read or program of another block, and is counted; it resumes when nothing waits; a program that verifies within its
pulses holds its page, an erase that verifies at the end of a pulse its block, and the plane turns to its next work; a pulse limit makes the
block grown-bad and takes a reserve block; under a sag or a reset a running operation is cut; the read counts are saved with the block maps of
both dies. (R200, R201, R203, R206, R208, R210, R211, R214, R222, R223) -/
def Obligations.FlashPlanesFollowTheirTable : Prop :=
    ∀ (d : Fin 2) (k : Fin 64) (s : State),
    (let p := s.plane d k
     (∀ id r o out, s.flag Fld.flcClk_changing = false → (p.st = .idle ∨ p.st = .progSuspended ∨ p.st = .eraseSuspended) → p.reads = id :: r →
       ((s.modPlane d k fun p => { p with reads := r }).fillReads d k 2).flashOp id = some o →
       exec (.arrayReadDone d k out) s = .next
         (let q := ((s.modPlane d k fun p => { p with reads := r }).fillReads d k 2).readResult o d k out
          ((q.2.planeDone id k q.1).planeGo d k).runJobs)) ∧
     (∀ n, n ≠ 0 → p.st = .programming → p.prog.isSome = true → p.reads ≠ [] → p.pulses + n < s.rd Fld.keyFlashLim_progPulses →
       exec (.planeSuspend d ⟨k, n⟩) s = .next
         ((((s.modPlane d k fun p => { p with pulses := p.pulses + n }).modPlane d k fun p => { p with st := .progSuspended }).bump
           Fld.flcSuspCnt_count).runJobs)) ∧
     (∀ n, n ≠ 0 → p.st = .erasing → p.prog = none → (s.otherRead p = true ∨ s.otherProgram p ≠ none) →
       p.segs + n < 10 * s.rd Fld.keyFlashLim_erasePulses →
       exec (.planeSuspend d ⟨k, n⟩) s = .next
         (((((s.modPlane d k fun p => { p with segs := p.segs + n }).modPlane d k fun p => { p with st := .eraseSuspended }).bump
           Fld.flcSuspCnt_count).planeGo d k).runJobs)) ∧
     (p.reads = [] → p.st = .progSuspended → exec (.planeResume d k) s = .next ((s.modPlane d k fun p => { p with st := .programming }).runJobs)) ∧
     (p.reads = [] → p.st = .eraseSuspended → s.otherProgram p = none →
       exec (.planeResume d k) s = .next ((s.modPlane d k fun p => { p with st := .erasing }).runJobs)) ∧
     (∀ id o n, (p.st = .programming ∨ p.st = .eraseSuspProg) → p.prog = some id → s.flashOp id = some o → n ≠ 0 →
       p.pulses + n ≤ s.rd Fld.keyFlashLim_progPulses →
       (Fop.code o.w ≠ 0x40 → exec (.programVerifyPass d ⟨k, n⟩) s = .next
         (let phys := s.physOf d k (Fop.row o.w)
          let t := s.pageWrite d k phys (Fop.page o.w) (s.programData o k)
          let t := t.modBlock d k phys fun b => { b with next := Fop.page o.w + 1 }
          (((t.modPlane d k fun p => State.Plane.without p id).planeDone id k 0).planeGo d k).runJobs)) ∧
       (Fop.code o.w = 0x40 → exec (.programVerifyPass d ⟨k, n⟩) s = .next ((s.relocateStep o d k).runJobs))) ∧
     (∀ id o n, p.st = .erasing → p.ers = some id → s.flashOp id = some o → Fop.code o.w = 0x20 → n ≠ 0 → (p.segs + n) % 10 = 0 →
       p.segs + n ≤ 10 * s.rd Fld.keyFlashLim_erasePulses →
       exec (.eraseVerifyPass d ⟨k, n⟩) s = .next
         (let phys := s.physOf d k (Fop.row o.w)
          let t := (s.blockWipe d k phys).modBlock d k phys fun _ => {}
          let t := t.modFlash fun x => { x with needs := x.needs.filter fun n => !(n == (d.val, Fop.row o.w, k.val)) }
          (((t.modPlane d k fun p => State.Plane.without p id).planeDone id k 0).planeGo d k).runJobs)) ∧
     (∀ id o, p.prog = some id → s.flashOp id = some o → Fop.code o.w = 0x10 → Fop.row o.w < Config.flashUnits →
       exec (.pulseLimitReached d k) s = .next
       (let row := Fop.row o.w
        let phys := s.physOf d k row
        let t := (((s.flashLog 1 d k row (Fop.page o.w)).wr Fld.flcStatus_fail 1).scanDie d).markBad d k phys 1
        let r := t.replaceBlock d k row
        (((r.2.modPlane d k fun p => State.Plane.without p id).planeDone id k (if r.1 then 2 else 3)).planeGo d k).runJobs)) ∧
     (∀ id o, p.prog = none → p.ers = some id → s.flashOp id = some o → Fop.code o.w = 0x20 → Fop.row o.w < Config.flashUnits →
       exec (.pulseLimitReached d k) s = .next
       (let row := Fop.row o.w
        let phys := s.physOf d k row
        let t := (((s.flashLog 2 d k row (Fop.page o.w)).wr Fld.flcStatus_fail 1).scanDie d).markBad d k phys 2
        let r := t.replaceBlock d k row
        let u := if r.1 then
            (r.2.eraseBlock d k row (r.2.physOf d k row)).modFlash fun x =>
              { x with needs := x.needs.filter fun n => !(n == (d.val, row, k.val)) }
          else r.2
        (((u.modPlane d k fun p => State.Plane.without p id).planeDone id k (if r.1 then 2 else 3)).planeGo d k).runJobs)) ∧
     (∀ id, (s.flag Fld.flcStatus_sagHold = true ∨ s.key.inReset.isSome = true) →
       (p.prog = some id → p.ers = none → exec (.operationCut d k) s = .next ((s.cutOp id).runJobs)) ∧
       (p.prog = none → p.ers = some id → exec (.operationCut d k) s = .next ((s.cutOp id).runJobs)))) ∧
    exec .readCountSave s = .next ((s.writeTable 0).writeTable 1)

/-- A write of FLC_CLK or FLC_WAIT that breaks the limits sets wait_bad; one that keeps them takes effect. From inside the device: a clock write
whose frequency the supply allows and whose least read wait the present rd_cycles meets shows the new clock as changing; a wait write at or
above the least of the present clock sets rd_cycles and the worst-case latency. Any other write only sets wait_bad. The switch clears
changing and sets the latency again. (R193, R194, R195, R207) -/
def Obligations.FlashClockKeepsItsLimits : Prop :=
    ∀ (w : Ident) (v : BitVec 32) (s : State), inside w →
    (let f := nbits v.toNat 2 0
     let q := nbits v.toNat 4 4
     (∀ m, minWait f q = some m → m ≤ s.rd Fld.flcWait_rdCycles → exec (.flcClkWrite w v) s = .next
       ((((s.wr Fld.flcClk_freq f).wr Fld.flcClk_vccq q).wr Fld.flcClk_changing 1).modFlash fun x => { x with clkTo := some (f, q) })) ∧
     ((∀ m, minWait f q = some m → s.rd Fld.flcWait_rdCycles < m) → exec (.flcClkWrite w v) s = .next (s.wr Fld.flcStatus_waitBad 1))) ∧
    (let m := minWait (s.rd Fld.flcClk_freq) (s.rd Fld.flcClk_vccq)
     (∀ n, m = some n → n ≤ nbits v.toNat 5 0 → exec (.flcWaitWrite w v) s = .next
       ((s.wr Fld.flcWait_rdCycles (nbits v.toNat 5 0)).setWclat)) ∧
     ((∀ n, m = some n → nbits v.toNat 5 0 < n) → exec (.flcWaitWrite w v) s = .next (s.wr Fld.flcStatus_waitBad 1))) ∧
    (∀ c, s.flash.clkTo = some c → exec .flcClockSwitch s = .next
      (((s.modFlash fun x => { x with clkTo := none }).wr Fld.flcClk_changing 0).setWclat))

/-- A boundary does its items in order, a step ends with its rows, appends raise fills, lines land, packets relay, items release. In service and
outside LULL, a boundary of a span without a running step does the items of the boundary in their order and starts the next step; one after
an abandoned step resets the span first, and runs the batch again on the copy that it ran on. A step that ends without late objects or faults
gives each request the results and the masses of its rows, unpins its objects, lets what waited for room go on, counts, and leaves the span
without a step. The acknowledgement of a row that is not the last of its layer raises the fill of its page; the last also signals the layer's
append latch, brings the layer's pages to their cells and walks the next layer. A missing page-table line that lands enters the buffer; with
bad parity it is logged. A packet of a load moves to the next cell in role order when it has a credit, at the cell of its role its tile
reaches its home, and the cycles that it waited are counted. A PACED release puts out what is due, of an ended request first. (R237, R239,
R243, R259, R260, R301, R302, R329, R331, R341) -/
def Obligations.StepsRunAtTheirBoundaries : Prop :=
    ∀ (sp : SpanId) (s : State),
    (∀ env, s.running = true → s.lull = false →
      ((s.span sp).batch = none → exec (.stepBoundary sp env) s = .next
        (let faulty := (s.after env.dt).faultMoves sp
         let t := (s.after env.dt).modSpan sp fun x => { x with again := false }
         let t := ((((t.endRequests sp).forcedEnds sp).retireOld sp).unloadDone sp).remap sp env faulty
         let t := (((t.sweepObjs.commitBoundary sp env.deafDies).applyLimits).switchPointer sp).switchAdapters sp
         let t := (t.noteMasks sp).admission sp
         (if (t.span sp).batch.isSome then t else t.compose sp env).writeCommitted sp)) ∧
      (∀ b, (s.span sp).batch = some b → s.abandoned sp = true → exec (.stepBoundary sp env) s = .next
        (let faulty := (s.after env.dt).faultMoves sp
         let t := ((s.after env.dt).spanReset sp).modSpan sp fun x => { x with again := false }
         let t := ((((t.endRequests sp).forcedEnds sp).retireOld sp).unloadDone sp).remap sp env faulty
         let t := ((t.sweepObjs.commitBoundary sp env.deafDies).applyLimits).switchAdapters sp
         let t := ((t.noteMasks sp).admission sp).repeatBatch sp b
         (if (t.span sp).batch.isSome then t else t.compose sp env).writeCommitted sp))) ∧
    (∀ b r, (s.span sp).batch = some b → r.late = none → s.abandoned sp = false → (s.span sp).faults = [] →
      exec (.stepEnd sp r) s = .next
      (let u := s.after r.dt
       let ids := (b.rows.map (·.slot)).dedup
       let rows := b.rows.mapIdx fun k e => (k, e)
       let t := forEach ids (fun i t => t.endSegment i (rows.filter fun e => e.2.slot == i) r (u.rowMasses sp)) u
       let t := (forEach b.pins (fun o t => t.unpin o) (t.dropMasses sp)).pumpAll
       ((t.bump64 Fld.srvSpanStep_steps 0 sp).clrBit Fld.kvwStatus_busy sp).modSpan sp fun x => { x with batch := none, appended := [] })) ∧
    (∀ b c r row l, (s.span sp).batch = some b → s.runningCopy sp = some c → b.rows[row]? = some r → l < c.hdr.layers →
      (s.span sp).appended.contains (row, l) = false →
      (let t := (s.putKvBlock r.slot l { s.kvBlock r.slot l with
          nextPos := max (s.kvBlock r.slot l).nextPos (r.pos + 1)
          entries := (s.kvBlock r.slot l).entries.map fun e =>
            if e.firstPos ≤ r.pos ∧ r.pos < e.firstPos + 16 then { e with fill := max e.fill (r.pos % 16 + 1) } else e }).modSpan sp
        fun x => { x with appended := (row, l) :: x.appended }
       let a := Config.appendLatch c.hdr.modelId c.hdr.generation l
       ((∃ i < b.rows.length, i ≠ row ∧ (s.span sp).appended.contains (i, l) = false) → exec (.appendAck sp row l) s = .next t) ∧
       ((∀ i < b.rows.length, i ≠ row → (s.span sp).appended.contains (i, l) = true) → exec (.appendAck sp row l) s = .next
         (((t.signal (0x38 + sp) (t.roleLatch sp a.1 a.2) 1).issuePieces sp l).walk sp (l + 1))))) ∧
    (∀ (i : Fin 4096) layer line, ((SMap.get [] s.kv.misses sp).take 64).contains (s.labLine i layer line) = true →
      exec (.labMissFill sp i layer line false) s = .next
        ((s.modKv fun k => { k with misses := SMap.put [] k.misses sp ((SMap.get [] k.misses sp).erase (s.labLine i layer line)) }).labInsert sp
          (s.labLine i layer line)) ∧
      exec (.labMissFill sp i layer line true) s = .next ((s.wr Fld.kvwStatus_labPar 1).kvError 1 sp i layer)) ∧
    (∀ role o t i j at_ h waited, s.relayOwner sp (fun h => h.role == role && h.obj == o && h.tile == t) = some (i, j, at_, h) →
      (let u := s.bump Fld.imgRelayStall_count 0 0 waited
       let n := ((s.span sp).building.map (·.hdr.roles)).getD 0
       exec (.relayPacket sp role o ⟨t, false, waited⟩) s = .next (if at_.any fun k => h.role ≠ k ∧ n ≤ k + 1 then u.failLoad i 0x24 else u) ∧
       (at_ = none → exec (.relayPacket sp role o ⟨t, true, waited⟩) s = .next (u.relayWrite sp i { j with todo := j.todo.tail } h)) ∧
       (at_ = some h.role → exec (.relayPacket sp role o ⟨t, true, waited⟩) s = .next (u.relayWrite sp i (State.popHop j h.role) h)) ∧
       (∀ k, at_ = some k → h.role ≠ k → k + 1 < n →
         exec (.relayPacket sp role o ⟨t, true, waited⟩) s = .next
           (if u.hopRoom j (k + 1) h then (u.setLoad i (State.pushHop (State.popHop j k) (k + 1) h)).relayGo i else u)))) ∧
    (∀ (i : Fin 4096) d, d / 65536 ≤ s.periods →
      ((s.leaving.find? fun e => e.1 == i.val) = none → (s.slot i).par.cls = 1 → (s.slot i).st ≠ 0 → (s.slot i).releaseDue = some d →
        exec (.pacedRelease i) s = .next
        (let u := s.atCadence d
         (u.releaseAt i (s.slot i) d).2.modSlot i fun _ => (u.releaseAt i (s.slot i) d).1)) ∧
      (∀ k x, (s.leaving.find? fun e => e.1 == i.val) = some (k, x) → x.releaseDue = some d → exec (.pacedRelease i) s = .next
        (let r := (s.atCadence d).releaseAt i x d
         { r.2 with leaving := if r.1.held.isEmpty then r.2.leaving.erase (i.val, x)
                               else r.2.leaving.map fun e => if e = (i.val, x) then (i.val, r.1) else e })))

/-- Tokenizing, waits, parks, epoch readbacks and training steps end as their rules lay down. Tokenizing of a waiting prompt gives it its tokens
and makes it pending, or ends it. A pending request whose adm_wait has passed leaves with the status of what kept it. A parked request that
nothing else ends and whose park_limit has passed turns ENDING with reason PARK_EXPIRED. A die that has not returned the epoch is written again, and the second time
brings the fault and a reset. A training step with gradients is taken by its job; a lost dataset or checkpoint ends the job with 0x57.
(R254, R257, R270, R279, R373, R374, R490) -/
def Obligations.WaitsOfRequestsAndJobsEnd : Prop :=
    (∀ (p : PortId) (tag : BitVec 16) (tokens : List Nat) (f : Bool) (r : Req) (s : State),
      s.reqs.find? (fun r => r.who.port == p.val && r.who.tag == tag.toNat && r.st == 0 && r.ended && r.kind == 0) = some r →
      exec (.tokenizeDone p tag tokens f) s = .next
        ((s.putReq r { r with tokens := tokens, fffd := f }).becomePending { r with tokens := tokens, fffd := f })) ∧
    (∀ (p : PortId) (tag : BitVec 16) (r : Req) (s : State), s.reqByTag p tag.toNat = some r → r.st = 1 →
      (let e := r.pendAt + max 1 r.par.admWait * 65536
       e / 65536 ≤ s.periods → exec (.admWaitExpiry p tag) s = .next
         (({ s.atCadence e with reqs := s.reqs.erase r } : State).refuseReq r.who r.why))) ∧
    (∀ (i : Fin 4096) (s : State), (s.slot i).st = slParked → (s.slot i).endDue = false →
      (let e := (s.slot i).parkedAt + (if (s.slot i).par.parkLimit = 0 then 65535 else (s.slot i).par.parkLimit) * 65536
       e / 65536 ≤ s.periods → exec (.parkLimitExpiry i) s = .next (((s.atCadence e).dropTurn i 0x2E).modSlot i fun x =>
         { x with st := slEnding, endReason := 10, endStatus := 0x00, finalDue := true }))) ∧
    (∀ (d : Fin 6) (s : State), s.dieServing d = true → s.rd Fld.keyDie_epoch 0 d ≠ s.rd Fld.srvCfgEpoch_epoch →
      exec (.epochReadbackTimeout d false) s = .next (s.wr Fld.keyDie_epoch (s.rd Fld.srvCfgEpoch_epoch) 0 d) ∧
      exec (.epochReadbackTimeout d true) s = .next ((s.keyFault 0x07 0 d.val).requestReset .dieMismatch)) ∧
    (∀ (i : Fin 64) (j : TrainJob) (s : State), (s.op i).live = true → (s.op i).job = .train j → (s.op i).st = 0 →
      (s.span (s.op i).span).faults = [] →
      (∀ heads g, exec (.trainStep i (.gradients heads g)) s = .next (s.trainTake i j heads g)) ∧
      exec (.trainStep i .datasetLost) s = .next (s.trainEnd i j 0x57) ∧ exec (.trainStep i .ckptLost) s = .next (s.trainEnd i j 0x57))

/-- Edges, missing edges, flywheel boundaries and source changes act by the state of the cadence unit. An edge of the locked source inside the
window is accepted and ends the period; outside it, while the unit does not align, it is a glitch. Locked and not aligning, a missing edge
makes the boundary at 17/16 of the period and is counted. While the unit flywheels, a boundary comes from the oscillator. A locked unit
enters HOLDOVER with its notice; a candidate that does not lock within 16 periods gives way to the next source, and so does the source of a
holdover of hold_max periods. A failed PTM source makes no more edges. (R287, R289, R290, R293, R294, R295) -/
def Obligations.CadenceFollowsItsTable : Prop :=
    ∀ (s : State),
    (∀ (src : Fin 3) (dt d : Nat), src.val ≠ 2 → (src.val = 1 → s.cad.ptmFailed = false) → s.rd Fld.cadStatus_source = src.val →
      s.cadState = 1 →
      ((s.after dt).inWindow = true → exec (.cadenceEdge src dt d) s = .next ((s.after dt).acceptEdge src d)) ∧
      ((s.after dt).inWindow = false → s.flag Fld.cadStatus_aligning = false →
        exec (.cadenceEdge src dt d) s = .next ((s.after dt).bump Fld.cadGlitchCnt_count))) ∧
    (∀ d, s.cadState = 1 → s.flag Fld.cadStatus_aligning = false → exec (.periodTimeout d) s = .next
      (let t := s.cad.last + s.periodNs * 17 / 16
       ((s.modCad fun c => { c with inserted := t + 1 }).bump Fld.cadMissCnt_count).boundaryAt t d)) ∧
    (∀ d, (s.cadState ≠ 1 ∨ s.flag Fld.cadStatus_aligning = true) → exec (.flywheelBoundary d) s = .next
      (let p := s.periodNs
       let sh := max (-(p / 16 : Nat) : Int) (min (p / 16 : Nat) s.cad.align)
       (s.modCad fun c => { c with align := c.align - sh }).boundaryAt (s.cad.last + ((p : Int) + sh).toNat) d)) ∧
    (s.cadState = 1 → exec .holdoverEntry s = .next
      (let t := (s.atTime (SMap.get 0 s.cad.edges (s.rd Fld.cadStatus_source) - 1 + s.periodNs * 3 / 2)).modCad fun c =>
         { c with held := 0, agree := [], align := 0 }
       ((t.wr Fld.cadStatus_state 2).wr Fld.cadStatus_aligning 0).cadNotice 0x09 0)) ∧
    (s.cadState = 0 → 16 ≤ s.cad.tries → exec .acquireTimeout s = .next (s.acquire (s.cad.cand + 1))) ∧
    (s.cadState = 2 → s.rd Fld.cadCtrl_holdMax ≤ s.cad.held → exec .holdoverExpiry s = .next
      (s.acquire (((List.range 3).find? fun i => s.cadOrder i == s.rd Fld.cadStatus_source).getD 0 + 1))) ∧
    exec .ptmSourceFail s = .next (s.modCad fun c => { c with ptmFailed := true })

/-- Measurements steer the clock, GUST is entered and left, and heat throttles or trips. A measurement shows its readings, adds its energy,
moves the credit, flags a limit missed at the floor, and sets the clock. GUST is entered from ACTIVE under its conditions and counted, and
ends when its credit is spent. Sensor readings are taken in order and set the hottest; below both thresholds nothing more happens, at the
trip threshold keystone holds a reset, at the throttle threshold throttling starts. A throttling millisecond at or above the threshold
lowers the clock. A clock that is set shows at once; a cell whose array runs keeps the one before until its next matrix-instruction boundary.
(R102, R455, R456, R458, R459, R460, R461) -/
def Obligations.PowerAndHeatAreManaged : Prop :=
    ∀ (s : State),
    (∀ main aux w tenMs avg aim, exec (.powerMeasurement main aux w tenMs avg aim) s = .next
      (let t := (((s.wr Fld.pwrInput_mainMv (min 65535 main)).wr Fld.pwrInput_auxMv (min 65535 aux)).wr Fld.pwrInput_avgDw (min 65535 avg)).wr
         Fld.pwrInput_nowDw (min 65535 w)
       let t := (t.bump64 Fld.pwrEnergy_mj 0 0 ((s.pwr.energyUj + w) / 1000)).modPwr fun x => { x with energyUj := (s.pwr.energyUj + w) % 1000 }
       let t := t.setCredit (if s.inGust then s.credit - 6 else s.credit + 1)
       let miss := s.overLimit tenMs avg
       let t := if miss ∧ s.rd Fld.pwrProfile_clock ≤ s.rd Fld.pwrProfile_floor ∧ s.active = true ∧ s.pwr.clamp = false then
           (t.wr Fld.pwrStatus_overLimit 1).bump Fld.pwrOverCnt_count else t
       t.setClock aim miss)) ∧
    (s.rd Fld.pwrStatus_state = 0 → s.running = true → s.gustOk = true → s.flag Fld.pwrStatus_throttling = false →
      exec .gustEntry s = .next ((s.wr Fld.pwrStatus_state 3).bump Fld.pwrGust_bursts)) ∧
    (s.inGust = true → exec .gustCreditSpent s = .next ((s.setCredit 0).leaveGust)) ∧
    (∀ l : List Int,
      (let t := (forEach (l.take 64).zipIdx (fun e (t : State) => t.sense e.2 e.1) s).setHottest
       (t.hottest < 16 * (t.rd Fld.keyTherm_trip : Int) → t.hottest < 16 * (t.rd Fld.keyTherm_throttle : Int) →
         exec (.sensorReading l) s = .next t) ∧
       (16 * (t.rd Fld.keyTherm_trip : Int) ≤ t.hottest → t.key.inReset = none → exec (.sensorReading l) s = .next t.thermalTrip) ∧
       (t.hottest < 16 * (t.rd Fld.keyTherm_trip : Int) → 16 * (t.rd Fld.keyTherm_throttle : Int) ≤ t.hottest → t.active = true →
         t.running = true → t.flag Fld.pwrStatus_throttling = false → exec (.sensorReading l) s = .next t.throttleEntry))) ∧
    (s.flag Fld.pwrStatus_throttling = true → 16 * (s.rd Fld.keyTherm_throttle : Int) ≤ s.hottest →
      exec .throttleStep s = .next ((s.after 1000000).stepDown)) ∧
    (∀ c n, c < 256 → n < 56 →
      (s.changeClock c).rd Fld.pwrProfile_clock = c ∧
      ((s.changeClock c).cell n).clock =
        if c ≠ s.rd Fld.pwrProfile_clock ∧ (s.cell n).clock = none ∧ (s.cell n).jobs.any (fun j => j.prep.isSome) = true
        then some (s.rd Fld.pwrProfile_clock) else (s.cell n).clock)

/-- SAG_WARN clamps, SAG_CLEAR lets go, an open seat and a sag reset the module, and LULL is entered and left. A sag warning leaves GUST, holds
the flash, fires vector 49, tells every port and firmware, and clamps the clock to 400 MHz as a capacity loss. Above warn + 0.2 V, with the
seat closed, the clamp ends. A reset sag requests a reset; an open seat acts as a sag warning and requests one 1 ms later; a charged bank
lets the flash go on outside a sag. Under its conditions, once PWR_LULL_DELAY has passed since the module was last busy (log entry 52), LULL
saves the read counts, gates the cells but keeps their handle tables and step programmes, and stops the watchdog count; a wake takes 1,200 µs,
initialises the cells' memories (log entry 58) and restarts it. (R450, R451, R462, R463, R464,
R509, R512, R214) -/
def Obligations.SagsAndSleepTakeEffect : Prop :=
    ∀ (s : State) (mv : Nat),
    (s.flag Fld.pwrStatus_sagClamp = false → exec (.sagWarn mv) s = .next
      (let t := (s.leaveGust.wr Fld.flcStatus_sagHold 1).fireAll 49
       let t := (t.noticeDev 0x20 noSpan mv).noteFw 3 mv
       let t := (t.wr Fld.pwrStatus_sagClamp 1).modPwr fun x => { x with clamp := true, limPend := false }
       ((t.changeClock 40).bump Fld.pwrSagCnt_count).capacityLossAll)) ∧
    (s.flag Fld.pwrStatus_sagClamp = true → s.pwr.seatOpen = false → s.rd Fld.keySag_warn * 100 + 200 < mv →
      exec (.sagClear mv) s = .next
        (((((s.wr Fld.pwrStatus_sagClamp 0).modPwr fun x => { x with limPend := true }).endHold).noticeDev 0x21 noSpan mv).applyIdle)) ∧
    (s.key.inReset = none → exec .sagReset s = .next
      ((s.aerAll .uncorrectableInternal).modKey fun k => { k with inReset := some .sag, running := false })) ∧
    exec (.seatOpen mv) s = .next ((((s.sagWarn mv).modPwr fun x => { x with seatOpen := true }).after 1000000).requestReset .seat) ∧
    (s.flag Fld.pwrStatus_sagClamp = false → exec .holdupBankCharged s = .next
      (((s.modPwr fun x => { x with bankOk := true }).wr Fld.flcStatus_sagHold 0).flashRelease).runJobs) ∧
    (s.mayLull = true → exec .lullEntry s = .next
      (let s := s.atTime (s.pwr.busyAt + s.rd Fld.pwrLullDelay_ms * 1000000)
       let t := forEach ((List.range 56).filter fun n => s.cellSpan n != 0xF)
         (fun n (t : State) => (t.wipeCellBut n fun off => 0x400 ≤ off && off < 0x800).modCell n fun c => { c with progs := (t.cell n).progs })
         s.saveReads
       (t.wr Fld.pwrStatus_state 1).modPwr fun x => { x with wdogAt := none })) ∧
    (s.lull = true → exec .lullWake s = .next
      (let t := forEach ((List.range 56).filter fun n => s.cellSpan n != 0xF) (fun n (t : State) => t.wr Fld.poolStatus_initBusy 0 n)
         (s.wr Fld.pwrStatus_state 0)
       ((t.modPwr fun x => { x with wdogAt := some (s.now + 50000) }).after 1200000).modPwr fun x =>
         { x with busyAt := s.now + 1200000 }))

/-- Feeds, the watchdog, fatal faults and the resets do what keystone lays down. A feed by a steward core with a new value restarts the
watchdog; one with the last counted value does not; one by another party changes nothing but the denial count of a host. The expiry, which
names one of the eight steward cores (which one is free, log entry 15), a lockstep disagreement and a steward fault log the fault and request
the reset. A module reset cuts what the flash runs and, after the hold,
leaves the state of a module reset with its cause. A cold reset with the seat closed and a power-up leave the state of a cold reset with the
sampled straps and the burned fuses in their registers. (R471, R472, R475, R476, R491, R499, R509) -/
def Obligations.FatalFaultsAndResets : Prop :=
    ∀ (s : State),
    (∀ (w : Ident) (v : BitVec 32),
      (isSteward w.toNat = true → s.pwr.fed ≠ some v.toNat → exec (.watchdogFeed w v) s = .next
        ((s.wr Fld.pwrWdogFeed_progress v.toNat).modPwr fun x => { x with fed := some v.toNat, wdogAt := x.wdogAt.map fun _ => s.now })) ∧
      (isSteward w.toNat = true → s.pwr.fed = some v.toNat → exec (.watchdogFeed w v) s = .next (s.wr Fld.pwrWdogFeed_progress v.toNat)) ∧
      (isSteward w.toNat = false → exec (.watchdogFeed w v) s = .next (s.hostDeny w.toNat))) ∧
    (∀ a, s.pwr.wdogAt = some a → s.key.inReset = none → exec .watchdogExpiry s = .next
      (let t := s.atTime (a + s.rd Fld.keyWdog_timeout * 1000000)
       (((t.fresh 3).2.keyFault 0x09 (0x10 + (t.fresh 3).1) 0).modKey fun k => { k with wdogLast := true }).requestReset .watchdog)) ∧
    exec .lockstepMismatch s = .next (((s.keyFault 0x0A 0x20 0).modKey fun k => { k with lockLast := true }).requestReset .lockstep) ∧
    (∀ core : Fin 8, s.running = true → exec (.stewardFault core) s = .next ((s.keyFault 0x08 (0x10 + core) 0).requestReset .stewardFault)) ∧
    (∀ c, (let t := ((s.requestReset c).cutAll).after 1100000
      ∀ d, t.key.inReset = some d → t.mayRelease d = true → exec (.moduleReset c) s = .next
        ((((t.afterReset false).keepFences t).modKey fun k => { k with cause := causeCode d }).loadFuses))) ∧
    (∀ a b : BitVec 2,
      (let cold := fun (t : State) =>
         ((({ forEach t.flash.ops (fun o t => t.markCut o) t with straps := a, smbA := b } : State).afterReset true).modKey fun k =>
           { k with cause := 1 }).loadFuses
       (s.pwr.seatOpen = false → exec (.coldReset a b) s = .next (cold s)) ∧
       (∀ q : Bool, exec (.powerUpStart a b q) s = .next
         ((cold ((s.after (if q then 42300000 else 70000000)).modPwr fun x => { x with seatOpen := false, bankOk := q })).wr
           Fld.flcStatus_sagHold (b2n !q)))))

/-- A boot ends in service, in SAFE, or at stage 2; a trestle link retrains at run time. A module that waits for its boot runs stage 0 and arms
the watchdog. With no image that verifies it ends in the recovery firmware and SAFE; with firmware that never completes it stands at stage
2; otherwise it goes through stages 3 to 7 on the chosen image, and steward firmware runs after it. A trestle link that fails retrains; a
repair is noted with its lanes left, a failure faults the cells of its row. (R478, R479, R482, R486, R487) -/
def Obligations.BootBringsService : Prop :=
    ∀ (s : State),
    (∀ e, s.awaitsBoot = true →
      (let t := ((s.bootKeystone e).modPwr fun x => { x with wdogAt := some s.now }).showFw e
       let ms := min 900 e.ms
       (t.fwChoice e = none → exec (.boot e) s = .next
         ((((t.after (ms * 1000000)).wr Fld.keyBoot_bootMs ms).recovery 1).bootEnd e)) ∧
       (∀ img, t.fwChoice e = some img →
         (e.boots = false → exec (.boot e) s = .next ((t.startFw e img).wr Fld.keyBoot_stage 2)) ∧
         (e.boots = true → exec (.boot e) s = .next
           ((((t.startFw e img).after (ms * 1000000)).wr Fld.keyBoot_bootMs ms).bootOn e img))))) ∧
    (∀ l : Fin 7, s.running = true → s.linkBusy.contains l.val = false →
      exec (.trestleRetrain l) s = .next { s with linkBusy := s.linkBusy ++ [l.val] }) ∧
    (∀ (l : Fin 7) (n : Nat), s.linkBusy.contains l.val = true →
      (let t : State := { s with linkBusy := s.linkBusy.filter (· != l.val) }
       exec (.trestleRetrainDone l true n) s = .next
         (({ t with spareLanes := SMap.put 0 t.spareLanes l (2 - n) } : State).noticeDev 0x2E noSpan (l + min 2 n * 256)) ∧
       exec (.trestleRetrainDone l false n) s = .next
         (forEach ((List.range 8).map (8 * l.val + ·)) (fun c t => if t.cellFenced c then t else t.cellFault c 0x05 true) t)))

/-- The management endpoint answers each of its commands, a keystone record goes to keystone, and each JTAG instruction makes its shift. Every
MCTP control command and Sawilo command but KEYSTONE_RECORD leaves its answer, and Set Endpoint ID the identifier it assigns, and nothing
else: types 0x00 and 0x7F, vendor 0x1E9D in the PCI format, and of the Sawilo commands the information record with the serial number, the
temperatures (in STILL those of sensor 59 alone, and zeros for the rest), the power registers and the logs. A fragment of a record that is not
the last is kept and nothing else happens; the last one is taken by keystone with those before it: an accepted record is stored and burns
its fuses, a rejected one sets record_bad, and the answer says which. IDCODE gives 0x1864005D. The completion codes and layouts of the answers
are those of DSP0236, the two answers to a record log entry 26's, and what a JTAG instruction captures, shifts and drives IEEE 1149.1's
(PRESUMED, log entries 26 and 27). (15_power_and_keystone, 17_module_electrical) -/
def Obligations.ManagementBusAndJtagAnswer : Prop :=
    ∀ (s : State),
    (let ans := fun (l : List Byte) => s.modMgmt fun m => { m with answer := l }
     let reg := fun (n : Nat) (r : Reg) (i : Nat) => leBytes n (s.reg r 0 i).toNat
     (∀ (op : Nat) (eid : Byte), op ≤ 1 → eid ≠ 0 → eid ≠ 0xFF →
       exec (.setEndpointId op eid) s = .next (s.modMgmt fun m => { m with eid := eid.toNat, answer := [0x00, 0x00, eid, 0x00] })) ∧
     (∀ (op : Nat) (eid : Byte), (1 < op ∨ eid = 0 ∨ eid = 0xFF) → exec (.setEndpointId op eid) s = .next (ans [0x02])) ∧
     exec .getEndpointId s = .next (ans [0x00, BitVec.ofNat 8 s.mgmt.eid, 0x00, 0x00]) ∧
     (∀ t : Byte, (t = 0xFF ∨ t = 0x00 ∨ t = 0x7F) →
       exec (.getMctpVersionSupport t) s = .next (ans [0x00, 0x01, 0xF1, 0xF3, 0xF0, 0x00])) ∧
     (∀ t : Byte, t ≠ 0xFF → t ≠ 0x00 → t ≠ 0x7F → exec (.getMctpVersionSupport t) s = .next (ans [0x80])) ∧
     exec .getMessageTypeSupport s = .next (ans [0x00, 0x02, 0x00, 0x7F]) ∧
     exec (.getVendorDefinedMessageSupport 0) s = .next (ans [0x00, 0xFF, 0x00, 0x1E, 0x9D, 0x00, 0x00]) ∧
     (∀ b : Byte, b ≠ 0 → exec (.getVendorDefinedMessageSupport b) s = .next (ans [0x02])) ∧
     exec .getInventory s = .next (ans (s.infoRecord 0 0 ++ Config.serialNumber)) ∧
     (s.rd Fld.pwrStatus_state ≠ 2 → exec .getThermal s = .next
       (ans (((List.range 64).flatMap fun i => reg 4 .pwrTemp i) ++ (reg 8 .pwrTherm 0 ++ reg 8 .pwrThermBad 0)))) ∧
     (s.rd Fld.pwrStatus_state = 2 → exec .getThermal s = .next
       (ans (((List.range 64).flatMap fun i => if i = 59 then reg 4 .pwrTemp i else leBytes 4 0) ++ leBytes 16 0))) ∧
     exec .getPower s = .next (ans (leBytes 4 s.pwrStatusWord.toNat ++ reg 4 .pwrProfile 0 ++ reg 8 .pwrInput 0 ++ reg 8 .pwrEnergy 0)) ∧
     exec .getLog s = .next (ans (reg 8 .keyViolLog 0 ++ reg 8 .keyViolLast 0 ++ reg 8 .mbxBreakLog 0 ++ reg 4 .keyStatus 0))) ∧
    (∀ l, exec (.keystoneRecord l false) s = .next (s.modMgmt fun m => { m with frags := s.mgmt.frags ++ l, answer := [] })) ∧
    (∀ l,
      (let all := s.mgmt.frags ++ l
       let t := s.modMgmt fun m => { m with frags := [] }
       (t.recordOk all true = true → exec (.keystoneRecord l true) s = .next
         (((t.storeRecord all).burnRecord all).modMgmt fun m => { m with answer := [0x00] })) ∧
       (t.recordOk all true = false → exec (.keystoneRecord l true) s = .next
         ((t.wr Fld.keyStatus_recordBad 1).modMgmt fun m => { m with answer := [0x01] })))) ∧
    (∀ tdi, exec (.bypass tdi) s = .next (s.modMgmt fun m => { m with ir := 0, tdo := [m.ir == 0 && m.byp], byp := tdi, driven := false })) ∧
    exec .idcode s = .next (s.modMgmt fun m =>
      { m with ir := 1, tdo := (List.range 32).map fun i => (0x1864005D : Nat).testBit i, byp := false, driven := false }) ∧
    (∀ pins load, exec (.samplePreload pins load) s = .next (s.modMgmt fun m =>
      { m with ir := 2, tdo := pins, bsr := load, byp := false, driven := false })) ∧
    (∀ shift pins, exec (.extest shift pins) s = .next (s.modMgmt fun m =>
      { m with ir := 3, tdo := pins, bsr := shift, byp := false, driven := true }))
end

