-- ==== Sys2Proof/Laws/Bits.lean ====
section
/-!
SUPPORT. Bit fields: what a field reads after it, or another one, has been set; byte strings and numbers.
-/
namespace Sys2Proof.Machine

theorem nbits_lt (v hi lo : Nat) : nbits v hi lo < 2 ^ (hi + 1 - lo) := Nat.mod_lt _ (Nat.two_pow_pos _)

theorem testBit_nbits (v hi lo i : Nat) : (nbits v hi lo).testBit i = (decide (i < hi + 1 - lo) && v.testBit (lo + i)) := by
  simp [nbits, Nat.testBit_mod_two_pow]

/-- A number with one field taken out. -/
theorem without_eq (v hi lo : Nat) (h : lo ≤ hi) : v - nbits v hi lo <<< lo = 2 ^ (hi + 1) * (v / 2 ^ (hi + 1)) + v % 2 ^ lo := by
  have h1 := Nat.div_add_mod v (2 ^ (hi + 1))
  have h2 := Nat.div_add_mod (v % 2 ^ (hi + 1)) (2 ^ lo)
  have h3 : nbits v hi lo = v % 2 ^ (hi + 1) / 2 ^ lo := by
    rw [nbits, Nat.shiftRight_eq_div_pow]
    have : 2 ^ (hi + 1) = 2 ^ lo * 2 ^ (hi + 1 - lo) := by rw [← Nat.pow_add]; congr 1; omega
    rw [this, Nat.mod_mul_right_div_self]
  have h4 : v % 2 ^ (hi + 1) % 2 ^ lo = v % 2 ^ lo := Nat.mod_mod_of_dvd _ (Nat.pow_dvd_pow _ (by omega))
  rw [h4] at h2
  rw [Nat.shiftLeft_eq, h3, Nat.mul_comm _ (2 ^ lo)]
  omega

/-- The bits of a word with one field set. -/
theorem testBit_setBits (w : Word) (hi lo v i : Nat) (h : lo ≤ hi) (hi64 : i < 64) :
    (setBits w hi lo v).toNat.testBit i =
      if lo ≤ i ∧ i ≤ hi then v.testBit (i - lo) else w.toNat.testBit i := by
  have hv : v % 2 ^ (hi + 1 - lo) < 2 ^ (hi + 1 - lo) := Nat.mod_lt _ (Nat.two_pow_pos _)
  have hl : w.toNat % 2 ^ lo < 2 ^ lo := Nat.mod_lt _ (Nat.two_pow_pos _)
  have hb : 2 ^ lo * (v % 2 ^ (hi + 1 - lo)) + w.toNat % 2 ^ lo < 2 ^ (hi + 1) := by
    have e : 2 ^ (hi + 1) = 2 ^ lo * 2 ^ (hi + 1 - lo) := by rw [← Nat.pow_add]; congr 1; omega
    rw [e]
    have : 2 ^ lo * (v % 2 ^ (hi + 1 - lo) + 1) ≤ 2 ^ lo * 2 ^ (hi + 1 - lo) := Nat.mul_le_mul_left _ hv
    rw [Nat.mul_add] at this
    omega
  simp only [setBits, BitVec.toNat_ofNat, Nat.testBit_mod_two_pow, hi64, decide_true, Bool.true_and]
  rw [without_eq _ _ _ h, Nat.shiftLeft_eq, Nat.mul_comm _ (2 ^ lo), Nat.add_assoc, Nat.add_comm (w.toNat % 2 ^ lo),
    Nat.testBit_two_pow_mul_add _ hb]
  by_cases h1 : i < hi + 1
  · rw [if_pos h1, Nat.testBit_two_pow_mul_add _ hl]
    by_cases h2 : i < lo
    · rw [if_pos h2, if_neg (by omega), Nat.testBit_mod_two_pow]; simp [h2]
    · rw [if_neg h2, if_pos (by omega), Nat.testBit_mod_two_pow]
      have : i - lo < hi + 1 - lo := by omega
      simp [this]
  · rw [if_neg h1, if_neg (by omega), Nat.testBit_div_two_pow]
    congr 1; omega

/-- A field reads what was set, modulo its width. -/
theorem bits_setBits_same (w : Word) (hi lo v : Nat) (h : lo ≤ hi) (h' : hi < 64) :
    bits (setBits w hi lo v) hi lo = v % 2 ^ (hi + 1 - lo) := by
  apply Nat.eq_of_testBit_eq
  intro i
  rw [bits, testBit_nbits, Nat.testBit_mod_two_pow]
  by_cases hi' : i < hi + 1 - lo
  · rw [testBit_setBits _ _ _ _ _ h (by omega), if_pos (by omega)]
    simp
  · simp [hi']

/-- A field that does not meet the one set stays. -/
theorem bits_setBits_other (w : Word) (hi lo v a b : Nat) (h : lo ≤ hi) (hd : a < lo ∨ hi < b) (ha : a < 64) :
    bits (setBits w hi lo v) a b = bits w a b := by
  apply Nat.eq_of_testBit_eq
  intro i
  rw [bits, bits, testBit_nbits, testBit_nbits]
  by_cases hi' : i < a + 1 - b
  · rw [testBit_setBits _ _ _ _ _ h (by omega), if_neg (by omega)]
  · simp [hi']

/-! ### The packet of a command row: its opcode is that of the row, everything else is the packet's -/

@[simp] theorem withOpcode_body (k : Packet) (op : Nat) : (k.withOpcode op).body = k.body := (rfl)
@[simp] theorem withOpcode_fld (k : Packet) (op a b : Nat) : (k.withOpcode op).fld a b = k.fld a b := (rfl)
@[simp] theorem withOpcode_span (k : Packet) (op : Nat) : (k.withOpcode op).span = k.span := (rfl)
@[simp] theorem withOpcode_target (k : Packet) (op : Nat) : (k.withOpcode op).target = k.target := (rfl)
@[simp] theorem withOpcode_gen (k : Packet) (op : Nat) : (k.withOpcode op).gen = k.gen := (rfl)
@[simp] theorem withOpcode_cls (k : Packet) (op : Nat) : (k.withOpcode op).cls = k.cls := (rfl)
@[simp] theorem withOpcode_force (k : Packet) (op : Nat) : (k.withOpcode op).force = k.force := by
  simp only [Packet.force, Packet.withOpcode, bit, bits_setBits_other _ 7 0 op 8 8 (by omega) (by omega) (by omega)]
@[simp] theorem withOpcode_query (k : Packet) (op : Nat) : (k.withOpcode op).query = k.query := by
  simp only [Packet.query, Packet.withOpcode, bit, bits_setBits_other _ 7 0 op 9 9 (by omega) (by omega) (by omega)]
@[simp] theorem withOpcode_discard (k : Packet) (op : Nat) : (k.withOpcode op).discard = k.discard := by
  simp only [Packet.discard, Packet.withOpcode, bit, bits_setBits_other _ 7 0 op 10 10 (by omega) (by omega) (by omega)]
@[simp] theorem withOpcode_resume (k : Packet) (op : Nat) : (k.withOpcode op).resume = k.resume := by
  simp only [Packet.resume, Packet.withOpcode, bit, bits_setBits_other _ 7 0 op 11 11 (by omega) (by omega) (by omega)]
@[simp] theorem withOpcode_rebuild (k : Packet) (op : Nat) : (k.withOpcode op).rebuild = k.rebuild := by
  simp only [Packet.rebuild, Packet.withOpcode, bit, bits_setBits_other _ 7 0 op 12 12 (by omega) (by omega) (by omega)]
@[simp] theorem withOpcode_ends (k : Packet) (op : Nat) : (k.withOpcode op).ends = k.ends := by
  simp only [Packet.ends, Packet.withOpcode, bit, bits_setBits_other _ 7 0 op 13 13 (by omega) (by omega) (by omega)]
@[simp] theorem withOpcode_tag (k : Packet) (op : Nat) : (k.withOpcode op).tag = k.tag := by
  simp only [Packet.tag, Packet.withOpcode, bits_setBits_other _ 7 0 op 31 16 (by omega) (by omega) (by omega)]
@[simp] theorem withOpcode_length (k : Packet) (op : Nat) : (k.withOpcode op).length = k.length := by
  simp only [Packet.length, Packet.withOpcode, bits_setBits_other _ 7 0 op 47 32 (by omega) (by omega) (by omega)]
/-- The opcode of the row's packet. -/
theorem withOpcode_opcode (k : Packet) (op : Nat) : (k.withOpcode op).opcode = op % 256 := by
  simp only [Packet.opcode, Packet.withOpcode, bits_setBits_same _ 7 0 op (by omega) (by omega)]; rfl

/-! ### Little-endian numbers (R3) -/

@[simp] theorem leBytes_length (n v : Nat) : (leBytes n v).length = n := by
  induction n generalizing v with
  | zero => rfl
  | succ n ih => simp [leBytes, ih]

/-- Bytes spell the number they were made of, modulo their width. -/
theorem ofLe_leBytes (n v : Nat) : ofLe (leBytes n v) = v % 256 ^ n := by
  induction n generalizing v with
  | zero => simp [leBytes, ofLe, Nat.mod_one]
  | succ n ih =>
    simp only [leBytes, ofLe, ih, BitVec.toNat_ofNat]
    have : v % 256 ^ (n + 1) = v % 256 + 256 * (v / 256 % 256 ^ n) := by rw [Nat.pow_succ', Nat.mod_mul]
    rw [this]

end Sys2Proof.Machine
end

