-- ==== Sys2Proof/Laws/SMap.lean ====
section
/-!
SUPPORT. Sparse tables: a read after a write, overwriting, and the canonical form.
-/
namespace Sys2Proof
variable {α : Type}

theorem SMap.get_del_same (d : α) (m : SMap α) (k : Nat) : SMap.get d (SMap.del m k) k = d := by
  induction m with
  | nil => rfl
  | cons e r ih =>
    obtain ⟨j, x⟩ := e
    simp only [SMap.del]
    split
    · exact ih
    · rename_i h; simp [SMap.get, h, ih]

theorem SMap.get_del_other (d : α) (m : SMap α) {k j : Nat} (h : j ≠ k) : SMap.get d (SMap.del m k) j = SMap.get d m j := by
  induction m with
  | nil => rfl
  | cons e r ih =>
    obtain ⟨i, x⟩ := e
    simp only [SMap.del, SMap.get]
    split
    · subst_vars; rw [ih, if_neg (Ne.symm h)]
    · simp only [SMap.get, ih]

theorem SMap.get_ins_same (d : α) (m : SMap α) (k : Nat) (v : α) (h : ∀ e ∈ m, e.1 ≠ k) : SMap.get d (SMap.ins m k v) k = v := by
  induction m with
  | nil => simp [SMap.ins, SMap.get]
  | cons e r ih =>
    obtain ⟨j, x⟩ := e
    have hj : j ≠ k := h (j, x) (by simp)
    simp only [SMap.ins]
    split
    · simp [SMap.get]
    · simp only [SMap.get, if_neg hj]
      exact ih fun e he => h e (by simp [he])

theorem SMap.get_ins_other (d : α) (m : SMap α) {k j : Nat} (v : α) (h : j ≠ k) :
    SMap.get d (SMap.ins m k v) j = SMap.get d m j := by
  induction m with
  | nil => simp [SMap.ins, SMap.get, Ne.symm h]
  | cons e r ih =>
    obtain ⟨i, x⟩ := e
    simp only [SMap.ins]
    split
    · simp [SMap.get, Ne.symm h]
    · simp only [SMap.get, ih]

theorem SMap.not_mem_del (m : SMap α) (k : Nat) : ∀ e ∈ SMap.del m k, e.1 ≠ k := by
  induction m with
  | nil => simp [SMap.del]
  | cons e r ih =>
    obtain ⟨j, x⟩ := e
    simp only [SMap.del]
    split
    · exact ih
    · rename_i h
      intro e he
      simp only [List.mem_cons] at he
      obtain rfl | he := he
      · exact h
      · exact ih e he

/-- A key reads what was last written to it. -/
@[simp] theorem SMap.get_put_same [DecidableEq α] (d : α) (m : SMap α) (k : Nat) (v : α) : SMap.get d (SMap.put d m k v) k = v := by
  unfold SMap.put
  split
  · subst_vars; exact SMap.get_del_same _ m k
  · exact SMap.get_ins_same d _ k v (SMap.not_mem_del m k)

/-- A write leaves every other key. -/
theorem SMap.get_put_other [DecidableEq α] (d c : α) (m : SMap α) {k j : Nat} (v : α) (h : j ≠ k) :
    SMap.get c (SMap.put d m k v) j = SMap.get c m j := by
  unfold SMap.put
  split
  · exact SMap.get_del_other c m h
  · rw [SMap.get_ins_other c _ v h, SMap.get_del_other c m h]

/-- A read after a write. -/
theorem SMap.get_put [DecidableEq α] (d : α) (m : SMap α) (k j : Nat) (v : α) :
    SMap.get d (SMap.put d m k v) j = if j = k then v else SMap.get d m j := by
  by_cases h : j = k
  · subst h; simp
  · rw [SMap.get_put_other d d m v h, if_neg h]

theorem SMap.del_of_forall (m : SMap α) (k : Nat) (h : ∀ e ∈ m, e.1 ≠ k) : SMap.del m k = m := by
  induction m with
  | nil => rfl
  | cons e r ih =>
    obtain ⟨j, x⟩ := e
    simp only [SMap.del, if_neg (h (j, x) (by simp))]
    rw [ih fun e he => h e (by simp [he])]

theorem SMap.del_ins (m : SMap α) (k : Nat) (v : α) (h : ∀ e ∈ m, e.1 ≠ k) : SMap.del (SMap.ins m k v) k = m := by
  induction m with
  | nil => simp [SMap.ins, SMap.del]
  | cons e r ih =>
    obtain ⟨j, x⟩ := e
    have hj : j ≠ k := h (j, x) (by simp)
    have hr : ∀ e ∈ r, e.1 ≠ k := fun e he => h e (by simp [he])
    simp only [SMap.ins]
    split
    · simp only [SMap.del, if_pos, if_neg hj, SMap.del_of_forall r k hr]
    · simp only [SMap.del, if_neg hj, ih hr]

/-- A second write to a key replaces the first. -/
@[simp] theorem SMap.put_put [DecidableEq α] (d : α) (m : SMap α) (k : Nat) (u v : α) :
    SMap.put d (SMap.put d m k u) k v = SMap.put d m k v := by
  have key : SMap.del (SMap.put d m k u) k = SMap.del m k := by
    unfold SMap.put
    split
    · exact SMap.del_of_forall _ k (SMap.not_mem_del m k)
    · exact SMap.del_ins _ k u (SMap.not_mem_del m k)
  show (if v = d then SMap.del (SMap.put d m k u) k else SMap.ins (SMap.del (SMap.put d m k u) k) k v) = _
  rw [key]; rfl

theorem SMap.risingFrom_mono {m : SMap α} {a b : Nat} (h : a ≤ b) (hm : SMap.risingFrom b m = true) : SMap.risingFrom a m = true := by
  cases m with
  | nil => rfl
  | cons e r =>
    obtain ⟨j, x⟩ := e
    simp only [SMap.risingFrom, Bool.and_eq_true, decide_eq_true_eq] at hm ⊢
    exact ⟨Nat.le_trans h hm.1, hm.2⟩

theorem SMap.rising_del {m : SMap α} {a k : Nat} (hm : SMap.risingFrom a m = true) : SMap.risingFrom a (SMap.del m k) = true := by
  induction m generalizing a with
  | nil => rfl
  | cons e r ih =>
    obtain ⟨j, x⟩ := e
    simp only [SMap.risingFrom, Bool.and_eq_true, decide_eq_true_eq] at hm
    simp only [SMap.del]
    split
    · exact SMap.risingFrom_mono (by omega) (ih hm.2)
    · simp only [SMap.risingFrom, Bool.and_eq_true, decide_eq_true_eq]
      exact ⟨hm.1, ih hm.2⟩

theorem SMap.rising_ins {m : SMap α} {a k : Nat} {v : α} (hm : SMap.risingFrom a m = true) (hk : a ≤ k) (h : ∀ e ∈ m, e.1 ≠ k) :
    SMap.risingFrom a (SMap.ins m k v) = true := by
  induction m generalizing a with
  | nil => simp [SMap.ins, SMap.risingFrom, hk]
  | cons e r ih =>
    obtain ⟨j, x⟩ := e
    have hj : j ≠ k := h (j, x) (by simp)
    simp only [SMap.risingFrom, Bool.and_eq_true, decide_eq_true_eq] at hm
    simp only [SMap.ins]
    split
    · simp only [SMap.risingFrom, Bool.and_eq_true, decide_eq_true_eq]
      exact ⟨hk, by omega, hm.2⟩
    · simp only [SMap.risingFrom, Bool.and_eq_true, decide_eq_true_eq]
      exact ⟨hm.1, ih hm.2 (by omega) fun e he => h e (by simp [he])⟩

theorem SMap.mem_del {m : SMap α} {k : Nat} {e : Nat × α} (h : e ∈ SMap.del m k) : e ∈ m := by
  induction m with
  | nil => exact h
  | cons x r ih =>
    obtain ⟨j, y⟩ := x
    simp only [SMap.del] at h
    split at h
    · exact List.mem_cons_of_mem _ (ih h)
    · simp only [List.mem_cons] at h ⊢
      exact h.imp id ih

theorem SMap.mem_ins {m : SMap α} {k : Nat} {v : α} {e : Nat × α} (h : e ∈ SMap.ins m k v) : e = (k, v) ∨ e ∈ m := by
  induction m with
  | nil => simpa [SMap.ins] using h
  | cons x r ih =>
    obtain ⟨j, y⟩ := x
    simp only [SMap.ins] at h
    split at h
    · simpa using h
    · simp only [List.mem_cons] at h ⊢
      rcases h with h | h
      · exact .inr (.inl h)
      · exact (ih h).imp id .inr

/-- A write keeps the canonical form. -/
theorem SMap.put_wf [DecidableEq α] {d : Nat → α} {m : SMap α} {k : Nat} {v : α} (h : SMap.wf d m = true) :
    SMap.wf d (SMap.put (d k) m k v) = true := by
  simp only [SMap.wf, Bool.and_eq_true, List.all_eq_true, decide_eq_true_eq] at h ⊢
  unfold SMap.put
  split
  · exact ⟨SMap.rising_del h.1, fun e he => h.2 e (SMap.mem_del he)⟩
  · rename_i hv
    refine ⟨SMap.rising_ins (SMap.rising_del h.1) (Nat.zero_le _) (SMap.not_mem_del m k), fun e he => ?_⟩
    rcases SMap.mem_ins he with rfl | he
    · exact hv
    · exact h.2 e (SMap.mem_del he)

@[simp] theorem SMap.wf_nil [DecidableEq α] (d : Nat → α) : SMap.wf d [] = true := rfl

/-- A canonical table put to what it reads is the same table. -/
theorem SMap.put_get_default [DecidableEq α] (d : α) (m : SMap α) (k : Nat) (h : ∀ e ∈ m, e.1 ≠ k) : SMap.put d m k d = m := by
  simp [SMap.put, SMap.del_of_forall m k h]

end Sys2Proof
end

