-- ==== Sys2Proof/Laws/State.lean ====
section
/-!
SUPPORT. What each update of the state leaves alone, and what it makes of the part it changes: one lemma for each field and update, so
that no proof unfolds a record update.
-/
namespace Sys2Proof.Machine

/-! ### The part that an update changes -/

@[simp] theorem State.modTier_tier (s : State) (f : Tier → Tier) : (s.modTier f).tier = f s.tier := (rfl)
@[simp] theorem State.modFlash_flash (s : State) (f : Flash → Flash) : (s.modFlash f).flash = f s.flash := (rfl)
@[simp] theorem State.modCad_cad (s : State) (f : Cadence → Cadence) : (s.modCad f).cad = f s.cad := (rfl)
@[simp] theorem State.modPwr_pwr (s : State) (f : Power → Power) : (s.modPwr f).pwr = f s.pwr := (rfl)
@[simp] theorem State.modKey_key (s : State) (f : Keystone → Keystone) : (s.modKey f).key = f s.key := (rfl)
@[simp] theorem State.modMbx_mbx (s : State) (f : MbxSys → MbxSys) : (s.modMbx f).mbx = f s.mbx := (rfl)
@[simp] theorem State.modKv_kv (s : State) (f : Kv → Kv) : (s.modKv f).kv = f s.kv := (rfl)
@[simp] theorem State.modMgmt_mgmt (s : State) (f : Mgmt → Mgmt) : (s.modMgmt f).mgmt = f s.mgmt := (rfl)

@[simp] theorem State.modPort_port_same (s : State) (k : Nat) (f : HostPort → HostPort) : (s.modPort k f).port k = f (s.port k) := SMap.get_put_same _ _ _ _
theorem State.modPort_port_other (s : State) {k j : Nat} (f : HostPort → HostPort) (h : j ≠ k) : (s.modPort k f).port j = s.port j := SMap.get_put_other _ _ _ _ h
@[simp] theorem State.modSlot_slot_same (s : State) (k : Nat) (f : Slot → Slot) : (s.modSlot k f).slot k = f (s.slot k) := SMap.get_put_same _ _ _ _
theorem State.modSlot_slot_other (s : State) {k j : Nat} (f : Slot → Slot) (h : j ≠ k) : (s.modSlot k f).slot j = s.slot j := SMap.get_put_other _ _ _ _ h
@[simp] theorem State.modSpan_span_same (s : State) (k : Nat) (f : Span → Span) : (s.modSpan k f).span k = f (s.span k) := SMap.get_put_same _ _ _ _
theorem State.modSpan_span_other (s : State) {k j : Nat} (f : Span → Span) (h : j ≠ k) : (s.modSpan k f).span j = s.span j := SMap.get_put_other _ _ _ _ h
@[simp] theorem State.modOp_op_same (s : State) (k : Nat) (f : Op → Op) : (s.modOp k f).op k = f (s.op k) := SMap.get_put_same _ _ _ _
theorem State.modOp_op_other (s : State) {k j : Nat} (f : Op → Op) (h : j ≠ k) : (s.modOp k f).op j = s.op j := SMap.get_put_other _ _ _ _ h
@[simp] theorem State.modCell_cell_same (s : State) (k : Nat) (f : Cell → Cell) : (s.modCell k f).cell k = f (s.cell k) := SMap.get_put_same _ _ _ _
theorem State.modCell_cell_other (s : State) {k j : Nat} (f : Cell → Cell) (h : j ≠ k) : (s.modCell k f).cell j = s.cell j := SMap.get_put_other _ _ _ _ h
@[simp] theorem State.modObj_obj_same (s : State) (k : Nat) (f : Obj → Obj) : (s.modObj k f).obj k = f (s.obj k) := SMap.get_put_same _ _ _ _
theorem State.modObj_obj_other (s : State) {k j : Nat} (f : Obj → Obj) (h : j ≠ k) : (s.modObj k f).obj j = s.obj j := SMap.get_put_other _ _ _ _ h
@[simp] theorem State.modQueue_queue_same (s : State) (p k : Nat) (f : Queue → Queue) : (s.modQueue p k f).queue p k = f (s.queue p k) := by
  simp only [State.modQueue, State.queue, State.modPort_port_same, SMap.get_put_same]
@[simp] theorem State.modBox_box_same (s : State) (m : Nat) (f : Mailbox → Mailbox) : (s.modBox m f).box m = f (s.box m) := by
  simp only [State.modBox, State.box, State.modMbx_mbx, SMap.get_put_same]

/-- Two changes of one part are one. -/
theorem State.modPort_modPort (s : State) (k : Nat) (f g : HostPort → HostPort) : (s.modPort k f).modPort k g = s.modPort k fun x => g (f x) := by
  simp [State.modPort, State.port]
/-- Two changes of one part are one. -/
theorem State.modSlot_modSlot (s : State) (k : Nat) (f g : Slot → Slot) : (s.modSlot k f).modSlot k g = s.modSlot k fun x => g (f x) := by
  simp [State.modSlot, State.slot]
/-- Two changes of one part are one. -/
theorem State.modSpan_modSpan (s : State) (k : Nat) (f g : Span → Span) : (s.modSpan k f).modSpan k g = s.modSpan k fun x => g (f x) := by
  simp [State.modSpan, State.span]
/-- Two changes of one part are one. -/
theorem State.modOp_modOp (s : State) (k : Nat) (f g : Op → Op) : (s.modOp k f).modOp k g = s.modOp k fun x => g (f x) := by
  simp [State.modOp, State.op]
/-- Two changes of one part are one. -/
theorem State.modCell_modCell (s : State) (k : Nat) (f g : Cell → Cell) : (s.modCell k f).modCell k g = s.modCell k fun x => g (f x) := by
  simp [State.modCell, State.cell]

/-! ### Registers -/

/-- A register reads what was set. -/
@[simp] theorem State.reg_setReg_same (s : State) (r : Reg) (n i : Nat) (w : Word) : (s.setReg r n i w).reg r n i = w :=
  SMap.get_put_same _ _ _ _
/-- Registers at other addresses stay. -/
theorem State.reg_setReg_other (s : State) {r q : Reg} {n i m j : Nat} (w : Word) (h : q.key m j ≠ r.key n i) :
    (s.setReg r n i w).reg q m j = s.reg q m j := SMap.get_put_other _ _ _ _ h
/-- A field reads what was written to it, modulo its width. -/
theorem State.rd_wr_same (s : State) (f : FieldRef) (v n i : Nat) (h : f.lo ≤ f.hi) (h' : f.hi < 64) :
    (s.wr f v n i).rd f n i = v % 2 ^ (f.hi + 1 - f.lo) := by
  simp only [State.rd, State.wr, State.reg_setReg_same, bits_setBits_same _ _ _ _ h h']
/-- Fields of other registers stay. -/
theorem State.rd_wr_other (s : State) {f g : FieldRef} {v n i m j : Nat} (h : g.reg.key m j ≠ f.reg.key n i) :
    (s.wr f v n i).rd g m j = s.rd g m j := by
  simp only [State.rd, State.wr, State.reg_setReg_other _ _ h]
/-- Other fields of the register stay. -/
theorem State.rd_wr_field (s : State) {f g : FieldRef} {v n i : Nat} (hr : g.reg = f.reg) (h : f.lo ≤ f.hi)
    (hd : g.hi < f.lo ∨ f.hi < g.lo) (hg : g.hi < 64) : (s.wr f v n i).rd g n i = s.rd g n i := by
  simp only [State.rd, State.wr, hr, State.reg_setReg_same, bits_setBits_other _ _ _ _ _ _ h hd hg]

/-! ### The parts that an update leaves -/

@[simp] theorem State.modPort_pending (s : State) (p : Nat) (f : HostPort → HostPort) : (s.modPort p f).pending = s.pending := (rfl)
@[simp] theorem State.modPort_regs (s : State) (p : Nat) (f : HostPort → HostPort) : (s.modPort p f).regs = s.regs := (rfl)
@[simp] theorem State.modPort_straps (s : State) (p : Nat) (f : HostPort → HostPort) : (s.modPort p f).straps = s.straps := (rfl)
@[simp] theorem State.modPort_smbA (s : State) (p : Nat) (f : HostPort → HostPort) : (s.modPort p f).smbA = s.smbA := (rfl)
@[simp] theorem State.modPort_now (s : State) (p : Nat) (f : HostPort → HostPort) : (s.modPort p f).now = s.now := (rfl)
@[simp] theorem State.modPort_free (s : State) (p : Nat) (f : HostPort → HostPort) : (s.modPort p f).free = s.free := (rfl)
@[simp] theorem State.modPort_mbx (s : State) (p : Nat) (f : HostPort → HostPort) : (s.modPort p f).mbx = s.mbx := (rfl)
@[simp] theorem State.modPort_ops (s : State) (p : Nat) (f : HostPort → HostPort) : (s.modPort p f).ops = s.ops := (rfl)
@[simp] theorem State.modPort_reqs (s : State) (p : Nat) (f : HostPort → HostPort) : (s.modPort p f).reqs = s.reqs := (rfl)
@[simp] theorem State.modPort_slots (s : State) (p : Nat) (f : HostPort → HostPort) : (s.modPort p f).slots = s.slots := (rfl)
@[simp] theorem State.modPort_leaving (s : State) (p : Nat) (f : HostPort → HostPort) : (s.modPort p f).leaving = s.leaving := (rfl)
@[simp] theorem State.modPort_slotFresh (s : State) (p : Nat) (f : HostPort → HostPort) : (s.modPort p f).slotFresh = s.slotFresh := (rfl)
@[simp] theorem State.modPort_slotFreed (s : State) (p : Nat) (f : HostPort → HostPort) : (s.modPort p f).slotFreed = s.slotFreed := (rfl)
@[simp] theorem State.modPort_nextOrder (s : State) (p : Nat) (f : HostPort → HostPort) : (s.modPort p f).nextOrder = s.nextOrder := (rfl)
@[simp] theorem State.modPort_shadow (s : State) (p : Nat) (f : HostPort → HostPort) : (s.modPort p f).shadow = s.shadow := (rfl)
@[simp] theorem State.modPort_commits (s : State) (p : Nat) (f : HostPort → HostPort) : (s.modPort p f).commits = s.commits := (rfl)
@[simp] theorem State.modPort_admRng (s : State) (p : Nat) (f : HostPort → HostPort) : (s.modPort p f).admRng = s.admRng := (rfl)
@[simp] theorem State.modPort_spans (s : State) (p : Nat) (f : HostPort → HostPort) : (s.modPort p f).spans = s.spans := (rfl)
@[simp] theorem State.modPort_kv (s : State) (p : Nat) (f : HostPort → HostPort) : (s.modPort p f).kv = s.kv := (rfl)
@[simp] theorem State.modPort_adapters (s : State) (p : Nat) (f : HostPort → HostPort) : (s.modPort p f).adapters = s.adapters := (rfl)
@[simp] theorem State.modPort_tier (s : State) (p : Nat) (f : HostPort → HostPort) : (s.modPort p f).tier = s.tier := (rfl)
@[simp] theorem State.modPort_flash (s : State) (p : Nat) (f : HostPort → HostPort) : (s.modPort p f).flash = s.flash := (rfl)
@[simp] theorem State.modPort_cells (s : State) (p : Nat) (f : HostPort → HostPort) : (s.modPort p f).cells = s.cells := (rfl)
@[simp] theorem State.modPort_waiters (s : State) (p : Nat) (f : HostPort → HostPort) : (s.modPort p f).waiters = s.waiters := (rfl)
@[simp] theorem State.modPort_latchOps (s : State) (p : Nat) (f : HostPort → HostPort) : (s.modPort p f).latchOps = s.latchOps := (rfl)
@[simp] theorem State.modPort_meshRetry (s : State) (p : Nat) (f : HostPort → HostPort) : (s.modPort p f).meshRetry = s.meshRetry := (rfl)
@[simp] theorem State.modPort_linkBusy (s : State) (p : Nat) (f : HostPort → HostPort) : (s.modPort p f).linkBusy = s.linkBusy := (rfl)
@[simp] theorem State.modPort_spareLanes (s : State) (p : Nat) (f : HostPort → HostPort) : (s.modPort p f).spareLanes = s.spareLanes := (rfl)
@[simp] theorem State.modPort_cad (s : State) (p : Nat) (f : HostPort → HostPort) : (s.modPort p f).cad = s.cad := (rfl)
@[simp] theorem State.modPort_pwr (s : State) (p : Nat) (f : HostPort → HostPort) : (s.modPort p f).pwr = s.pwr := (rfl)
@[simp] theorem State.modPort_key (s : State) (p : Nat) (f : HostPort → HostPort) : (s.modPort p f).key = s.key := (rfl)
@[simp] theorem State.modPort_mgmt (s : State) (p : Nat) (f : HostPort → HostPort) : (s.modPort p f).mgmt = s.mgmt := (rfl)
@[simp] theorem State.modPort_notes (s : State) (p : Nat) (f : HostPort → HostPort) : (s.modPort p f).notes = s.notes := (rfl)

@[simp] theorem State.modSlot_pending (s : State) (i : Nat) (f : Slot → Slot) : (s.modSlot i f).pending = s.pending := (rfl)
@[simp] theorem State.modSlot_regs (s : State) (i : Nat) (f : Slot → Slot) : (s.modSlot i f).regs = s.regs := (rfl)
@[simp] theorem State.modSlot_straps (s : State) (i : Nat) (f : Slot → Slot) : (s.modSlot i f).straps = s.straps := (rfl)
@[simp] theorem State.modSlot_smbA (s : State) (i : Nat) (f : Slot → Slot) : (s.modSlot i f).smbA = s.smbA := (rfl)
@[simp] theorem State.modSlot_now (s : State) (i : Nat) (f : Slot → Slot) : (s.modSlot i f).now = s.now := (rfl)
@[simp] theorem State.modSlot_free (s : State) (i : Nat) (f : Slot → Slot) : (s.modSlot i f).free = s.free := (rfl)
@[simp] theorem State.modSlot_ports (s : State) (i : Nat) (f : Slot → Slot) : (s.modSlot i f).ports = s.ports := (rfl)
@[simp] theorem State.modSlot_mbx (s : State) (i : Nat) (f : Slot → Slot) : (s.modSlot i f).mbx = s.mbx := (rfl)
@[simp] theorem State.modSlot_ops (s : State) (i : Nat) (f : Slot → Slot) : (s.modSlot i f).ops = s.ops := (rfl)
@[simp] theorem State.modSlot_reqs (s : State) (i : Nat) (f : Slot → Slot) : (s.modSlot i f).reqs = s.reqs := (rfl)
@[simp] theorem State.modSlot_leaving (s : State) (i : Nat) (f : Slot → Slot) : (s.modSlot i f).leaving = s.leaving := (rfl)
@[simp] theorem State.modSlot_slotFresh (s : State) (i : Nat) (f : Slot → Slot) : (s.modSlot i f).slotFresh = s.slotFresh := (rfl)
@[simp] theorem State.modSlot_slotFreed (s : State) (i : Nat) (f : Slot → Slot) : (s.modSlot i f).slotFreed = s.slotFreed := (rfl)
@[simp] theorem State.modSlot_nextOrder (s : State) (i : Nat) (f : Slot → Slot) : (s.modSlot i f).nextOrder = s.nextOrder := (rfl)
@[simp] theorem State.modSlot_shadow (s : State) (i : Nat) (f : Slot → Slot) : (s.modSlot i f).shadow = s.shadow := (rfl)
@[simp] theorem State.modSlot_commits (s : State) (i : Nat) (f : Slot → Slot) : (s.modSlot i f).commits = s.commits := (rfl)
@[simp] theorem State.modSlot_admRng (s : State) (i : Nat) (f : Slot → Slot) : (s.modSlot i f).admRng = s.admRng := (rfl)
@[simp] theorem State.modSlot_spans (s : State) (i : Nat) (f : Slot → Slot) : (s.modSlot i f).spans = s.spans := (rfl)
@[simp] theorem State.modSlot_kv (s : State) (i : Nat) (f : Slot → Slot) : (s.modSlot i f).kv = s.kv := (rfl)
@[simp] theorem State.modSlot_adapters (s : State) (i : Nat) (f : Slot → Slot) : (s.modSlot i f).adapters = s.adapters := (rfl)
@[simp] theorem State.modSlot_tier (s : State) (i : Nat) (f : Slot → Slot) : (s.modSlot i f).tier = s.tier := (rfl)
@[simp] theorem State.modSlot_flash (s : State) (i : Nat) (f : Slot → Slot) : (s.modSlot i f).flash = s.flash := (rfl)
@[simp] theorem State.modSlot_cells (s : State) (i : Nat) (f : Slot → Slot) : (s.modSlot i f).cells = s.cells := (rfl)
@[simp] theorem State.modSlot_waiters (s : State) (i : Nat) (f : Slot → Slot) : (s.modSlot i f).waiters = s.waiters := (rfl)
@[simp] theorem State.modSlot_latchOps (s : State) (i : Nat) (f : Slot → Slot) : (s.modSlot i f).latchOps = s.latchOps := (rfl)
@[simp] theorem State.modSlot_meshRetry (s : State) (i : Nat) (f : Slot → Slot) : (s.modSlot i f).meshRetry = s.meshRetry := (rfl)
@[simp] theorem State.modSlot_linkBusy (s : State) (i : Nat) (f : Slot → Slot) : (s.modSlot i f).linkBusy = s.linkBusy := (rfl)
@[simp] theorem State.modSlot_spareLanes (s : State) (i : Nat) (f : Slot → Slot) : (s.modSlot i f).spareLanes = s.spareLanes := (rfl)
@[simp] theorem State.modSlot_cad (s : State) (i : Nat) (f : Slot → Slot) : (s.modSlot i f).cad = s.cad := (rfl)
@[simp] theorem State.modSlot_pwr (s : State) (i : Nat) (f : Slot → Slot) : (s.modSlot i f).pwr = s.pwr := (rfl)
@[simp] theorem State.modSlot_key (s : State) (i : Nat) (f : Slot → Slot) : (s.modSlot i f).key = s.key := (rfl)
@[simp] theorem State.modSlot_mgmt (s : State) (i : Nat) (f : Slot → Slot) : (s.modSlot i f).mgmt = s.mgmt := (rfl)
@[simp] theorem State.modSlot_notes (s : State) (i : Nat) (f : Slot → Slot) : (s.modSlot i f).notes = s.notes := (rfl)

@[simp] theorem State.modSpan_pending (s : State) (i : Nat) (f : Span → Span) : (s.modSpan i f).pending = s.pending := (rfl)
@[simp] theorem State.modSpan_regs (s : State) (i : Nat) (f : Span → Span) : (s.modSpan i f).regs = s.regs := (rfl)
@[simp] theorem State.modSpan_straps (s : State) (i : Nat) (f : Span → Span) : (s.modSpan i f).straps = s.straps := (rfl)
@[simp] theorem State.modSpan_smbA (s : State) (i : Nat) (f : Span → Span) : (s.modSpan i f).smbA = s.smbA := (rfl)
@[simp] theorem State.modSpan_now (s : State) (i : Nat) (f : Span → Span) : (s.modSpan i f).now = s.now := (rfl)
@[simp] theorem State.modSpan_free (s : State) (i : Nat) (f : Span → Span) : (s.modSpan i f).free = s.free := (rfl)
@[simp] theorem State.modSpan_ports (s : State) (i : Nat) (f : Span → Span) : (s.modSpan i f).ports = s.ports := (rfl)
@[simp] theorem State.modSpan_mbx (s : State) (i : Nat) (f : Span → Span) : (s.modSpan i f).mbx = s.mbx := (rfl)
@[simp] theorem State.modSpan_ops (s : State) (i : Nat) (f : Span → Span) : (s.modSpan i f).ops = s.ops := (rfl)
@[simp] theorem State.modSpan_reqs (s : State) (i : Nat) (f : Span → Span) : (s.modSpan i f).reqs = s.reqs := (rfl)
@[simp] theorem State.modSpan_slots (s : State) (i : Nat) (f : Span → Span) : (s.modSpan i f).slots = s.slots := (rfl)
@[simp] theorem State.modSpan_leaving (s : State) (i : Nat) (f : Span → Span) : (s.modSpan i f).leaving = s.leaving := (rfl)
@[simp] theorem State.modSpan_slotFresh (s : State) (i : Nat) (f : Span → Span) : (s.modSpan i f).slotFresh = s.slotFresh := (rfl)
@[simp] theorem State.modSpan_slotFreed (s : State) (i : Nat) (f : Span → Span) : (s.modSpan i f).slotFreed = s.slotFreed := (rfl)
@[simp] theorem State.modSpan_nextOrder (s : State) (i : Nat) (f : Span → Span) : (s.modSpan i f).nextOrder = s.nextOrder := (rfl)
@[simp] theorem State.modSpan_shadow (s : State) (i : Nat) (f : Span → Span) : (s.modSpan i f).shadow = s.shadow := (rfl)
@[simp] theorem State.modSpan_commits (s : State) (i : Nat) (f : Span → Span) : (s.modSpan i f).commits = s.commits := (rfl)
@[simp] theorem State.modSpan_admRng (s : State) (i : Nat) (f : Span → Span) : (s.modSpan i f).admRng = s.admRng := (rfl)
@[simp] theorem State.modSpan_kv (s : State) (i : Nat) (f : Span → Span) : (s.modSpan i f).kv = s.kv := (rfl)
@[simp] theorem State.modSpan_adapters (s : State) (i : Nat) (f : Span → Span) : (s.modSpan i f).adapters = s.adapters := (rfl)
@[simp] theorem State.modSpan_tier (s : State) (i : Nat) (f : Span → Span) : (s.modSpan i f).tier = s.tier := (rfl)
@[simp] theorem State.modSpan_flash (s : State) (i : Nat) (f : Span → Span) : (s.modSpan i f).flash = s.flash := (rfl)
@[simp] theorem State.modSpan_cells (s : State) (i : Nat) (f : Span → Span) : (s.modSpan i f).cells = s.cells := (rfl)
@[simp] theorem State.modSpan_waiters (s : State) (i : Nat) (f : Span → Span) : (s.modSpan i f).waiters = s.waiters := (rfl)
@[simp] theorem State.modSpan_latchOps (s : State) (i : Nat) (f : Span → Span) : (s.modSpan i f).latchOps = s.latchOps := (rfl)
@[simp] theorem State.modSpan_meshRetry (s : State) (i : Nat) (f : Span → Span) : (s.modSpan i f).meshRetry = s.meshRetry := (rfl)
@[simp] theorem State.modSpan_linkBusy (s : State) (i : Nat) (f : Span → Span) : (s.modSpan i f).linkBusy = s.linkBusy := (rfl)
@[simp] theorem State.modSpan_spareLanes (s : State) (i : Nat) (f : Span → Span) : (s.modSpan i f).spareLanes = s.spareLanes := (rfl)
@[simp] theorem State.modSpan_cad (s : State) (i : Nat) (f : Span → Span) : (s.modSpan i f).cad = s.cad := (rfl)
@[simp] theorem State.modSpan_pwr (s : State) (i : Nat) (f : Span → Span) : (s.modSpan i f).pwr = s.pwr := (rfl)
@[simp] theorem State.modSpan_key (s : State) (i : Nat) (f : Span → Span) : (s.modSpan i f).key = s.key := (rfl)
@[simp] theorem State.modSpan_mgmt (s : State) (i : Nat) (f : Span → Span) : (s.modSpan i f).mgmt = s.mgmt := (rfl)
@[simp] theorem State.modSpan_notes (s : State) (i : Nat) (f : Span → Span) : (s.modSpan i f).notes = s.notes := (rfl)

@[simp] theorem State.modOp_pending (s : State) (i : Nat) (f : Op → Op) : (s.modOp i f).pending = s.pending := (rfl)
@[simp] theorem State.modOp_regs (s : State) (i : Nat) (f : Op → Op) : (s.modOp i f).regs = s.regs := (rfl)
@[simp] theorem State.modOp_straps (s : State) (i : Nat) (f : Op → Op) : (s.modOp i f).straps = s.straps := (rfl)
@[simp] theorem State.modOp_smbA (s : State) (i : Nat) (f : Op → Op) : (s.modOp i f).smbA = s.smbA := (rfl)
@[simp] theorem State.modOp_now (s : State) (i : Nat) (f : Op → Op) : (s.modOp i f).now = s.now := (rfl)
@[simp] theorem State.modOp_free (s : State) (i : Nat) (f : Op → Op) : (s.modOp i f).free = s.free := (rfl)
@[simp] theorem State.modOp_ports (s : State) (i : Nat) (f : Op → Op) : (s.modOp i f).ports = s.ports := (rfl)
@[simp] theorem State.modOp_mbx (s : State) (i : Nat) (f : Op → Op) : (s.modOp i f).mbx = s.mbx := (rfl)
@[simp] theorem State.modOp_reqs (s : State) (i : Nat) (f : Op → Op) : (s.modOp i f).reqs = s.reqs := (rfl)
@[simp] theorem State.modOp_slots (s : State) (i : Nat) (f : Op → Op) : (s.modOp i f).slots = s.slots := (rfl)
@[simp] theorem State.modOp_leaving (s : State) (i : Nat) (f : Op → Op) : (s.modOp i f).leaving = s.leaving := (rfl)
@[simp] theorem State.modOp_slotFresh (s : State) (i : Nat) (f : Op → Op) : (s.modOp i f).slotFresh = s.slotFresh := (rfl)
@[simp] theorem State.modOp_slotFreed (s : State) (i : Nat) (f : Op → Op) : (s.modOp i f).slotFreed = s.slotFreed := (rfl)
@[simp] theorem State.modOp_nextOrder (s : State) (i : Nat) (f : Op → Op) : (s.modOp i f).nextOrder = s.nextOrder := (rfl)
@[simp] theorem State.modOp_shadow (s : State) (i : Nat) (f : Op → Op) : (s.modOp i f).shadow = s.shadow := (rfl)
@[simp] theorem State.modOp_commits (s : State) (i : Nat) (f : Op → Op) : (s.modOp i f).commits = s.commits := (rfl)
@[simp] theorem State.modOp_admRng (s : State) (i : Nat) (f : Op → Op) : (s.modOp i f).admRng = s.admRng := (rfl)
@[simp] theorem State.modOp_spans (s : State) (i : Nat) (f : Op → Op) : (s.modOp i f).spans = s.spans := (rfl)
@[simp] theorem State.modOp_kv (s : State) (i : Nat) (f : Op → Op) : (s.modOp i f).kv = s.kv := (rfl)
@[simp] theorem State.modOp_adapters (s : State) (i : Nat) (f : Op → Op) : (s.modOp i f).adapters = s.adapters := (rfl)
@[simp] theorem State.modOp_tier (s : State) (i : Nat) (f : Op → Op) : (s.modOp i f).tier = s.tier := (rfl)
@[simp] theorem State.modOp_flash (s : State) (i : Nat) (f : Op → Op) : (s.modOp i f).flash = s.flash := (rfl)
@[simp] theorem State.modOp_cells (s : State) (i : Nat) (f : Op → Op) : (s.modOp i f).cells = s.cells := (rfl)
@[simp] theorem State.modOp_waiters (s : State) (i : Nat) (f : Op → Op) : (s.modOp i f).waiters = s.waiters := (rfl)
@[simp] theorem State.modOp_latchOps (s : State) (i : Nat) (f : Op → Op) : (s.modOp i f).latchOps = s.latchOps := (rfl)
@[simp] theorem State.modOp_meshRetry (s : State) (i : Nat) (f : Op → Op) : (s.modOp i f).meshRetry = s.meshRetry := (rfl)
@[simp] theorem State.modOp_linkBusy (s : State) (i : Nat) (f : Op → Op) : (s.modOp i f).linkBusy = s.linkBusy := (rfl)
@[simp] theorem State.modOp_spareLanes (s : State) (i : Nat) (f : Op → Op) : (s.modOp i f).spareLanes = s.spareLanes := (rfl)
@[simp] theorem State.modOp_cad (s : State) (i : Nat) (f : Op → Op) : (s.modOp i f).cad = s.cad := (rfl)
@[simp] theorem State.modOp_pwr (s : State) (i : Nat) (f : Op → Op) : (s.modOp i f).pwr = s.pwr := (rfl)
@[simp] theorem State.modOp_key (s : State) (i : Nat) (f : Op → Op) : (s.modOp i f).key = s.key := (rfl)
@[simp] theorem State.modOp_mgmt (s : State) (i : Nat) (f : Op → Op) : (s.modOp i f).mgmt = s.mgmt := (rfl)
@[simp] theorem State.modOp_notes (s : State) (i : Nat) (f : Op → Op) : (s.modOp i f).notes = s.notes := (rfl)

@[simp] theorem State.modCell_pending (s : State) (n : Nat) (f : Cell → Cell) : (s.modCell n f).pending = s.pending := (rfl)
@[simp] theorem State.modCell_regs (s : State) (n : Nat) (f : Cell → Cell) : (s.modCell n f).regs = s.regs := (rfl)
@[simp] theorem State.modCell_straps (s : State) (n : Nat) (f : Cell → Cell) : (s.modCell n f).straps = s.straps := (rfl)
@[simp] theorem State.modCell_smbA (s : State) (n : Nat) (f : Cell → Cell) : (s.modCell n f).smbA = s.smbA := (rfl)
@[simp] theorem State.modCell_now (s : State) (n : Nat) (f : Cell → Cell) : (s.modCell n f).now = s.now := (rfl)
@[simp] theorem State.modCell_free (s : State) (n : Nat) (f : Cell → Cell) : (s.modCell n f).free = s.free := (rfl)
@[simp] theorem State.modCell_ports (s : State) (n : Nat) (f : Cell → Cell) : (s.modCell n f).ports = s.ports := (rfl)
@[simp] theorem State.modCell_mbx (s : State) (n : Nat) (f : Cell → Cell) : (s.modCell n f).mbx = s.mbx := (rfl)
@[simp] theorem State.modCell_ops (s : State) (n : Nat) (f : Cell → Cell) : (s.modCell n f).ops = s.ops := (rfl)
@[simp] theorem State.modCell_reqs (s : State) (n : Nat) (f : Cell → Cell) : (s.modCell n f).reqs = s.reqs := (rfl)
@[simp] theorem State.modCell_slots (s : State) (n : Nat) (f : Cell → Cell) : (s.modCell n f).slots = s.slots := (rfl)
@[simp] theorem State.modCell_leaving (s : State) (n : Nat) (f : Cell → Cell) : (s.modCell n f).leaving = s.leaving := (rfl)
@[simp] theorem State.modCell_slotFresh (s : State) (n : Nat) (f : Cell → Cell) : (s.modCell n f).slotFresh = s.slotFresh := (rfl)
@[simp] theorem State.modCell_slotFreed (s : State) (n : Nat) (f : Cell → Cell) : (s.modCell n f).slotFreed = s.slotFreed := (rfl)
@[simp] theorem State.modCell_nextOrder (s : State) (n : Nat) (f : Cell → Cell) : (s.modCell n f).nextOrder = s.nextOrder := (rfl)
@[simp] theorem State.modCell_shadow (s : State) (n : Nat) (f : Cell → Cell) : (s.modCell n f).shadow = s.shadow := (rfl)
@[simp] theorem State.modCell_commits (s : State) (n : Nat) (f : Cell → Cell) : (s.modCell n f).commits = s.commits := (rfl)
@[simp] theorem State.modCell_admRng (s : State) (n : Nat) (f : Cell → Cell) : (s.modCell n f).admRng = s.admRng := (rfl)
@[simp] theorem State.modCell_spans (s : State) (n : Nat) (f : Cell → Cell) : (s.modCell n f).spans = s.spans := (rfl)
@[simp] theorem State.modCell_kv (s : State) (n : Nat) (f : Cell → Cell) : (s.modCell n f).kv = s.kv := (rfl)
@[simp] theorem State.modCell_adapters (s : State) (n : Nat) (f : Cell → Cell) : (s.modCell n f).adapters = s.adapters := (rfl)
@[simp] theorem State.modCell_tier (s : State) (n : Nat) (f : Cell → Cell) : (s.modCell n f).tier = s.tier := (rfl)
@[simp] theorem State.modCell_flash (s : State) (n : Nat) (f : Cell → Cell) : (s.modCell n f).flash = s.flash := (rfl)
@[simp] theorem State.modCell_waiters (s : State) (n : Nat) (f : Cell → Cell) : (s.modCell n f).waiters = s.waiters := (rfl)
@[simp] theorem State.modCell_latchOps (s : State) (n : Nat) (f : Cell → Cell) : (s.modCell n f).latchOps = s.latchOps := (rfl)
@[simp] theorem State.modCell_meshRetry (s : State) (n : Nat) (f : Cell → Cell) : (s.modCell n f).meshRetry = s.meshRetry := (rfl)
@[simp] theorem State.modCell_linkBusy (s : State) (n : Nat) (f : Cell → Cell) : (s.modCell n f).linkBusy = s.linkBusy := (rfl)
@[simp] theorem State.modCell_spareLanes (s : State) (n : Nat) (f : Cell → Cell) : (s.modCell n f).spareLanes = s.spareLanes := (rfl)
@[simp] theorem State.modCell_cad (s : State) (n : Nat) (f : Cell → Cell) : (s.modCell n f).cad = s.cad := (rfl)
@[simp] theorem State.modCell_pwr (s : State) (n : Nat) (f : Cell → Cell) : (s.modCell n f).pwr = s.pwr := (rfl)
@[simp] theorem State.modCell_key (s : State) (n : Nat) (f : Cell → Cell) : (s.modCell n f).key = s.key := (rfl)
@[simp] theorem State.modCell_mgmt (s : State) (n : Nat) (f : Cell → Cell) : (s.modCell n f).mgmt = s.mgmt := (rfl)
@[simp] theorem State.modCell_notes (s : State) (n : Nat) (f : Cell → Cell) : (s.modCell n f).notes = s.notes := (rfl)

@[simp] theorem State.modAdapter_pending (s : State) (sp a : Nat) (f : AdIndex → AdIndex) : (s.modAdapter sp a f).pending = s.pending := (rfl)
@[simp] theorem State.modAdapter_regs (s : State) (sp a : Nat) (f : AdIndex → AdIndex) : (s.modAdapter sp a f).regs = s.regs := (rfl)
@[simp] theorem State.modAdapter_straps (s : State) (sp a : Nat) (f : AdIndex → AdIndex) : (s.modAdapter sp a f).straps = s.straps := (rfl)
@[simp] theorem State.modAdapter_smbA (s : State) (sp a : Nat) (f : AdIndex → AdIndex) : (s.modAdapter sp a f).smbA = s.smbA := (rfl)
@[simp] theorem State.modAdapter_now (s : State) (sp a : Nat) (f : AdIndex → AdIndex) : (s.modAdapter sp a f).now = s.now := (rfl)
@[simp] theorem State.modAdapter_free (s : State) (sp a : Nat) (f : AdIndex → AdIndex) : (s.modAdapter sp a f).free = s.free := (rfl)
@[simp] theorem State.modAdapter_ports (s : State) (sp a : Nat) (f : AdIndex → AdIndex) : (s.modAdapter sp a f).ports = s.ports := (rfl)
@[simp] theorem State.modAdapter_mbx (s : State) (sp a : Nat) (f : AdIndex → AdIndex) : (s.modAdapter sp a f).mbx = s.mbx := (rfl)
@[simp] theorem State.modAdapter_ops (s : State) (sp a : Nat) (f : AdIndex → AdIndex) : (s.modAdapter sp a f).ops = s.ops := (rfl)
@[simp] theorem State.modAdapter_reqs (s : State) (sp a : Nat) (f : AdIndex → AdIndex) : (s.modAdapter sp a f).reqs = s.reqs := (rfl)
@[simp] theorem State.modAdapter_slots (s : State) (sp a : Nat) (f : AdIndex → AdIndex) : (s.modAdapter sp a f).slots = s.slots := (rfl)
@[simp] theorem State.modAdapter_leaving (s : State) (sp a : Nat) (f : AdIndex → AdIndex) : (s.modAdapter sp a f).leaving = s.leaving := (rfl)
@[simp] theorem State.modAdapter_slotFresh (s : State) (sp a : Nat) (f : AdIndex → AdIndex) : (s.modAdapter sp a f).slotFresh = s.slotFresh := (rfl)
@[simp] theorem State.modAdapter_slotFreed (s : State) (sp a : Nat) (f : AdIndex → AdIndex) : (s.modAdapter sp a f).slotFreed = s.slotFreed := (rfl)
@[simp] theorem State.modAdapter_nextOrder (s : State) (sp a : Nat) (f : AdIndex → AdIndex) : (s.modAdapter sp a f).nextOrder = s.nextOrder := (rfl)
@[simp] theorem State.modAdapter_shadow (s : State) (sp a : Nat) (f : AdIndex → AdIndex) : (s.modAdapter sp a f).shadow = s.shadow := (rfl)
@[simp] theorem State.modAdapter_commits (s : State) (sp a : Nat) (f : AdIndex → AdIndex) : (s.modAdapter sp a f).commits = s.commits := (rfl)
@[simp] theorem State.modAdapter_admRng (s : State) (sp a : Nat) (f : AdIndex → AdIndex) : (s.modAdapter sp a f).admRng = s.admRng := (rfl)
@[simp] theorem State.modAdapter_spans (s : State) (sp a : Nat) (f : AdIndex → AdIndex) : (s.modAdapter sp a f).spans = s.spans := (rfl)
@[simp] theorem State.modAdapter_kv (s : State) (sp a : Nat) (f : AdIndex → AdIndex) : (s.modAdapter sp a f).kv = s.kv := (rfl)
@[simp] theorem State.modAdapter_tier (s : State) (sp a : Nat) (f : AdIndex → AdIndex) : (s.modAdapter sp a f).tier = s.tier := (rfl)
@[simp] theorem State.modAdapter_flash (s : State) (sp a : Nat) (f : AdIndex → AdIndex) : (s.modAdapter sp a f).flash = s.flash := (rfl)
@[simp] theorem State.modAdapter_cells (s : State) (sp a : Nat) (f : AdIndex → AdIndex) : (s.modAdapter sp a f).cells = s.cells := (rfl)
@[simp] theorem State.modAdapter_waiters (s : State) (sp a : Nat) (f : AdIndex → AdIndex) : (s.modAdapter sp a f).waiters = s.waiters := (rfl)
@[simp] theorem State.modAdapter_latchOps (s : State) (sp a : Nat) (f : AdIndex → AdIndex) : (s.modAdapter sp a f).latchOps = s.latchOps := (rfl)
@[simp] theorem State.modAdapter_meshRetry (s : State) (sp a : Nat) (f : AdIndex → AdIndex) : (s.modAdapter sp a f).meshRetry = s.meshRetry := (rfl)
@[simp] theorem State.modAdapter_linkBusy (s : State) (sp a : Nat) (f : AdIndex → AdIndex) : (s.modAdapter sp a f).linkBusy = s.linkBusy := (rfl)
@[simp] theorem State.modAdapter_spareLanes (s : State) (sp a : Nat) (f : AdIndex → AdIndex) : (s.modAdapter sp a f).spareLanes = s.spareLanes := (rfl)
@[simp] theorem State.modAdapter_cad (s : State) (sp a : Nat) (f : AdIndex → AdIndex) : (s.modAdapter sp a f).cad = s.cad := (rfl)
@[simp] theorem State.modAdapter_pwr (s : State) (sp a : Nat) (f : AdIndex → AdIndex) : (s.modAdapter sp a f).pwr = s.pwr := (rfl)
@[simp] theorem State.modAdapter_key (s : State) (sp a : Nat) (f : AdIndex → AdIndex) : (s.modAdapter sp a f).key = s.key := (rfl)
@[simp] theorem State.modAdapter_mgmt (s : State) (sp a : Nat) (f : AdIndex → AdIndex) : (s.modAdapter sp a f).mgmt = s.mgmt := (rfl)
@[simp] theorem State.modAdapter_notes (s : State) (sp a : Nat) (f : AdIndex → AdIndex) : (s.modAdapter sp a f).notes = s.notes := (rfl)

@[simp] theorem State.modTier_pending (s : State) (f : Tier → Tier) : (s.modTier f).pending = s.pending := (rfl)
@[simp] theorem State.modTier_regs (s : State) (f : Tier → Tier) : (s.modTier f).regs = s.regs := (rfl)
@[simp] theorem State.modTier_straps (s : State) (f : Tier → Tier) : (s.modTier f).straps = s.straps := (rfl)
@[simp] theorem State.modTier_smbA (s : State) (f : Tier → Tier) : (s.modTier f).smbA = s.smbA := (rfl)
@[simp] theorem State.modTier_now (s : State) (f : Tier → Tier) : (s.modTier f).now = s.now := (rfl)
@[simp] theorem State.modTier_free (s : State) (f : Tier → Tier) : (s.modTier f).free = s.free := (rfl)
@[simp] theorem State.modTier_ports (s : State) (f : Tier → Tier) : (s.modTier f).ports = s.ports := (rfl)
@[simp] theorem State.modTier_mbx (s : State) (f : Tier → Tier) : (s.modTier f).mbx = s.mbx := (rfl)
@[simp] theorem State.modTier_ops (s : State) (f : Tier → Tier) : (s.modTier f).ops = s.ops := (rfl)
@[simp] theorem State.modTier_reqs (s : State) (f : Tier → Tier) : (s.modTier f).reqs = s.reqs := (rfl)
@[simp] theorem State.modTier_slots (s : State) (f : Tier → Tier) : (s.modTier f).slots = s.slots := (rfl)
@[simp] theorem State.modTier_leaving (s : State) (f : Tier → Tier) : (s.modTier f).leaving = s.leaving := (rfl)
@[simp] theorem State.modTier_slotFresh (s : State) (f : Tier → Tier) : (s.modTier f).slotFresh = s.slotFresh := (rfl)
@[simp] theorem State.modTier_slotFreed (s : State) (f : Tier → Tier) : (s.modTier f).slotFreed = s.slotFreed := (rfl)
@[simp] theorem State.modTier_nextOrder (s : State) (f : Tier → Tier) : (s.modTier f).nextOrder = s.nextOrder := (rfl)
@[simp] theorem State.modTier_shadow (s : State) (f : Tier → Tier) : (s.modTier f).shadow = s.shadow := (rfl)
@[simp] theorem State.modTier_commits (s : State) (f : Tier → Tier) : (s.modTier f).commits = s.commits := (rfl)
@[simp] theorem State.modTier_admRng (s : State) (f : Tier → Tier) : (s.modTier f).admRng = s.admRng := (rfl)
@[simp] theorem State.modTier_spans (s : State) (f : Tier → Tier) : (s.modTier f).spans = s.spans := (rfl)
@[simp] theorem State.modTier_kv (s : State) (f : Tier → Tier) : (s.modTier f).kv = s.kv := (rfl)
@[simp] theorem State.modTier_adapters (s : State) (f : Tier → Tier) : (s.modTier f).adapters = s.adapters := (rfl)
@[simp] theorem State.modTier_flash (s : State) (f : Tier → Tier) : (s.modTier f).flash = s.flash := (rfl)
@[simp] theorem State.modTier_cells (s : State) (f : Tier → Tier) : (s.modTier f).cells = s.cells := (rfl)
@[simp] theorem State.modTier_waiters (s : State) (f : Tier → Tier) : (s.modTier f).waiters = s.waiters := (rfl)
@[simp] theorem State.modTier_latchOps (s : State) (f : Tier → Tier) : (s.modTier f).latchOps = s.latchOps := (rfl)
@[simp] theorem State.modTier_meshRetry (s : State) (f : Tier → Tier) : (s.modTier f).meshRetry = s.meshRetry := (rfl)
@[simp] theorem State.modTier_linkBusy (s : State) (f : Tier → Tier) : (s.modTier f).linkBusy = s.linkBusy := (rfl)
@[simp] theorem State.modTier_spareLanes (s : State) (f : Tier → Tier) : (s.modTier f).spareLanes = s.spareLanes := (rfl)
@[simp] theorem State.modTier_cad (s : State) (f : Tier → Tier) : (s.modTier f).cad = s.cad := (rfl)
@[simp] theorem State.modTier_pwr (s : State) (f : Tier → Tier) : (s.modTier f).pwr = s.pwr := (rfl)
@[simp] theorem State.modTier_key (s : State) (f : Tier → Tier) : (s.modTier f).key = s.key := (rfl)
@[simp] theorem State.modTier_mgmt (s : State) (f : Tier → Tier) : (s.modTier f).mgmt = s.mgmt := (rfl)
@[simp] theorem State.modTier_notes (s : State) (f : Tier → Tier) : (s.modTier f).notes = s.notes := (rfl)

@[simp] theorem State.modObj_pending (s : State) (o : Nat) (f : Obj → Obj) : (s.modObj o f).pending = s.pending := (rfl)
@[simp] theorem State.modObj_regs (s : State) (o : Nat) (f : Obj → Obj) : (s.modObj o f).regs = s.regs := (rfl)
@[simp] theorem State.modObj_straps (s : State) (o : Nat) (f : Obj → Obj) : (s.modObj o f).straps = s.straps := (rfl)
@[simp] theorem State.modObj_smbA (s : State) (o : Nat) (f : Obj → Obj) : (s.modObj o f).smbA = s.smbA := (rfl)
@[simp] theorem State.modObj_now (s : State) (o : Nat) (f : Obj → Obj) : (s.modObj o f).now = s.now := (rfl)
@[simp] theorem State.modObj_free (s : State) (o : Nat) (f : Obj → Obj) : (s.modObj o f).free = s.free := (rfl)
@[simp] theorem State.modObj_ports (s : State) (o : Nat) (f : Obj → Obj) : (s.modObj o f).ports = s.ports := (rfl)
@[simp] theorem State.modObj_mbx (s : State) (o : Nat) (f : Obj → Obj) : (s.modObj o f).mbx = s.mbx := (rfl)
@[simp] theorem State.modObj_ops (s : State) (o : Nat) (f : Obj → Obj) : (s.modObj o f).ops = s.ops := (rfl)
@[simp] theorem State.modObj_reqs (s : State) (o : Nat) (f : Obj → Obj) : (s.modObj o f).reqs = s.reqs := (rfl)
@[simp] theorem State.modObj_slots (s : State) (o : Nat) (f : Obj → Obj) : (s.modObj o f).slots = s.slots := (rfl)
@[simp] theorem State.modObj_leaving (s : State) (o : Nat) (f : Obj → Obj) : (s.modObj o f).leaving = s.leaving := (rfl)
@[simp] theorem State.modObj_slotFresh (s : State) (o : Nat) (f : Obj → Obj) : (s.modObj o f).slotFresh = s.slotFresh := (rfl)
@[simp] theorem State.modObj_slotFreed (s : State) (o : Nat) (f : Obj → Obj) : (s.modObj o f).slotFreed = s.slotFreed := (rfl)
@[simp] theorem State.modObj_nextOrder (s : State) (o : Nat) (f : Obj → Obj) : (s.modObj o f).nextOrder = s.nextOrder := (rfl)
@[simp] theorem State.modObj_shadow (s : State) (o : Nat) (f : Obj → Obj) : (s.modObj o f).shadow = s.shadow := (rfl)
@[simp] theorem State.modObj_commits (s : State) (o : Nat) (f : Obj → Obj) : (s.modObj o f).commits = s.commits := (rfl)
@[simp] theorem State.modObj_admRng (s : State) (o : Nat) (f : Obj → Obj) : (s.modObj o f).admRng = s.admRng := (rfl)
@[simp] theorem State.modObj_spans (s : State) (o : Nat) (f : Obj → Obj) : (s.modObj o f).spans = s.spans := (rfl)
@[simp] theorem State.modObj_kv (s : State) (o : Nat) (f : Obj → Obj) : (s.modObj o f).kv = s.kv := (rfl)
@[simp] theorem State.modObj_adapters (s : State) (o : Nat) (f : Obj → Obj) : (s.modObj o f).adapters = s.adapters := (rfl)
@[simp] theorem State.modObj_flash (s : State) (o : Nat) (f : Obj → Obj) : (s.modObj o f).flash = s.flash := (rfl)
@[simp] theorem State.modObj_cells (s : State) (o : Nat) (f : Obj → Obj) : (s.modObj o f).cells = s.cells := (rfl)
@[simp] theorem State.modObj_waiters (s : State) (o : Nat) (f : Obj → Obj) : (s.modObj o f).waiters = s.waiters := (rfl)
@[simp] theorem State.modObj_latchOps (s : State) (o : Nat) (f : Obj → Obj) : (s.modObj o f).latchOps = s.latchOps := (rfl)
@[simp] theorem State.modObj_meshRetry (s : State) (o : Nat) (f : Obj → Obj) : (s.modObj o f).meshRetry = s.meshRetry := (rfl)
@[simp] theorem State.modObj_linkBusy (s : State) (o : Nat) (f : Obj → Obj) : (s.modObj o f).linkBusy = s.linkBusy := (rfl)
@[simp] theorem State.modObj_spareLanes (s : State) (o : Nat) (f : Obj → Obj) : (s.modObj o f).spareLanes = s.spareLanes := (rfl)
@[simp] theorem State.modObj_cad (s : State) (o : Nat) (f : Obj → Obj) : (s.modObj o f).cad = s.cad := (rfl)
@[simp] theorem State.modObj_pwr (s : State) (o : Nat) (f : Obj → Obj) : (s.modObj o f).pwr = s.pwr := (rfl)
@[simp] theorem State.modObj_key (s : State) (o : Nat) (f : Obj → Obj) : (s.modObj o f).key = s.key := (rfl)
@[simp] theorem State.modObj_mgmt (s : State) (o : Nat) (f : Obj → Obj) : (s.modObj o f).mgmt = s.mgmt := (rfl)
@[simp] theorem State.modObj_notes (s : State) (o : Nat) (f : Obj → Obj) : (s.modObj o f).notes = s.notes := (rfl)

@[simp] theorem State.modFlash_pending (s : State) (f : Flash → Flash) : (s.modFlash f).pending = s.pending := (rfl)
@[simp] theorem State.modFlash_regs (s : State) (f : Flash → Flash) : (s.modFlash f).regs = s.regs := (rfl)
@[simp] theorem State.modFlash_straps (s : State) (f : Flash → Flash) : (s.modFlash f).straps = s.straps := (rfl)
@[simp] theorem State.modFlash_smbA (s : State) (f : Flash → Flash) : (s.modFlash f).smbA = s.smbA := (rfl)
@[simp] theorem State.modFlash_now (s : State) (f : Flash → Flash) : (s.modFlash f).now = s.now := (rfl)
@[simp] theorem State.modFlash_free (s : State) (f : Flash → Flash) : (s.modFlash f).free = s.free := (rfl)
@[simp] theorem State.modFlash_ports (s : State) (f : Flash → Flash) : (s.modFlash f).ports = s.ports := (rfl)
@[simp] theorem State.modFlash_mbx (s : State) (f : Flash → Flash) : (s.modFlash f).mbx = s.mbx := (rfl)
@[simp] theorem State.modFlash_ops (s : State) (f : Flash → Flash) : (s.modFlash f).ops = s.ops := (rfl)
@[simp] theorem State.modFlash_reqs (s : State) (f : Flash → Flash) : (s.modFlash f).reqs = s.reqs := (rfl)
@[simp] theorem State.modFlash_slots (s : State) (f : Flash → Flash) : (s.modFlash f).slots = s.slots := (rfl)
@[simp] theorem State.modFlash_leaving (s : State) (f : Flash → Flash) : (s.modFlash f).leaving = s.leaving := (rfl)
@[simp] theorem State.modFlash_slotFresh (s : State) (f : Flash → Flash) : (s.modFlash f).slotFresh = s.slotFresh := (rfl)
@[simp] theorem State.modFlash_slotFreed (s : State) (f : Flash → Flash) : (s.modFlash f).slotFreed = s.slotFreed := (rfl)
@[simp] theorem State.modFlash_nextOrder (s : State) (f : Flash → Flash) : (s.modFlash f).nextOrder = s.nextOrder := (rfl)
@[simp] theorem State.modFlash_shadow (s : State) (f : Flash → Flash) : (s.modFlash f).shadow = s.shadow := (rfl)
@[simp] theorem State.modFlash_commits (s : State) (f : Flash → Flash) : (s.modFlash f).commits = s.commits := (rfl)
@[simp] theorem State.modFlash_admRng (s : State) (f : Flash → Flash) : (s.modFlash f).admRng = s.admRng := (rfl)
@[simp] theorem State.modFlash_spans (s : State) (f : Flash → Flash) : (s.modFlash f).spans = s.spans := (rfl)
@[simp] theorem State.modFlash_kv (s : State) (f : Flash → Flash) : (s.modFlash f).kv = s.kv := (rfl)
@[simp] theorem State.modFlash_adapters (s : State) (f : Flash → Flash) : (s.modFlash f).adapters = s.adapters := (rfl)
@[simp] theorem State.modFlash_tier (s : State) (f : Flash → Flash) : (s.modFlash f).tier = s.tier := (rfl)
@[simp] theorem State.modFlash_cells (s : State) (f : Flash → Flash) : (s.modFlash f).cells = s.cells := (rfl)
@[simp] theorem State.modFlash_waiters (s : State) (f : Flash → Flash) : (s.modFlash f).waiters = s.waiters := (rfl)
@[simp] theorem State.modFlash_latchOps (s : State) (f : Flash → Flash) : (s.modFlash f).latchOps = s.latchOps := (rfl)
@[simp] theorem State.modFlash_meshRetry (s : State) (f : Flash → Flash) : (s.modFlash f).meshRetry = s.meshRetry := (rfl)
@[simp] theorem State.modFlash_linkBusy (s : State) (f : Flash → Flash) : (s.modFlash f).linkBusy = s.linkBusy := (rfl)
@[simp] theorem State.modFlash_spareLanes (s : State) (f : Flash → Flash) : (s.modFlash f).spareLanes = s.spareLanes := (rfl)
@[simp] theorem State.modFlash_cad (s : State) (f : Flash → Flash) : (s.modFlash f).cad = s.cad := (rfl)
@[simp] theorem State.modFlash_pwr (s : State) (f : Flash → Flash) : (s.modFlash f).pwr = s.pwr := (rfl)
@[simp] theorem State.modFlash_key (s : State) (f : Flash → Flash) : (s.modFlash f).key = s.key := (rfl)
@[simp] theorem State.modFlash_mgmt (s : State) (f : Flash → Flash) : (s.modFlash f).mgmt = s.mgmt := (rfl)
@[simp] theorem State.modFlash_notes (s : State) (f : Flash → Flash) : (s.modFlash f).notes = s.notes := (rfl)

@[simp] theorem State.modCad_pending (s : State) (f : Cadence → Cadence) : (s.modCad f).pending = s.pending := (rfl)
@[simp] theorem State.modCad_regs (s : State) (f : Cadence → Cadence) : (s.modCad f).regs = s.regs := (rfl)
@[simp] theorem State.modCad_straps (s : State) (f : Cadence → Cadence) : (s.modCad f).straps = s.straps := (rfl)
@[simp] theorem State.modCad_smbA (s : State) (f : Cadence → Cadence) : (s.modCad f).smbA = s.smbA := (rfl)
@[simp] theorem State.modCad_now (s : State) (f : Cadence → Cadence) : (s.modCad f).now = s.now := (rfl)
@[simp] theorem State.modCad_free (s : State) (f : Cadence → Cadence) : (s.modCad f).free = s.free := (rfl)
@[simp] theorem State.modCad_ports (s : State) (f : Cadence → Cadence) : (s.modCad f).ports = s.ports := (rfl)
@[simp] theorem State.modCad_mbx (s : State) (f : Cadence → Cadence) : (s.modCad f).mbx = s.mbx := (rfl)
@[simp] theorem State.modCad_ops (s : State) (f : Cadence → Cadence) : (s.modCad f).ops = s.ops := (rfl)
@[simp] theorem State.modCad_reqs (s : State) (f : Cadence → Cadence) : (s.modCad f).reqs = s.reqs := (rfl)
@[simp] theorem State.modCad_slots (s : State) (f : Cadence → Cadence) : (s.modCad f).slots = s.slots := (rfl)
@[simp] theorem State.modCad_leaving (s : State) (f : Cadence → Cadence) : (s.modCad f).leaving = s.leaving := (rfl)
@[simp] theorem State.modCad_slotFresh (s : State) (f : Cadence → Cadence) : (s.modCad f).slotFresh = s.slotFresh := (rfl)
@[simp] theorem State.modCad_slotFreed (s : State) (f : Cadence → Cadence) : (s.modCad f).slotFreed = s.slotFreed := (rfl)
@[simp] theorem State.modCad_nextOrder (s : State) (f : Cadence → Cadence) : (s.modCad f).nextOrder = s.nextOrder := (rfl)
@[simp] theorem State.modCad_shadow (s : State) (f : Cadence → Cadence) : (s.modCad f).shadow = s.shadow := (rfl)
@[simp] theorem State.modCad_commits (s : State) (f : Cadence → Cadence) : (s.modCad f).commits = s.commits := (rfl)
@[simp] theorem State.modCad_admRng (s : State) (f : Cadence → Cadence) : (s.modCad f).admRng = s.admRng := (rfl)
@[simp] theorem State.modCad_spans (s : State) (f : Cadence → Cadence) : (s.modCad f).spans = s.spans := (rfl)
@[simp] theorem State.modCad_kv (s : State) (f : Cadence → Cadence) : (s.modCad f).kv = s.kv := (rfl)
@[simp] theorem State.modCad_adapters (s : State) (f : Cadence → Cadence) : (s.modCad f).adapters = s.adapters := (rfl)
@[simp] theorem State.modCad_tier (s : State) (f : Cadence → Cadence) : (s.modCad f).tier = s.tier := (rfl)
@[simp] theorem State.modCad_flash (s : State) (f : Cadence → Cadence) : (s.modCad f).flash = s.flash := (rfl)
@[simp] theorem State.modCad_cells (s : State) (f : Cadence → Cadence) : (s.modCad f).cells = s.cells := (rfl)
@[simp] theorem State.modCad_waiters (s : State) (f : Cadence → Cadence) : (s.modCad f).waiters = s.waiters := (rfl)
@[simp] theorem State.modCad_latchOps (s : State) (f : Cadence → Cadence) : (s.modCad f).latchOps = s.latchOps := (rfl)
@[simp] theorem State.modCad_meshRetry (s : State) (f : Cadence → Cadence) : (s.modCad f).meshRetry = s.meshRetry := (rfl)
@[simp] theorem State.modCad_linkBusy (s : State) (f : Cadence → Cadence) : (s.modCad f).linkBusy = s.linkBusy := (rfl)
@[simp] theorem State.modCad_spareLanes (s : State) (f : Cadence → Cadence) : (s.modCad f).spareLanes = s.spareLanes := (rfl)
@[simp] theorem State.modCad_pwr (s : State) (f : Cadence → Cadence) : (s.modCad f).pwr = s.pwr := (rfl)
@[simp] theorem State.modCad_key (s : State) (f : Cadence → Cadence) : (s.modCad f).key = s.key := (rfl)
@[simp] theorem State.modCad_mgmt (s : State) (f : Cadence → Cadence) : (s.modCad f).mgmt = s.mgmt := (rfl)
@[simp] theorem State.modCad_notes (s : State) (f : Cadence → Cadence) : (s.modCad f).notes = s.notes := (rfl)

@[simp] theorem State.modPwr_pending (s : State) (f : Power → Power) : (s.modPwr f).pending = s.pending := (rfl)
@[simp] theorem State.modPwr_regs (s : State) (f : Power → Power) : (s.modPwr f).regs = s.regs := (rfl)
@[simp] theorem State.modPwr_straps (s : State) (f : Power → Power) : (s.modPwr f).straps = s.straps := (rfl)
@[simp] theorem State.modPwr_smbA (s : State) (f : Power → Power) : (s.modPwr f).smbA = s.smbA := (rfl)
@[simp] theorem State.modPwr_now (s : State) (f : Power → Power) : (s.modPwr f).now = s.now := (rfl)
@[simp] theorem State.modPwr_free (s : State) (f : Power → Power) : (s.modPwr f).free = s.free := (rfl)
@[simp] theorem State.modPwr_ports (s : State) (f : Power → Power) : (s.modPwr f).ports = s.ports := (rfl)
@[simp] theorem State.modPwr_mbx (s : State) (f : Power → Power) : (s.modPwr f).mbx = s.mbx := (rfl)
@[simp] theorem State.modPwr_ops (s : State) (f : Power → Power) : (s.modPwr f).ops = s.ops := (rfl)
@[simp] theorem State.modPwr_reqs (s : State) (f : Power → Power) : (s.modPwr f).reqs = s.reqs := (rfl)
@[simp] theorem State.modPwr_slots (s : State) (f : Power → Power) : (s.modPwr f).slots = s.slots := (rfl)
@[simp] theorem State.modPwr_leaving (s : State) (f : Power → Power) : (s.modPwr f).leaving = s.leaving := (rfl)
@[simp] theorem State.modPwr_slotFresh (s : State) (f : Power → Power) : (s.modPwr f).slotFresh = s.slotFresh := (rfl)
@[simp] theorem State.modPwr_slotFreed (s : State) (f : Power → Power) : (s.modPwr f).slotFreed = s.slotFreed := (rfl)
@[simp] theorem State.modPwr_nextOrder (s : State) (f : Power → Power) : (s.modPwr f).nextOrder = s.nextOrder := (rfl)
@[simp] theorem State.modPwr_shadow (s : State) (f : Power → Power) : (s.modPwr f).shadow = s.shadow := (rfl)
@[simp] theorem State.modPwr_commits (s : State) (f : Power → Power) : (s.modPwr f).commits = s.commits := (rfl)
@[simp] theorem State.modPwr_admRng (s : State) (f : Power → Power) : (s.modPwr f).admRng = s.admRng := (rfl)
@[simp] theorem State.modPwr_spans (s : State) (f : Power → Power) : (s.modPwr f).spans = s.spans := (rfl)
@[simp] theorem State.modPwr_kv (s : State) (f : Power → Power) : (s.modPwr f).kv = s.kv := (rfl)
@[simp] theorem State.modPwr_adapters (s : State) (f : Power → Power) : (s.modPwr f).adapters = s.adapters := (rfl)
@[simp] theorem State.modPwr_tier (s : State) (f : Power → Power) : (s.modPwr f).tier = s.tier := (rfl)
@[simp] theorem State.modPwr_flash (s : State) (f : Power → Power) : (s.modPwr f).flash = s.flash := (rfl)
@[simp] theorem State.modPwr_cells (s : State) (f : Power → Power) : (s.modPwr f).cells = s.cells := (rfl)
@[simp] theorem State.modPwr_waiters (s : State) (f : Power → Power) : (s.modPwr f).waiters = s.waiters := (rfl)
@[simp] theorem State.modPwr_latchOps (s : State) (f : Power → Power) : (s.modPwr f).latchOps = s.latchOps := (rfl)
@[simp] theorem State.modPwr_meshRetry (s : State) (f : Power → Power) : (s.modPwr f).meshRetry = s.meshRetry := (rfl)
@[simp] theorem State.modPwr_linkBusy (s : State) (f : Power → Power) : (s.modPwr f).linkBusy = s.linkBusy := (rfl)
@[simp] theorem State.modPwr_spareLanes (s : State) (f : Power → Power) : (s.modPwr f).spareLanes = s.spareLanes := (rfl)
@[simp] theorem State.modPwr_cad (s : State) (f : Power → Power) : (s.modPwr f).cad = s.cad := (rfl)
@[simp] theorem State.modPwr_key (s : State) (f : Power → Power) : (s.modPwr f).key = s.key := (rfl)
@[simp] theorem State.modPwr_mgmt (s : State) (f : Power → Power) : (s.modPwr f).mgmt = s.mgmt := (rfl)
@[simp] theorem State.modPwr_notes (s : State) (f : Power → Power) : (s.modPwr f).notes = s.notes := (rfl)

@[simp] theorem State.modKey_pending (s : State) (f : Keystone → Keystone) : (s.modKey f).pending = s.pending := (rfl)
@[simp] theorem State.modKey_regs (s : State) (f : Keystone → Keystone) : (s.modKey f).regs = s.regs := (rfl)
@[simp] theorem State.modKey_straps (s : State) (f : Keystone → Keystone) : (s.modKey f).straps = s.straps := (rfl)
@[simp] theorem State.modKey_smbA (s : State) (f : Keystone → Keystone) : (s.modKey f).smbA = s.smbA := (rfl)
@[simp] theorem State.modKey_now (s : State) (f : Keystone → Keystone) : (s.modKey f).now = s.now := (rfl)
@[simp] theorem State.modKey_free (s : State) (f : Keystone → Keystone) : (s.modKey f).free = s.free := (rfl)
@[simp] theorem State.modKey_ports (s : State) (f : Keystone → Keystone) : (s.modKey f).ports = s.ports := (rfl)
@[simp] theorem State.modKey_mbx (s : State) (f : Keystone → Keystone) : (s.modKey f).mbx = s.mbx := (rfl)
@[simp] theorem State.modKey_ops (s : State) (f : Keystone → Keystone) : (s.modKey f).ops = s.ops := (rfl)
@[simp] theorem State.modKey_reqs (s : State) (f : Keystone → Keystone) : (s.modKey f).reqs = s.reqs := (rfl)
@[simp] theorem State.modKey_slots (s : State) (f : Keystone → Keystone) : (s.modKey f).slots = s.slots := (rfl)
@[simp] theorem State.modKey_leaving (s : State) (f : Keystone → Keystone) : (s.modKey f).leaving = s.leaving := (rfl)
@[simp] theorem State.modKey_slotFresh (s : State) (f : Keystone → Keystone) : (s.modKey f).slotFresh = s.slotFresh := (rfl)
@[simp] theorem State.modKey_slotFreed (s : State) (f : Keystone → Keystone) : (s.modKey f).slotFreed = s.slotFreed := (rfl)
@[simp] theorem State.modKey_nextOrder (s : State) (f : Keystone → Keystone) : (s.modKey f).nextOrder = s.nextOrder := (rfl)
@[simp] theorem State.modKey_shadow (s : State) (f : Keystone → Keystone) : (s.modKey f).shadow = s.shadow := (rfl)
@[simp] theorem State.modKey_commits (s : State) (f : Keystone → Keystone) : (s.modKey f).commits = s.commits := (rfl)
@[simp] theorem State.modKey_admRng (s : State) (f : Keystone → Keystone) : (s.modKey f).admRng = s.admRng := (rfl)
@[simp] theorem State.modKey_spans (s : State) (f : Keystone → Keystone) : (s.modKey f).spans = s.spans := (rfl)
@[simp] theorem State.modKey_kv (s : State) (f : Keystone → Keystone) : (s.modKey f).kv = s.kv := (rfl)
@[simp] theorem State.modKey_adapters (s : State) (f : Keystone → Keystone) : (s.modKey f).adapters = s.adapters := (rfl)
@[simp] theorem State.modKey_tier (s : State) (f : Keystone → Keystone) : (s.modKey f).tier = s.tier := (rfl)
@[simp] theorem State.modKey_flash (s : State) (f : Keystone → Keystone) : (s.modKey f).flash = s.flash := (rfl)
@[simp] theorem State.modKey_cells (s : State) (f : Keystone → Keystone) : (s.modKey f).cells = s.cells := (rfl)
@[simp] theorem State.modKey_waiters (s : State) (f : Keystone → Keystone) : (s.modKey f).waiters = s.waiters := (rfl)
@[simp] theorem State.modKey_latchOps (s : State) (f : Keystone → Keystone) : (s.modKey f).latchOps = s.latchOps := (rfl)
@[simp] theorem State.modKey_meshRetry (s : State) (f : Keystone → Keystone) : (s.modKey f).meshRetry = s.meshRetry := (rfl)
@[simp] theorem State.modKey_linkBusy (s : State) (f : Keystone → Keystone) : (s.modKey f).linkBusy = s.linkBusy := (rfl)
@[simp] theorem State.modKey_spareLanes (s : State) (f : Keystone → Keystone) : (s.modKey f).spareLanes = s.spareLanes := (rfl)
@[simp] theorem State.modKey_cad (s : State) (f : Keystone → Keystone) : (s.modKey f).cad = s.cad := (rfl)
@[simp] theorem State.modKey_pwr (s : State) (f : Keystone → Keystone) : (s.modKey f).pwr = s.pwr := (rfl)
@[simp] theorem State.modKey_mgmt (s : State) (f : Keystone → Keystone) : (s.modKey f).mgmt = s.mgmt := (rfl)
@[simp] theorem State.modKey_notes (s : State) (f : Keystone → Keystone) : (s.modKey f).notes = s.notes := (rfl)

@[simp] theorem State.modMbx_pending (s : State) (f : MbxSys → MbxSys) : (s.modMbx f).pending = s.pending := (rfl)
@[simp] theorem State.modMbx_regs (s : State) (f : MbxSys → MbxSys) : (s.modMbx f).regs = s.regs := (rfl)
@[simp] theorem State.modMbx_straps (s : State) (f : MbxSys → MbxSys) : (s.modMbx f).straps = s.straps := (rfl)
@[simp] theorem State.modMbx_smbA (s : State) (f : MbxSys → MbxSys) : (s.modMbx f).smbA = s.smbA := (rfl)
@[simp] theorem State.modMbx_now (s : State) (f : MbxSys → MbxSys) : (s.modMbx f).now = s.now := (rfl)
@[simp] theorem State.modMbx_free (s : State) (f : MbxSys → MbxSys) : (s.modMbx f).free = s.free := (rfl)
@[simp] theorem State.modMbx_ports (s : State) (f : MbxSys → MbxSys) : (s.modMbx f).ports = s.ports := (rfl)
@[simp] theorem State.modMbx_ops (s : State) (f : MbxSys → MbxSys) : (s.modMbx f).ops = s.ops := (rfl)
@[simp] theorem State.modMbx_reqs (s : State) (f : MbxSys → MbxSys) : (s.modMbx f).reqs = s.reqs := (rfl)
@[simp] theorem State.modMbx_slots (s : State) (f : MbxSys → MbxSys) : (s.modMbx f).slots = s.slots := (rfl)
@[simp] theorem State.modMbx_leaving (s : State) (f : MbxSys → MbxSys) : (s.modMbx f).leaving = s.leaving := (rfl)
@[simp] theorem State.modMbx_slotFresh (s : State) (f : MbxSys → MbxSys) : (s.modMbx f).slotFresh = s.slotFresh := (rfl)
@[simp] theorem State.modMbx_slotFreed (s : State) (f : MbxSys → MbxSys) : (s.modMbx f).slotFreed = s.slotFreed := (rfl)
@[simp] theorem State.modMbx_nextOrder (s : State) (f : MbxSys → MbxSys) : (s.modMbx f).nextOrder = s.nextOrder := (rfl)
@[simp] theorem State.modMbx_shadow (s : State) (f : MbxSys → MbxSys) : (s.modMbx f).shadow = s.shadow := (rfl)
@[simp] theorem State.modMbx_commits (s : State) (f : MbxSys → MbxSys) : (s.modMbx f).commits = s.commits := (rfl)
@[simp] theorem State.modMbx_admRng (s : State) (f : MbxSys → MbxSys) : (s.modMbx f).admRng = s.admRng := (rfl)
@[simp] theorem State.modMbx_spans (s : State) (f : MbxSys → MbxSys) : (s.modMbx f).spans = s.spans := (rfl)
@[simp] theorem State.modMbx_kv (s : State) (f : MbxSys → MbxSys) : (s.modMbx f).kv = s.kv := (rfl)
@[simp] theorem State.modMbx_adapters (s : State) (f : MbxSys → MbxSys) : (s.modMbx f).adapters = s.adapters := (rfl)
@[simp] theorem State.modMbx_tier (s : State) (f : MbxSys → MbxSys) : (s.modMbx f).tier = s.tier := (rfl)
@[simp] theorem State.modMbx_flash (s : State) (f : MbxSys → MbxSys) : (s.modMbx f).flash = s.flash := (rfl)
@[simp] theorem State.modMbx_cells (s : State) (f : MbxSys → MbxSys) : (s.modMbx f).cells = s.cells := (rfl)
@[simp] theorem State.modMbx_waiters (s : State) (f : MbxSys → MbxSys) : (s.modMbx f).waiters = s.waiters := (rfl)
@[simp] theorem State.modMbx_latchOps (s : State) (f : MbxSys → MbxSys) : (s.modMbx f).latchOps = s.latchOps := (rfl)
@[simp] theorem State.modMbx_meshRetry (s : State) (f : MbxSys → MbxSys) : (s.modMbx f).meshRetry = s.meshRetry := (rfl)
@[simp] theorem State.modMbx_linkBusy (s : State) (f : MbxSys → MbxSys) : (s.modMbx f).linkBusy = s.linkBusy := (rfl)
@[simp] theorem State.modMbx_spareLanes (s : State) (f : MbxSys → MbxSys) : (s.modMbx f).spareLanes = s.spareLanes := (rfl)
@[simp] theorem State.modMbx_cad (s : State) (f : MbxSys → MbxSys) : (s.modMbx f).cad = s.cad := (rfl)
@[simp] theorem State.modMbx_pwr (s : State) (f : MbxSys → MbxSys) : (s.modMbx f).pwr = s.pwr := (rfl)
@[simp] theorem State.modMbx_key (s : State) (f : MbxSys → MbxSys) : (s.modMbx f).key = s.key := (rfl)
@[simp] theorem State.modMbx_mgmt (s : State) (f : MbxSys → MbxSys) : (s.modMbx f).mgmt = s.mgmt := (rfl)
@[simp] theorem State.modMbx_notes (s : State) (f : MbxSys → MbxSys) : (s.modMbx f).notes = s.notes := (rfl)

@[simp] theorem State.modKv_pending (s : State) (f : Kv → Kv) : (s.modKv f).pending = s.pending := (rfl)
@[simp] theorem State.modKv_regs (s : State) (f : Kv → Kv) : (s.modKv f).regs = s.regs := (rfl)
@[simp] theorem State.modKv_straps (s : State) (f : Kv → Kv) : (s.modKv f).straps = s.straps := (rfl)
@[simp] theorem State.modKv_smbA (s : State) (f : Kv → Kv) : (s.modKv f).smbA = s.smbA := (rfl)
@[simp] theorem State.modKv_now (s : State) (f : Kv → Kv) : (s.modKv f).now = s.now := (rfl)
@[simp] theorem State.modKv_free (s : State) (f : Kv → Kv) : (s.modKv f).free = s.free := (rfl)
@[simp] theorem State.modKv_ports (s : State) (f : Kv → Kv) : (s.modKv f).ports = s.ports := (rfl)
@[simp] theorem State.modKv_mbx (s : State) (f : Kv → Kv) : (s.modKv f).mbx = s.mbx := (rfl)
@[simp] theorem State.modKv_ops (s : State) (f : Kv → Kv) : (s.modKv f).ops = s.ops := (rfl)
@[simp] theorem State.modKv_reqs (s : State) (f : Kv → Kv) : (s.modKv f).reqs = s.reqs := (rfl)
@[simp] theorem State.modKv_slots (s : State) (f : Kv → Kv) : (s.modKv f).slots = s.slots := (rfl)
@[simp] theorem State.modKv_leaving (s : State) (f : Kv → Kv) : (s.modKv f).leaving = s.leaving := (rfl)
@[simp] theorem State.modKv_slotFresh (s : State) (f : Kv → Kv) : (s.modKv f).slotFresh = s.slotFresh := (rfl)
@[simp] theorem State.modKv_slotFreed (s : State) (f : Kv → Kv) : (s.modKv f).slotFreed = s.slotFreed := (rfl)
@[simp] theorem State.modKv_nextOrder (s : State) (f : Kv → Kv) : (s.modKv f).nextOrder = s.nextOrder := (rfl)
@[simp] theorem State.modKv_shadow (s : State) (f : Kv → Kv) : (s.modKv f).shadow = s.shadow := (rfl)
@[simp] theorem State.modKv_commits (s : State) (f : Kv → Kv) : (s.modKv f).commits = s.commits := (rfl)
@[simp] theorem State.modKv_admRng (s : State) (f : Kv → Kv) : (s.modKv f).admRng = s.admRng := (rfl)
@[simp] theorem State.modKv_spans (s : State) (f : Kv → Kv) : (s.modKv f).spans = s.spans := (rfl)
@[simp] theorem State.modKv_adapters (s : State) (f : Kv → Kv) : (s.modKv f).adapters = s.adapters := (rfl)
@[simp] theorem State.modKv_tier (s : State) (f : Kv → Kv) : (s.modKv f).tier = s.tier := (rfl)
@[simp] theorem State.modKv_flash (s : State) (f : Kv → Kv) : (s.modKv f).flash = s.flash := (rfl)
@[simp] theorem State.modKv_cells (s : State) (f : Kv → Kv) : (s.modKv f).cells = s.cells := (rfl)
@[simp] theorem State.modKv_waiters (s : State) (f : Kv → Kv) : (s.modKv f).waiters = s.waiters := (rfl)
@[simp] theorem State.modKv_latchOps (s : State) (f : Kv → Kv) : (s.modKv f).latchOps = s.latchOps := (rfl)
@[simp] theorem State.modKv_meshRetry (s : State) (f : Kv → Kv) : (s.modKv f).meshRetry = s.meshRetry := (rfl)
@[simp] theorem State.modKv_linkBusy (s : State) (f : Kv → Kv) : (s.modKv f).linkBusy = s.linkBusy := (rfl)
@[simp] theorem State.modKv_spareLanes (s : State) (f : Kv → Kv) : (s.modKv f).spareLanes = s.spareLanes := (rfl)
@[simp] theorem State.modKv_cad (s : State) (f : Kv → Kv) : (s.modKv f).cad = s.cad := (rfl)
@[simp] theorem State.modKv_pwr (s : State) (f : Kv → Kv) : (s.modKv f).pwr = s.pwr := (rfl)
@[simp] theorem State.modKv_key (s : State) (f : Kv → Kv) : (s.modKv f).key = s.key := (rfl)
@[simp] theorem State.modKv_mgmt (s : State) (f : Kv → Kv) : (s.modKv f).mgmt = s.mgmt := (rfl)
@[simp] theorem State.modKv_notes (s : State) (f : Kv → Kv) : (s.modKv f).notes = s.notes := (rfl)

@[simp] theorem State.modMgmt_pending (s : State) (f : Mgmt → Mgmt) : (s.modMgmt f).pending = s.pending := (rfl)
@[simp] theorem State.modMgmt_regs (s : State) (f : Mgmt → Mgmt) : (s.modMgmt f).regs = s.regs := (rfl)
@[simp] theorem State.modMgmt_straps (s : State) (f : Mgmt → Mgmt) : (s.modMgmt f).straps = s.straps := (rfl)
@[simp] theorem State.modMgmt_smbA (s : State) (f : Mgmt → Mgmt) : (s.modMgmt f).smbA = s.smbA := (rfl)
@[simp] theorem State.modMgmt_now (s : State) (f : Mgmt → Mgmt) : (s.modMgmt f).now = s.now := (rfl)
@[simp] theorem State.modMgmt_free (s : State) (f : Mgmt → Mgmt) : (s.modMgmt f).free = s.free := (rfl)
@[simp] theorem State.modMgmt_ports (s : State) (f : Mgmt → Mgmt) : (s.modMgmt f).ports = s.ports := (rfl)
@[simp] theorem State.modMgmt_mbx (s : State) (f : Mgmt → Mgmt) : (s.modMgmt f).mbx = s.mbx := (rfl)
@[simp] theorem State.modMgmt_ops (s : State) (f : Mgmt → Mgmt) : (s.modMgmt f).ops = s.ops := (rfl)
@[simp] theorem State.modMgmt_reqs (s : State) (f : Mgmt → Mgmt) : (s.modMgmt f).reqs = s.reqs := (rfl)
@[simp] theorem State.modMgmt_slots (s : State) (f : Mgmt → Mgmt) : (s.modMgmt f).slots = s.slots := (rfl)
@[simp] theorem State.modMgmt_leaving (s : State) (f : Mgmt → Mgmt) : (s.modMgmt f).leaving = s.leaving := (rfl)
@[simp] theorem State.modMgmt_slotFresh (s : State) (f : Mgmt → Mgmt) : (s.modMgmt f).slotFresh = s.slotFresh := (rfl)
@[simp] theorem State.modMgmt_slotFreed (s : State) (f : Mgmt → Mgmt) : (s.modMgmt f).slotFreed = s.slotFreed := (rfl)
@[simp] theorem State.modMgmt_nextOrder (s : State) (f : Mgmt → Mgmt) : (s.modMgmt f).nextOrder = s.nextOrder := (rfl)
@[simp] theorem State.modMgmt_shadow (s : State) (f : Mgmt → Mgmt) : (s.modMgmt f).shadow = s.shadow := (rfl)
@[simp] theorem State.modMgmt_commits (s : State) (f : Mgmt → Mgmt) : (s.modMgmt f).commits = s.commits := (rfl)
@[simp] theorem State.modMgmt_admRng (s : State) (f : Mgmt → Mgmt) : (s.modMgmt f).admRng = s.admRng := (rfl)
@[simp] theorem State.modMgmt_spans (s : State) (f : Mgmt → Mgmt) : (s.modMgmt f).spans = s.spans := (rfl)
@[simp] theorem State.modMgmt_kv (s : State) (f : Mgmt → Mgmt) : (s.modMgmt f).kv = s.kv := (rfl)
@[simp] theorem State.modMgmt_adapters (s : State) (f : Mgmt → Mgmt) : (s.modMgmt f).adapters = s.adapters := (rfl)
@[simp] theorem State.modMgmt_tier (s : State) (f : Mgmt → Mgmt) : (s.modMgmt f).tier = s.tier := (rfl)
@[simp] theorem State.modMgmt_flash (s : State) (f : Mgmt → Mgmt) : (s.modMgmt f).flash = s.flash := (rfl)
@[simp] theorem State.modMgmt_cells (s : State) (f : Mgmt → Mgmt) : (s.modMgmt f).cells = s.cells := (rfl)
@[simp] theorem State.modMgmt_waiters (s : State) (f : Mgmt → Mgmt) : (s.modMgmt f).waiters = s.waiters := (rfl)
@[simp] theorem State.modMgmt_latchOps (s : State) (f : Mgmt → Mgmt) : (s.modMgmt f).latchOps = s.latchOps := (rfl)
@[simp] theorem State.modMgmt_meshRetry (s : State) (f : Mgmt → Mgmt) : (s.modMgmt f).meshRetry = s.meshRetry := (rfl)
@[simp] theorem State.modMgmt_linkBusy (s : State) (f : Mgmt → Mgmt) : (s.modMgmt f).linkBusy = s.linkBusy := (rfl)
@[simp] theorem State.modMgmt_spareLanes (s : State) (f : Mgmt → Mgmt) : (s.modMgmt f).spareLanes = s.spareLanes := (rfl)
@[simp] theorem State.modMgmt_cad (s : State) (f : Mgmt → Mgmt) : (s.modMgmt f).cad = s.cad := (rfl)
@[simp] theorem State.modMgmt_pwr (s : State) (f : Mgmt → Mgmt) : (s.modMgmt f).pwr = s.pwr := (rfl)
@[simp] theorem State.modMgmt_key (s : State) (f : Mgmt → Mgmt) : (s.modMgmt f).key = s.key := (rfl)
@[simp] theorem State.modMgmt_notes (s : State) (f : Mgmt → Mgmt) : (s.modMgmt f).notes = s.notes := (rfl)

@[simp] theorem State.modQueue_pending (s : State) (p k : Nat) (f : Queue → Queue) : (s.modQueue p k f).pending = s.pending := (rfl)
@[simp] theorem State.modQueue_regs (s : State) (p k : Nat) (f : Queue → Queue) : (s.modQueue p k f).regs = s.regs := (rfl)
@[simp] theorem State.modQueue_straps (s : State) (p k : Nat) (f : Queue → Queue) : (s.modQueue p k f).straps = s.straps := (rfl)
@[simp] theorem State.modQueue_smbA (s : State) (p k : Nat) (f : Queue → Queue) : (s.modQueue p k f).smbA = s.smbA := (rfl)
@[simp] theorem State.modQueue_now (s : State) (p k : Nat) (f : Queue → Queue) : (s.modQueue p k f).now = s.now := (rfl)
@[simp] theorem State.modQueue_free (s : State) (p k : Nat) (f : Queue → Queue) : (s.modQueue p k f).free = s.free := (rfl)
@[simp] theorem State.modQueue_mbx (s : State) (p k : Nat) (f : Queue → Queue) : (s.modQueue p k f).mbx = s.mbx := (rfl)
@[simp] theorem State.modQueue_ops (s : State) (p k : Nat) (f : Queue → Queue) : (s.modQueue p k f).ops = s.ops := (rfl)
@[simp] theorem State.modQueue_reqs (s : State) (p k : Nat) (f : Queue → Queue) : (s.modQueue p k f).reqs = s.reqs := (rfl)
@[simp] theorem State.modQueue_slots (s : State) (p k : Nat) (f : Queue → Queue) : (s.modQueue p k f).slots = s.slots := (rfl)
@[simp] theorem State.modQueue_leaving (s : State) (p k : Nat) (f : Queue → Queue) : (s.modQueue p k f).leaving = s.leaving := (rfl)
@[simp] theorem State.modQueue_slotFresh (s : State) (p k : Nat) (f : Queue → Queue) : (s.modQueue p k f).slotFresh = s.slotFresh := (rfl)
@[simp] theorem State.modQueue_slotFreed (s : State) (p k : Nat) (f : Queue → Queue) : (s.modQueue p k f).slotFreed = s.slotFreed := (rfl)
@[simp] theorem State.modQueue_nextOrder (s : State) (p k : Nat) (f : Queue → Queue) : (s.modQueue p k f).nextOrder = s.nextOrder := (rfl)
@[simp] theorem State.modQueue_shadow (s : State) (p k : Nat) (f : Queue → Queue) : (s.modQueue p k f).shadow = s.shadow := (rfl)
@[simp] theorem State.modQueue_commits (s : State) (p k : Nat) (f : Queue → Queue) : (s.modQueue p k f).commits = s.commits := (rfl)
@[simp] theorem State.modQueue_admRng (s : State) (p k : Nat) (f : Queue → Queue) : (s.modQueue p k f).admRng = s.admRng := (rfl)
@[simp] theorem State.modQueue_spans (s : State) (p k : Nat) (f : Queue → Queue) : (s.modQueue p k f).spans = s.spans := (rfl)
@[simp] theorem State.modQueue_kv (s : State) (p k : Nat) (f : Queue → Queue) : (s.modQueue p k f).kv = s.kv := (rfl)
@[simp] theorem State.modQueue_adapters (s : State) (p k : Nat) (f : Queue → Queue) : (s.modQueue p k f).adapters = s.adapters := (rfl)
@[simp] theorem State.modQueue_tier (s : State) (p k : Nat) (f : Queue → Queue) : (s.modQueue p k f).tier = s.tier := (rfl)
@[simp] theorem State.modQueue_flash (s : State) (p k : Nat) (f : Queue → Queue) : (s.modQueue p k f).flash = s.flash := (rfl)
@[simp] theorem State.modQueue_cells (s : State) (p k : Nat) (f : Queue → Queue) : (s.modQueue p k f).cells = s.cells := (rfl)
@[simp] theorem State.modQueue_waiters (s : State) (p k : Nat) (f : Queue → Queue) : (s.modQueue p k f).waiters = s.waiters := (rfl)
@[simp] theorem State.modQueue_latchOps (s : State) (p k : Nat) (f : Queue → Queue) : (s.modQueue p k f).latchOps = s.latchOps := (rfl)
@[simp] theorem State.modQueue_meshRetry (s : State) (p k : Nat) (f : Queue → Queue) : (s.modQueue p k f).meshRetry = s.meshRetry := (rfl)
@[simp] theorem State.modQueue_linkBusy (s : State) (p k : Nat) (f : Queue → Queue) : (s.modQueue p k f).linkBusy = s.linkBusy := (rfl)
@[simp] theorem State.modQueue_spareLanes (s : State) (p k : Nat) (f : Queue → Queue) : (s.modQueue p k f).spareLanes = s.spareLanes := (rfl)
@[simp] theorem State.modQueue_cad (s : State) (p k : Nat) (f : Queue → Queue) : (s.modQueue p k f).cad = s.cad := (rfl)
@[simp] theorem State.modQueue_pwr (s : State) (p k : Nat) (f : Queue → Queue) : (s.modQueue p k f).pwr = s.pwr := (rfl)
@[simp] theorem State.modQueue_key (s : State) (p k : Nat) (f : Queue → Queue) : (s.modQueue p k f).key = s.key := (rfl)
@[simp] theorem State.modQueue_mgmt (s : State) (p k : Nat) (f : Queue → Queue) : (s.modQueue p k f).mgmt = s.mgmt := (rfl)
@[simp] theorem State.modQueue_notes (s : State) (p k : Nat) (f : Queue → Queue) : (s.modQueue p k f).notes = s.notes := (rfl)

@[simp] theorem State.modBox_pending (s : State) (m : Nat) (f : Mailbox → Mailbox) : (s.modBox m f).pending = s.pending := (rfl)
@[simp] theorem State.modBox_regs (s : State) (m : Nat) (f : Mailbox → Mailbox) : (s.modBox m f).regs = s.regs := (rfl)
@[simp] theorem State.modBox_straps (s : State) (m : Nat) (f : Mailbox → Mailbox) : (s.modBox m f).straps = s.straps := (rfl)
@[simp] theorem State.modBox_smbA (s : State) (m : Nat) (f : Mailbox → Mailbox) : (s.modBox m f).smbA = s.smbA := (rfl)
@[simp] theorem State.modBox_now (s : State) (m : Nat) (f : Mailbox → Mailbox) : (s.modBox m f).now = s.now := (rfl)
@[simp] theorem State.modBox_free (s : State) (m : Nat) (f : Mailbox → Mailbox) : (s.modBox m f).free = s.free := (rfl)
@[simp] theorem State.modBox_ports (s : State) (m : Nat) (f : Mailbox → Mailbox) : (s.modBox m f).ports = s.ports := (rfl)
@[simp] theorem State.modBox_ops (s : State) (m : Nat) (f : Mailbox → Mailbox) : (s.modBox m f).ops = s.ops := (rfl)
@[simp] theorem State.modBox_reqs (s : State) (m : Nat) (f : Mailbox → Mailbox) : (s.modBox m f).reqs = s.reqs := (rfl)
@[simp] theorem State.modBox_slots (s : State) (m : Nat) (f : Mailbox → Mailbox) : (s.modBox m f).slots = s.slots := (rfl)
@[simp] theorem State.modBox_leaving (s : State) (m : Nat) (f : Mailbox → Mailbox) : (s.modBox m f).leaving = s.leaving := (rfl)
@[simp] theorem State.modBox_slotFresh (s : State) (m : Nat) (f : Mailbox → Mailbox) : (s.modBox m f).slotFresh = s.slotFresh := (rfl)
@[simp] theorem State.modBox_slotFreed (s : State) (m : Nat) (f : Mailbox → Mailbox) : (s.modBox m f).slotFreed = s.slotFreed := (rfl)
@[simp] theorem State.modBox_nextOrder (s : State) (m : Nat) (f : Mailbox → Mailbox) : (s.modBox m f).nextOrder = s.nextOrder := (rfl)
@[simp] theorem State.modBox_shadow (s : State) (m : Nat) (f : Mailbox → Mailbox) : (s.modBox m f).shadow = s.shadow := (rfl)
@[simp] theorem State.modBox_commits (s : State) (m : Nat) (f : Mailbox → Mailbox) : (s.modBox m f).commits = s.commits := (rfl)
@[simp] theorem State.modBox_admRng (s : State) (m : Nat) (f : Mailbox → Mailbox) : (s.modBox m f).admRng = s.admRng := (rfl)
@[simp] theorem State.modBox_spans (s : State) (m : Nat) (f : Mailbox → Mailbox) : (s.modBox m f).spans = s.spans := (rfl)
@[simp] theorem State.modBox_kv (s : State) (m : Nat) (f : Mailbox → Mailbox) : (s.modBox m f).kv = s.kv := (rfl)
@[simp] theorem State.modBox_adapters (s : State) (m : Nat) (f : Mailbox → Mailbox) : (s.modBox m f).adapters = s.adapters := (rfl)
@[simp] theorem State.modBox_tier (s : State) (m : Nat) (f : Mailbox → Mailbox) : (s.modBox m f).tier = s.tier := (rfl)
@[simp] theorem State.modBox_flash (s : State) (m : Nat) (f : Mailbox → Mailbox) : (s.modBox m f).flash = s.flash := (rfl)
@[simp] theorem State.modBox_cells (s : State) (m : Nat) (f : Mailbox → Mailbox) : (s.modBox m f).cells = s.cells := (rfl)
@[simp] theorem State.modBox_waiters (s : State) (m : Nat) (f : Mailbox → Mailbox) : (s.modBox m f).waiters = s.waiters := (rfl)
@[simp] theorem State.modBox_latchOps (s : State) (m : Nat) (f : Mailbox → Mailbox) : (s.modBox m f).latchOps = s.latchOps := (rfl)
@[simp] theorem State.modBox_meshRetry (s : State) (m : Nat) (f : Mailbox → Mailbox) : (s.modBox m f).meshRetry = s.meshRetry := (rfl)
@[simp] theorem State.modBox_linkBusy (s : State) (m : Nat) (f : Mailbox → Mailbox) : (s.modBox m f).linkBusy = s.linkBusy := (rfl)
@[simp] theorem State.modBox_spareLanes (s : State) (m : Nat) (f : Mailbox → Mailbox) : (s.modBox m f).spareLanes = s.spareLanes := (rfl)
@[simp] theorem State.modBox_cad (s : State) (m : Nat) (f : Mailbox → Mailbox) : (s.modBox m f).cad = s.cad := (rfl)
@[simp] theorem State.modBox_pwr (s : State) (m : Nat) (f : Mailbox → Mailbox) : (s.modBox m f).pwr = s.pwr := (rfl)
@[simp] theorem State.modBox_key (s : State) (m : Nat) (f : Mailbox → Mailbox) : (s.modBox m f).key = s.key := (rfl)
@[simp] theorem State.modBox_mgmt (s : State) (m : Nat) (f : Mailbox → Mailbox) : (s.modBox m f).mgmt = s.mgmt := (rfl)
@[simp] theorem State.modBox_notes (s : State) (m : Nat) (f : Mailbox → Mailbox) : (s.modBox m f).notes = s.notes := (rfl)

@[simp] theorem State.setReg_pending (s : State) (r : Reg) (n i : Nat) (w : Word) : (s.setReg r n i w).pending = s.pending := (rfl)
@[simp] theorem State.setReg_straps (s : State) (r : Reg) (n i : Nat) (w : Word) : (s.setReg r n i w).straps = s.straps := (rfl)
@[simp] theorem State.setReg_smbA (s : State) (r : Reg) (n i : Nat) (w : Word) : (s.setReg r n i w).smbA = s.smbA := (rfl)
@[simp] theorem State.setReg_now (s : State) (r : Reg) (n i : Nat) (w : Word) : (s.setReg r n i w).now = s.now := (rfl)
@[simp] theorem State.setReg_free (s : State) (r : Reg) (n i : Nat) (w : Word) : (s.setReg r n i w).free = s.free := (rfl)
@[simp] theorem State.setReg_ports (s : State) (r : Reg) (n i : Nat) (w : Word) : (s.setReg r n i w).ports = s.ports := (rfl)
@[simp] theorem State.setReg_mbx (s : State) (r : Reg) (n i : Nat) (w : Word) : (s.setReg r n i w).mbx = s.mbx := (rfl)
@[simp] theorem State.setReg_ops (s : State) (r : Reg) (n i : Nat) (w : Word) : (s.setReg r n i w).ops = s.ops := (rfl)
@[simp] theorem State.setReg_reqs (s : State) (r : Reg) (n i : Nat) (w : Word) : (s.setReg r n i w).reqs = s.reqs := (rfl)
@[simp] theorem State.setReg_slots (s : State) (r : Reg) (n i : Nat) (w : Word) : (s.setReg r n i w).slots = s.slots := (rfl)
@[simp] theorem State.setReg_leaving (s : State) (r : Reg) (n i : Nat) (w : Word) : (s.setReg r n i w).leaving = s.leaving := (rfl)
@[simp] theorem State.setReg_slotFresh (s : State) (r : Reg) (n i : Nat) (w : Word) : (s.setReg r n i w).slotFresh = s.slotFresh := (rfl)
@[simp] theorem State.setReg_slotFreed (s : State) (r : Reg) (n i : Nat) (w : Word) : (s.setReg r n i w).slotFreed = s.slotFreed := (rfl)
@[simp] theorem State.setReg_nextOrder (s : State) (r : Reg) (n i : Nat) (w : Word) : (s.setReg r n i w).nextOrder = s.nextOrder := (rfl)
@[simp] theorem State.setReg_shadow (s : State) (r : Reg) (n i : Nat) (w : Word) : (s.setReg r n i w).shadow = s.shadow := (rfl)
@[simp] theorem State.setReg_commits (s : State) (r : Reg) (n i : Nat) (w : Word) : (s.setReg r n i w).commits = s.commits := (rfl)
@[simp] theorem State.setReg_admRng (s : State) (r : Reg) (n i : Nat) (w : Word) : (s.setReg r n i w).admRng = s.admRng := (rfl)
@[simp] theorem State.setReg_spans (s : State) (r : Reg) (n i : Nat) (w : Word) : (s.setReg r n i w).spans = s.spans := (rfl)
@[simp] theorem State.setReg_kv (s : State) (r : Reg) (n i : Nat) (w : Word) : (s.setReg r n i w).kv = s.kv := (rfl)
@[simp] theorem State.setReg_adapters (s : State) (r : Reg) (n i : Nat) (w : Word) : (s.setReg r n i w).adapters = s.adapters := (rfl)
@[simp] theorem State.setReg_tier (s : State) (r : Reg) (n i : Nat) (w : Word) : (s.setReg r n i w).tier = s.tier := (rfl)
@[simp] theorem State.setReg_flash (s : State) (r : Reg) (n i : Nat) (w : Word) : (s.setReg r n i w).flash = s.flash := (rfl)
@[simp] theorem State.setReg_cells (s : State) (r : Reg) (n i : Nat) (w : Word) : (s.setReg r n i w).cells = s.cells := (rfl)
@[simp] theorem State.setReg_waiters (s : State) (r : Reg) (n i : Nat) (w : Word) : (s.setReg r n i w).waiters = s.waiters := (rfl)
@[simp] theorem State.setReg_latchOps (s : State) (r : Reg) (n i : Nat) (w : Word) : (s.setReg r n i w).latchOps = s.latchOps := (rfl)
@[simp] theorem State.setReg_meshRetry (s : State) (r : Reg) (n i : Nat) (w : Word) : (s.setReg r n i w).meshRetry = s.meshRetry := (rfl)
@[simp] theorem State.setReg_linkBusy (s : State) (r : Reg) (n i : Nat) (w : Word) : (s.setReg r n i w).linkBusy = s.linkBusy := (rfl)
@[simp] theorem State.setReg_spareLanes (s : State) (r : Reg) (n i : Nat) (w : Word) : (s.setReg r n i w).spareLanes = s.spareLanes := (rfl)
@[simp] theorem State.setReg_cad (s : State) (r : Reg) (n i : Nat) (w : Word) : (s.setReg r n i w).cad = s.cad := (rfl)
@[simp] theorem State.setReg_pwr (s : State) (r : Reg) (n i : Nat) (w : Word) : (s.setReg r n i w).pwr = s.pwr := (rfl)
@[simp] theorem State.setReg_key (s : State) (r : Reg) (n i : Nat) (w : Word) : (s.setReg r n i w).key = s.key := (rfl)
@[simp] theorem State.setReg_mgmt (s : State) (r : Reg) (n i : Nat) (w : Word) : (s.setReg r n i w).mgmt = s.mgmt := (rfl)
@[simp] theorem State.setReg_notes (s : State) (r : Reg) (n i : Nat) (w : Word) : (s.setReg r n i w).notes = s.notes := (rfl)

@[simp] theorem State.wr_pending (s : State) (f : FieldRef) (v n i : Nat) : (s.wr f v n i).pending = s.pending := (rfl)
@[simp] theorem State.wr_straps (s : State) (f : FieldRef) (v n i : Nat) : (s.wr f v n i).straps = s.straps := (rfl)
@[simp] theorem State.wr_smbA (s : State) (f : FieldRef) (v n i : Nat) : (s.wr f v n i).smbA = s.smbA := (rfl)
@[simp] theorem State.wr_now (s : State) (f : FieldRef) (v n i : Nat) : (s.wr f v n i).now = s.now := (rfl)
@[simp] theorem State.wr_free (s : State) (f : FieldRef) (v n i : Nat) : (s.wr f v n i).free = s.free := (rfl)
@[simp] theorem State.wr_ports (s : State) (f : FieldRef) (v n i : Nat) : (s.wr f v n i).ports = s.ports := (rfl)
@[simp] theorem State.wr_mbx (s : State) (f : FieldRef) (v n i : Nat) : (s.wr f v n i).mbx = s.mbx := (rfl)
@[simp] theorem State.wr_ops (s : State) (f : FieldRef) (v n i : Nat) : (s.wr f v n i).ops = s.ops := (rfl)
@[simp] theorem State.wr_reqs (s : State) (f : FieldRef) (v n i : Nat) : (s.wr f v n i).reqs = s.reqs := (rfl)
@[simp] theorem State.wr_slots (s : State) (f : FieldRef) (v n i : Nat) : (s.wr f v n i).slots = s.slots := (rfl)
@[simp] theorem State.wr_leaving (s : State) (f : FieldRef) (v n i : Nat) : (s.wr f v n i).leaving = s.leaving := (rfl)
@[simp] theorem State.wr_slotFresh (s : State) (f : FieldRef) (v n i : Nat) : (s.wr f v n i).slotFresh = s.slotFresh := (rfl)
@[simp] theorem State.wr_slotFreed (s : State) (f : FieldRef) (v n i : Nat) : (s.wr f v n i).slotFreed = s.slotFreed := (rfl)
@[simp] theorem State.wr_nextOrder (s : State) (f : FieldRef) (v n i : Nat) : (s.wr f v n i).nextOrder = s.nextOrder := (rfl)
@[simp] theorem State.wr_shadow (s : State) (f : FieldRef) (v n i : Nat) : (s.wr f v n i).shadow = s.shadow := (rfl)
@[simp] theorem State.wr_commits (s : State) (f : FieldRef) (v n i : Nat) : (s.wr f v n i).commits = s.commits := (rfl)
@[simp] theorem State.wr_admRng (s : State) (f : FieldRef) (v n i : Nat) : (s.wr f v n i).admRng = s.admRng := (rfl)
@[simp] theorem State.wr_spans (s : State) (f : FieldRef) (v n i : Nat) : (s.wr f v n i).spans = s.spans := (rfl)
@[simp] theorem State.wr_kv (s : State) (f : FieldRef) (v n i : Nat) : (s.wr f v n i).kv = s.kv := (rfl)
@[simp] theorem State.wr_adapters (s : State) (f : FieldRef) (v n i : Nat) : (s.wr f v n i).adapters = s.adapters := (rfl)
@[simp] theorem State.wr_tier (s : State) (f : FieldRef) (v n i : Nat) : (s.wr f v n i).tier = s.tier := (rfl)
@[simp] theorem State.wr_flash (s : State) (f : FieldRef) (v n i : Nat) : (s.wr f v n i).flash = s.flash := (rfl)
@[simp] theorem State.wr_cells (s : State) (f : FieldRef) (v n i : Nat) : (s.wr f v n i).cells = s.cells := (rfl)
@[simp] theorem State.wr_waiters (s : State) (f : FieldRef) (v n i : Nat) : (s.wr f v n i).waiters = s.waiters := (rfl)
@[simp] theorem State.wr_latchOps (s : State) (f : FieldRef) (v n i : Nat) : (s.wr f v n i).latchOps = s.latchOps := (rfl)
@[simp] theorem State.wr_meshRetry (s : State) (f : FieldRef) (v n i : Nat) : (s.wr f v n i).meshRetry = s.meshRetry := (rfl)
@[simp] theorem State.wr_linkBusy (s : State) (f : FieldRef) (v n i : Nat) : (s.wr f v n i).linkBusy = s.linkBusy := (rfl)
@[simp] theorem State.wr_spareLanes (s : State) (f : FieldRef) (v n i : Nat) : (s.wr f v n i).spareLanes = s.spareLanes := (rfl)
@[simp] theorem State.wr_cad (s : State) (f : FieldRef) (v n i : Nat) : (s.wr f v n i).cad = s.cad := (rfl)
@[simp] theorem State.wr_pwr (s : State) (f : FieldRef) (v n i : Nat) : (s.wr f v n i).pwr = s.pwr := (rfl)
@[simp] theorem State.wr_key (s : State) (f : FieldRef) (v n i : Nat) : (s.wr f v n i).key = s.key := (rfl)
@[simp] theorem State.wr_mgmt (s : State) (f : FieldRef) (v n i : Nat) : (s.wr f v n i).mgmt = s.mgmt := (rfl)
@[simp] theorem State.wr_notes (s : State) (f : FieldRef) (v n i : Nat) : (s.wr f v n i).notes = s.notes := (rfl)

@[simp] theorem State.bump_pending (s : State) (f : FieldRef) (n i k : Nat) : (s.bump f n i k).pending = s.pending := (rfl)
@[simp] theorem State.bump_straps (s : State) (f : FieldRef) (n i k : Nat) : (s.bump f n i k).straps = s.straps := (rfl)
@[simp] theorem State.bump_smbA (s : State) (f : FieldRef) (n i k : Nat) : (s.bump f n i k).smbA = s.smbA := (rfl)
@[simp] theorem State.bump_now (s : State) (f : FieldRef) (n i k : Nat) : (s.bump f n i k).now = s.now := (rfl)
@[simp] theorem State.bump_free (s : State) (f : FieldRef) (n i k : Nat) : (s.bump f n i k).free = s.free := (rfl)
@[simp] theorem State.bump_ports (s : State) (f : FieldRef) (n i k : Nat) : (s.bump f n i k).ports = s.ports := (rfl)
@[simp] theorem State.bump_mbx (s : State) (f : FieldRef) (n i k : Nat) : (s.bump f n i k).mbx = s.mbx := (rfl)
@[simp] theorem State.bump_ops (s : State) (f : FieldRef) (n i k : Nat) : (s.bump f n i k).ops = s.ops := (rfl)
@[simp] theorem State.bump_reqs (s : State) (f : FieldRef) (n i k : Nat) : (s.bump f n i k).reqs = s.reqs := (rfl)
@[simp] theorem State.bump_slots (s : State) (f : FieldRef) (n i k : Nat) : (s.bump f n i k).slots = s.slots := (rfl)
@[simp] theorem State.bump_leaving (s : State) (f : FieldRef) (n i k : Nat) : (s.bump f n i k).leaving = s.leaving := (rfl)
@[simp] theorem State.bump_slotFresh (s : State) (f : FieldRef) (n i k : Nat) : (s.bump f n i k).slotFresh = s.slotFresh := (rfl)
@[simp] theorem State.bump_slotFreed (s : State) (f : FieldRef) (n i k : Nat) : (s.bump f n i k).slotFreed = s.slotFreed := (rfl)
@[simp] theorem State.bump_nextOrder (s : State) (f : FieldRef) (n i k : Nat) : (s.bump f n i k).nextOrder = s.nextOrder := (rfl)
@[simp] theorem State.bump_shadow (s : State) (f : FieldRef) (n i k : Nat) : (s.bump f n i k).shadow = s.shadow := (rfl)
@[simp] theorem State.bump_commits (s : State) (f : FieldRef) (n i k : Nat) : (s.bump f n i k).commits = s.commits := (rfl)
@[simp] theorem State.bump_admRng (s : State) (f : FieldRef) (n i k : Nat) : (s.bump f n i k).admRng = s.admRng := (rfl)
@[simp] theorem State.bump_spans (s : State) (f : FieldRef) (n i k : Nat) : (s.bump f n i k).spans = s.spans := (rfl)
@[simp] theorem State.bump_kv (s : State) (f : FieldRef) (n i k : Nat) : (s.bump f n i k).kv = s.kv := (rfl)
@[simp] theorem State.bump_adapters (s : State) (f : FieldRef) (n i k : Nat) : (s.bump f n i k).adapters = s.adapters := (rfl)
@[simp] theorem State.bump_tier (s : State) (f : FieldRef) (n i k : Nat) : (s.bump f n i k).tier = s.tier := (rfl)
@[simp] theorem State.bump_flash (s : State) (f : FieldRef) (n i k : Nat) : (s.bump f n i k).flash = s.flash := (rfl)
@[simp] theorem State.bump_cells (s : State) (f : FieldRef) (n i k : Nat) : (s.bump f n i k).cells = s.cells := (rfl)
@[simp] theorem State.bump_waiters (s : State) (f : FieldRef) (n i k : Nat) : (s.bump f n i k).waiters = s.waiters := (rfl)
@[simp] theorem State.bump_latchOps (s : State) (f : FieldRef) (n i k : Nat) : (s.bump f n i k).latchOps = s.latchOps := (rfl)
@[simp] theorem State.bump_meshRetry (s : State) (f : FieldRef) (n i k : Nat) : (s.bump f n i k).meshRetry = s.meshRetry := (rfl)
@[simp] theorem State.bump_linkBusy (s : State) (f : FieldRef) (n i k : Nat) : (s.bump f n i k).linkBusy = s.linkBusy := (rfl)
@[simp] theorem State.bump_spareLanes (s : State) (f : FieldRef) (n i k : Nat) : (s.bump f n i k).spareLanes = s.spareLanes := (rfl)
@[simp] theorem State.bump_cad (s : State) (f : FieldRef) (n i k : Nat) : (s.bump f n i k).cad = s.cad := (rfl)
@[simp] theorem State.bump_pwr (s : State) (f : FieldRef) (n i k : Nat) : (s.bump f n i k).pwr = s.pwr := (rfl)
@[simp] theorem State.bump_key (s : State) (f : FieldRef) (n i k : Nat) : (s.bump f n i k).key = s.key := (rfl)
@[simp] theorem State.bump_mgmt (s : State) (f : FieldRef) (n i k : Nat) : (s.bump f n i k).mgmt = s.mgmt := (rfl)
@[simp] theorem State.bump_notes (s : State) (f : FieldRef) (n i k : Nat) : (s.bump f n i k).notes = s.notes := (rfl)

@[simp] theorem State.bump64_pending (s : State) (f : FieldRef) (n i k : Nat) : (s.bump64 f n i k).pending = s.pending := (rfl)
@[simp] theorem State.bump64_straps (s : State) (f : FieldRef) (n i k : Nat) : (s.bump64 f n i k).straps = s.straps := (rfl)
@[simp] theorem State.bump64_smbA (s : State) (f : FieldRef) (n i k : Nat) : (s.bump64 f n i k).smbA = s.smbA := (rfl)
@[simp] theorem State.bump64_now (s : State) (f : FieldRef) (n i k : Nat) : (s.bump64 f n i k).now = s.now := (rfl)
@[simp] theorem State.bump64_free (s : State) (f : FieldRef) (n i k : Nat) : (s.bump64 f n i k).free = s.free := (rfl)
@[simp] theorem State.bump64_ports (s : State) (f : FieldRef) (n i k : Nat) : (s.bump64 f n i k).ports = s.ports := (rfl)
@[simp] theorem State.bump64_mbx (s : State) (f : FieldRef) (n i k : Nat) : (s.bump64 f n i k).mbx = s.mbx := (rfl)
@[simp] theorem State.bump64_ops (s : State) (f : FieldRef) (n i k : Nat) : (s.bump64 f n i k).ops = s.ops := (rfl)
@[simp] theorem State.bump64_reqs (s : State) (f : FieldRef) (n i k : Nat) : (s.bump64 f n i k).reqs = s.reqs := (rfl)
@[simp] theorem State.bump64_slots (s : State) (f : FieldRef) (n i k : Nat) : (s.bump64 f n i k).slots = s.slots := (rfl)
@[simp] theorem State.bump64_leaving (s : State) (f : FieldRef) (n i k : Nat) : (s.bump64 f n i k).leaving = s.leaving := (rfl)
@[simp] theorem State.bump64_slotFresh (s : State) (f : FieldRef) (n i k : Nat) : (s.bump64 f n i k).slotFresh = s.slotFresh := (rfl)
@[simp] theorem State.bump64_slotFreed (s : State) (f : FieldRef) (n i k : Nat) : (s.bump64 f n i k).slotFreed = s.slotFreed := (rfl)
@[simp] theorem State.bump64_nextOrder (s : State) (f : FieldRef) (n i k : Nat) : (s.bump64 f n i k).nextOrder = s.nextOrder := (rfl)
@[simp] theorem State.bump64_shadow (s : State) (f : FieldRef) (n i k : Nat) : (s.bump64 f n i k).shadow = s.shadow := (rfl)
@[simp] theorem State.bump64_commits (s : State) (f : FieldRef) (n i k : Nat) : (s.bump64 f n i k).commits = s.commits := (rfl)
@[simp] theorem State.bump64_admRng (s : State) (f : FieldRef) (n i k : Nat) : (s.bump64 f n i k).admRng = s.admRng := (rfl)
@[simp] theorem State.bump64_spans (s : State) (f : FieldRef) (n i k : Nat) : (s.bump64 f n i k).spans = s.spans := (rfl)
@[simp] theorem State.bump64_kv (s : State) (f : FieldRef) (n i k : Nat) : (s.bump64 f n i k).kv = s.kv := (rfl)
@[simp] theorem State.bump64_adapters (s : State) (f : FieldRef) (n i k : Nat) : (s.bump64 f n i k).adapters = s.adapters := (rfl)
@[simp] theorem State.bump64_tier (s : State) (f : FieldRef) (n i k : Nat) : (s.bump64 f n i k).tier = s.tier := (rfl)
@[simp] theorem State.bump64_flash (s : State) (f : FieldRef) (n i k : Nat) : (s.bump64 f n i k).flash = s.flash := (rfl)
@[simp] theorem State.bump64_cells (s : State) (f : FieldRef) (n i k : Nat) : (s.bump64 f n i k).cells = s.cells := (rfl)
@[simp] theorem State.bump64_waiters (s : State) (f : FieldRef) (n i k : Nat) : (s.bump64 f n i k).waiters = s.waiters := (rfl)
@[simp] theorem State.bump64_latchOps (s : State) (f : FieldRef) (n i k : Nat) : (s.bump64 f n i k).latchOps = s.latchOps := (rfl)
@[simp] theorem State.bump64_meshRetry (s : State) (f : FieldRef) (n i k : Nat) : (s.bump64 f n i k).meshRetry = s.meshRetry := (rfl)
@[simp] theorem State.bump64_linkBusy (s : State) (f : FieldRef) (n i k : Nat) : (s.bump64 f n i k).linkBusy = s.linkBusy := (rfl)
@[simp] theorem State.bump64_spareLanes (s : State) (f : FieldRef) (n i k : Nat) : (s.bump64 f n i k).spareLanes = s.spareLanes := (rfl)
@[simp] theorem State.bump64_cad (s : State) (f : FieldRef) (n i k : Nat) : (s.bump64 f n i k).cad = s.cad := (rfl)
@[simp] theorem State.bump64_pwr (s : State) (f : FieldRef) (n i k : Nat) : (s.bump64 f n i k).pwr = s.pwr := (rfl)
@[simp] theorem State.bump64_key (s : State) (f : FieldRef) (n i k : Nat) : (s.bump64 f n i k).key = s.key := (rfl)
@[simp] theorem State.bump64_mgmt (s : State) (f : FieldRef) (n i k : Nat) : (s.bump64 f n i k).mgmt = s.mgmt := (rfl)
@[simp] theorem State.bump64_notes (s : State) (f : FieldRef) (n i k : Nat) : (s.bump64 f n i k).notes = s.notes := (rfl)

@[simp] theorem State.setBit_pending (s : State) (f : FieldRef) (b n i : Nat) : (s.setBit f b n i).pending = s.pending := (rfl)
@[simp] theorem State.setBit_straps (s : State) (f : FieldRef) (b n i : Nat) : (s.setBit f b n i).straps = s.straps := (rfl)
@[simp] theorem State.setBit_smbA (s : State) (f : FieldRef) (b n i : Nat) : (s.setBit f b n i).smbA = s.smbA := (rfl)
@[simp] theorem State.setBit_now (s : State) (f : FieldRef) (b n i : Nat) : (s.setBit f b n i).now = s.now := (rfl)
@[simp] theorem State.setBit_free (s : State) (f : FieldRef) (b n i : Nat) : (s.setBit f b n i).free = s.free := (rfl)
@[simp] theorem State.setBit_ports (s : State) (f : FieldRef) (b n i : Nat) : (s.setBit f b n i).ports = s.ports := (rfl)
@[simp] theorem State.setBit_mbx (s : State) (f : FieldRef) (b n i : Nat) : (s.setBit f b n i).mbx = s.mbx := (rfl)
@[simp] theorem State.setBit_ops (s : State) (f : FieldRef) (b n i : Nat) : (s.setBit f b n i).ops = s.ops := (rfl)
@[simp] theorem State.setBit_reqs (s : State) (f : FieldRef) (b n i : Nat) : (s.setBit f b n i).reqs = s.reqs := (rfl)
@[simp] theorem State.setBit_slots (s : State) (f : FieldRef) (b n i : Nat) : (s.setBit f b n i).slots = s.slots := (rfl)
@[simp] theorem State.setBit_leaving (s : State) (f : FieldRef) (b n i : Nat) : (s.setBit f b n i).leaving = s.leaving := (rfl)
@[simp] theorem State.setBit_slotFresh (s : State) (f : FieldRef) (b n i : Nat) : (s.setBit f b n i).slotFresh = s.slotFresh := (rfl)
@[simp] theorem State.setBit_slotFreed (s : State) (f : FieldRef) (b n i : Nat) : (s.setBit f b n i).slotFreed = s.slotFreed := (rfl)
@[simp] theorem State.setBit_nextOrder (s : State) (f : FieldRef) (b n i : Nat) : (s.setBit f b n i).nextOrder = s.nextOrder := (rfl)
@[simp] theorem State.setBit_shadow (s : State) (f : FieldRef) (b n i : Nat) : (s.setBit f b n i).shadow = s.shadow := (rfl)
@[simp] theorem State.setBit_commits (s : State) (f : FieldRef) (b n i : Nat) : (s.setBit f b n i).commits = s.commits := (rfl)
@[simp] theorem State.setBit_admRng (s : State) (f : FieldRef) (b n i : Nat) : (s.setBit f b n i).admRng = s.admRng := (rfl)
@[simp] theorem State.setBit_spans (s : State) (f : FieldRef) (b n i : Nat) : (s.setBit f b n i).spans = s.spans := (rfl)
@[simp] theorem State.setBit_kv (s : State) (f : FieldRef) (b n i : Nat) : (s.setBit f b n i).kv = s.kv := (rfl)
@[simp] theorem State.setBit_adapters (s : State) (f : FieldRef) (b n i : Nat) : (s.setBit f b n i).adapters = s.adapters := (rfl)
@[simp] theorem State.setBit_tier (s : State) (f : FieldRef) (b n i : Nat) : (s.setBit f b n i).tier = s.tier := (rfl)
@[simp] theorem State.setBit_flash (s : State) (f : FieldRef) (b n i : Nat) : (s.setBit f b n i).flash = s.flash := (rfl)
@[simp] theorem State.setBit_cells (s : State) (f : FieldRef) (b n i : Nat) : (s.setBit f b n i).cells = s.cells := (rfl)
@[simp] theorem State.setBit_waiters (s : State) (f : FieldRef) (b n i : Nat) : (s.setBit f b n i).waiters = s.waiters := (rfl)
@[simp] theorem State.setBit_latchOps (s : State) (f : FieldRef) (b n i : Nat) : (s.setBit f b n i).latchOps = s.latchOps := (rfl)
@[simp] theorem State.setBit_meshRetry (s : State) (f : FieldRef) (b n i : Nat) : (s.setBit f b n i).meshRetry = s.meshRetry := (rfl)
@[simp] theorem State.setBit_linkBusy (s : State) (f : FieldRef) (b n i : Nat) : (s.setBit f b n i).linkBusy = s.linkBusy := (rfl)
@[simp] theorem State.setBit_spareLanes (s : State) (f : FieldRef) (b n i : Nat) : (s.setBit f b n i).spareLanes = s.spareLanes := (rfl)
@[simp] theorem State.setBit_cad (s : State) (f : FieldRef) (b n i : Nat) : (s.setBit f b n i).cad = s.cad := (rfl)
@[simp] theorem State.setBit_pwr (s : State) (f : FieldRef) (b n i : Nat) : (s.setBit f b n i).pwr = s.pwr := (rfl)
@[simp] theorem State.setBit_key (s : State) (f : FieldRef) (b n i : Nat) : (s.setBit f b n i).key = s.key := (rfl)
@[simp] theorem State.setBit_mgmt (s : State) (f : FieldRef) (b n i : Nat) : (s.setBit f b n i).mgmt = s.mgmt := (rfl)
@[simp] theorem State.setBit_notes (s : State) (f : FieldRef) (b n i : Nat) : (s.setBit f b n i).notes = s.notes := (rfl)

@[simp] theorem State.clrBit_pending (s : State) (f : FieldRef) (b n i : Nat) : (s.clrBit f b n i).pending = s.pending := (rfl)
@[simp] theorem State.clrBit_straps (s : State) (f : FieldRef) (b n i : Nat) : (s.clrBit f b n i).straps = s.straps := (rfl)
@[simp] theorem State.clrBit_smbA (s : State) (f : FieldRef) (b n i : Nat) : (s.clrBit f b n i).smbA = s.smbA := (rfl)
@[simp] theorem State.clrBit_now (s : State) (f : FieldRef) (b n i : Nat) : (s.clrBit f b n i).now = s.now := (rfl)
@[simp] theorem State.clrBit_free (s : State) (f : FieldRef) (b n i : Nat) : (s.clrBit f b n i).free = s.free := (rfl)
@[simp] theorem State.clrBit_ports (s : State) (f : FieldRef) (b n i : Nat) : (s.clrBit f b n i).ports = s.ports := (rfl)
@[simp] theorem State.clrBit_mbx (s : State) (f : FieldRef) (b n i : Nat) : (s.clrBit f b n i).mbx = s.mbx := (rfl)
@[simp] theorem State.clrBit_ops (s : State) (f : FieldRef) (b n i : Nat) : (s.clrBit f b n i).ops = s.ops := (rfl)
@[simp] theorem State.clrBit_reqs (s : State) (f : FieldRef) (b n i : Nat) : (s.clrBit f b n i).reqs = s.reqs := (rfl)
@[simp] theorem State.clrBit_slots (s : State) (f : FieldRef) (b n i : Nat) : (s.clrBit f b n i).slots = s.slots := (rfl)
@[simp] theorem State.clrBit_leaving (s : State) (f : FieldRef) (b n i : Nat) : (s.clrBit f b n i).leaving = s.leaving := (rfl)
@[simp] theorem State.clrBit_slotFresh (s : State) (f : FieldRef) (b n i : Nat) : (s.clrBit f b n i).slotFresh = s.slotFresh := (rfl)
@[simp] theorem State.clrBit_slotFreed (s : State) (f : FieldRef) (b n i : Nat) : (s.clrBit f b n i).slotFreed = s.slotFreed := (rfl)
@[simp] theorem State.clrBit_nextOrder (s : State) (f : FieldRef) (b n i : Nat) : (s.clrBit f b n i).nextOrder = s.nextOrder := (rfl)
@[simp] theorem State.clrBit_shadow (s : State) (f : FieldRef) (b n i : Nat) : (s.clrBit f b n i).shadow = s.shadow := (rfl)
@[simp] theorem State.clrBit_commits (s : State) (f : FieldRef) (b n i : Nat) : (s.clrBit f b n i).commits = s.commits := (rfl)
@[simp] theorem State.clrBit_admRng (s : State) (f : FieldRef) (b n i : Nat) : (s.clrBit f b n i).admRng = s.admRng := (rfl)
@[simp] theorem State.clrBit_spans (s : State) (f : FieldRef) (b n i : Nat) : (s.clrBit f b n i).spans = s.spans := (rfl)
@[simp] theorem State.clrBit_kv (s : State) (f : FieldRef) (b n i : Nat) : (s.clrBit f b n i).kv = s.kv := (rfl)
@[simp] theorem State.clrBit_adapters (s : State) (f : FieldRef) (b n i : Nat) : (s.clrBit f b n i).adapters = s.adapters := (rfl)
@[simp] theorem State.clrBit_tier (s : State) (f : FieldRef) (b n i : Nat) : (s.clrBit f b n i).tier = s.tier := (rfl)
@[simp] theorem State.clrBit_flash (s : State) (f : FieldRef) (b n i : Nat) : (s.clrBit f b n i).flash = s.flash := (rfl)
@[simp] theorem State.clrBit_cells (s : State) (f : FieldRef) (b n i : Nat) : (s.clrBit f b n i).cells = s.cells := (rfl)
@[simp] theorem State.clrBit_waiters (s : State) (f : FieldRef) (b n i : Nat) : (s.clrBit f b n i).waiters = s.waiters := (rfl)
@[simp] theorem State.clrBit_latchOps (s : State) (f : FieldRef) (b n i : Nat) : (s.clrBit f b n i).latchOps = s.latchOps := (rfl)
@[simp] theorem State.clrBit_meshRetry (s : State) (f : FieldRef) (b n i : Nat) : (s.clrBit f b n i).meshRetry = s.meshRetry := (rfl)
@[simp] theorem State.clrBit_linkBusy (s : State) (f : FieldRef) (b n i : Nat) : (s.clrBit f b n i).linkBusy = s.linkBusy := (rfl)
@[simp] theorem State.clrBit_spareLanes (s : State) (f : FieldRef) (b n i : Nat) : (s.clrBit f b n i).spareLanes = s.spareLanes := (rfl)
@[simp] theorem State.clrBit_cad (s : State) (f : FieldRef) (b n i : Nat) : (s.clrBit f b n i).cad = s.cad := (rfl)
@[simp] theorem State.clrBit_pwr (s : State) (f : FieldRef) (b n i : Nat) : (s.clrBit f b n i).pwr = s.pwr := (rfl)
@[simp] theorem State.clrBit_key (s : State) (f : FieldRef) (b n i : Nat) : (s.clrBit f b n i).key = s.key := (rfl)
@[simp] theorem State.clrBit_mgmt (s : State) (f : FieldRef) (b n i : Nat) : (s.clrBit f b n i).mgmt = s.mgmt := (rfl)
@[simp] theorem State.clrBit_notes (s : State) (f : FieldRef) (b n i : Nat) : (s.clrBit f b n i).notes = s.notes := (rfl)

/-- Moving the clock to a cadence time is moving it to a time. -/
theorem State.atCadence_eq (s : State) (d : Nat) :
    s.atCadence d = s.atTime (s.cad.last + d % 65536 * s.periodNs / 65536 - (s.periods - d / 65536) * s.periodNs) := (rfl)
/-- What waits for `n` periods happens at their end. -/
theorem State.whenPassed_due {s : State} {d n : Nat} {f : State → State} (h : (d + n * 65536) / 65536 ≤ s.periods) :
    s.whenPassed d n f = f (s.atCadence (d + n * 65536)) := by
  simp only [State.whenPassed, Nat.not_lt.mpr h, if_false]
@[simp] theorem State.atTime_pending (s : State) (t : Nat) : (s.atTime t).pending = s.pending := (rfl)
@[simp] theorem State.atTime_regs (s : State) (t : Nat) : (s.atTime t).regs = s.regs := (rfl)
@[simp] theorem State.atTime_straps (s : State) (t : Nat) : (s.atTime t).straps = s.straps := (rfl)
@[simp] theorem State.atTime_smbA (s : State) (t : Nat) : (s.atTime t).smbA = s.smbA := (rfl)
@[simp] theorem State.atTime_free (s : State) (t : Nat) : (s.atTime t).free = s.free := (rfl)
@[simp] theorem State.atTime_ports (s : State) (t : Nat) : (s.atTime t).ports = s.ports := (rfl)
@[simp] theorem State.atTime_mbx (s : State) (t : Nat) : (s.atTime t).mbx = s.mbx := (rfl)
@[simp] theorem State.atTime_ops (s : State) (t : Nat) : (s.atTime t).ops = s.ops := (rfl)
@[simp] theorem State.atTime_reqs (s : State) (t : Nat) : (s.atTime t).reqs = s.reqs := (rfl)
@[simp] theorem State.atTime_slots (s : State) (t : Nat) : (s.atTime t).slots = s.slots := (rfl)
@[simp] theorem State.atTime_leaving (s : State) (t : Nat) : (s.atTime t).leaving = s.leaving := (rfl)
@[simp] theorem State.atTime_slotFresh (s : State) (t : Nat) : (s.atTime t).slotFresh = s.slotFresh := (rfl)
@[simp] theorem State.atTime_slotFreed (s : State) (t : Nat) : (s.atTime t).slotFreed = s.slotFreed := (rfl)
@[simp] theorem State.atTime_nextOrder (s : State) (t : Nat) : (s.atTime t).nextOrder = s.nextOrder := (rfl)
@[simp] theorem State.atTime_shadow (s : State) (t : Nat) : (s.atTime t).shadow = s.shadow := (rfl)
@[simp] theorem State.atTime_commits (s : State) (t : Nat) : (s.atTime t).commits = s.commits := (rfl)
@[simp] theorem State.atTime_admRng (s : State) (t : Nat) : (s.atTime t).admRng = s.admRng := (rfl)
@[simp] theorem State.atTime_spans (s : State) (t : Nat) : (s.atTime t).spans = s.spans := (rfl)
@[simp] theorem State.atTime_kv (s : State) (t : Nat) : (s.atTime t).kv = s.kv := (rfl)
@[simp] theorem State.atTime_adapters (s : State) (t : Nat) : (s.atTime t).adapters = s.adapters := (rfl)
@[simp] theorem State.atTime_tier (s : State) (t : Nat) : (s.atTime t).tier = s.tier := (rfl)
@[simp] theorem State.atTime_flash (s : State) (t : Nat) : (s.atTime t).flash = s.flash := (rfl)
@[simp] theorem State.atTime_cells (s : State) (t : Nat) : (s.atTime t).cells = s.cells := (rfl)
@[simp] theorem State.atTime_waiters (s : State) (t : Nat) : (s.atTime t).waiters = s.waiters := (rfl)
@[simp] theorem State.atTime_latchOps (s : State) (t : Nat) : (s.atTime t).latchOps = s.latchOps := (rfl)
@[simp] theorem State.atTime_meshRetry (s : State) (t : Nat) : (s.atTime t).meshRetry = s.meshRetry := (rfl)
@[simp] theorem State.atTime_linkBusy (s : State) (t : Nat) : (s.atTime t).linkBusy = s.linkBusy := (rfl)
@[simp] theorem State.atTime_spareLanes (s : State) (t : Nat) : (s.atTime t).spareLanes = s.spareLanes := (rfl)
@[simp] theorem State.atTime_cad (s : State) (t : Nat) : (s.atTime t).cad = s.cad := (rfl)
@[simp] theorem State.atTime_pwr (s : State) (t : Nat) : (s.atTime t).pwr = s.pwr := (rfl)
@[simp] theorem State.atTime_key (s : State) (t : Nat) : (s.atTime t).key = s.key := (rfl)
@[simp] theorem State.atTime_mgmt (s : State) (t : Nat) : (s.atTime t).mgmt = s.mgmt := (rfl)
@[simp] theorem State.atTime_notes (s : State) (t : Nat) : (s.atTime t).notes = s.notes := (rfl)

@[simp] theorem State.after_pending (s : State) (t : Nat) : (s.after t).pending = s.pending := (rfl)
@[simp] theorem State.after_regs (s : State) (t : Nat) : (s.after t).regs = s.regs := (rfl)
@[simp] theorem State.after_straps (s : State) (t : Nat) : (s.after t).straps = s.straps := (rfl)
@[simp] theorem State.after_smbA (s : State) (t : Nat) : (s.after t).smbA = s.smbA := (rfl)
@[simp] theorem State.after_free (s : State) (t : Nat) : (s.after t).free = s.free := (rfl)
@[simp] theorem State.after_ports (s : State) (t : Nat) : (s.after t).ports = s.ports := (rfl)
@[simp] theorem State.after_mbx (s : State) (t : Nat) : (s.after t).mbx = s.mbx := (rfl)
@[simp] theorem State.after_ops (s : State) (t : Nat) : (s.after t).ops = s.ops := (rfl)
@[simp] theorem State.after_reqs (s : State) (t : Nat) : (s.after t).reqs = s.reqs := (rfl)
@[simp] theorem State.after_slots (s : State) (t : Nat) : (s.after t).slots = s.slots := (rfl)
@[simp] theorem State.after_leaving (s : State) (t : Nat) : (s.after t).leaving = s.leaving := (rfl)
@[simp] theorem State.after_slotFresh (s : State) (t : Nat) : (s.after t).slotFresh = s.slotFresh := (rfl)
@[simp] theorem State.after_slotFreed (s : State) (t : Nat) : (s.after t).slotFreed = s.slotFreed := (rfl)
@[simp] theorem State.after_nextOrder (s : State) (t : Nat) : (s.after t).nextOrder = s.nextOrder := (rfl)
@[simp] theorem State.after_shadow (s : State) (t : Nat) : (s.after t).shadow = s.shadow := (rfl)
@[simp] theorem State.after_commits (s : State) (t : Nat) : (s.after t).commits = s.commits := (rfl)
@[simp] theorem State.after_admRng (s : State) (t : Nat) : (s.after t).admRng = s.admRng := (rfl)
@[simp] theorem State.after_spans (s : State) (t : Nat) : (s.after t).spans = s.spans := (rfl)
@[simp] theorem State.after_kv (s : State) (t : Nat) : (s.after t).kv = s.kv := (rfl)
@[simp] theorem State.after_adapters (s : State) (t : Nat) : (s.after t).adapters = s.adapters := (rfl)
@[simp] theorem State.after_tier (s : State) (t : Nat) : (s.after t).tier = s.tier := (rfl)
@[simp] theorem State.after_flash (s : State) (t : Nat) : (s.after t).flash = s.flash := (rfl)
@[simp] theorem State.after_cells (s : State) (t : Nat) : (s.after t).cells = s.cells := (rfl)
@[simp] theorem State.after_waiters (s : State) (t : Nat) : (s.after t).waiters = s.waiters := (rfl)
@[simp] theorem State.after_latchOps (s : State) (t : Nat) : (s.after t).latchOps = s.latchOps := (rfl)
@[simp] theorem State.after_meshRetry (s : State) (t : Nat) : (s.after t).meshRetry = s.meshRetry := (rfl)
@[simp] theorem State.after_linkBusy (s : State) (t : Nat) : (s.after t).linkBusy = s.linkBusy := (rfl)
@[simp] theorem State.after_spareLanes (s : State) (t : Nat) : (s.after t).spareLanes = s.spareLanes := (rfl)
@[simp] theorem State.after_cad (s : State) (t : Nat) : (s.after t).cad = s.cad := (rfl)
@[simp] theorem State.after_pwr (s : State) (t : Nat) : (s.after t).pwr = s.pwr := (rfl)
@[simp] theorem State.after_key (s : State) (t : Nat) : (s.after t).key = s.key := (rfl)
@[simp] theorem State.after_mgmt (s : State) (t : Nat) : (s.after t).mgmt = s.mgmt := (rfl)
@[simp] theorem State.after_notes (s : State) (t : Nat) : (s.after t).notes = s.notes := (rfl)

/-! ### Accessors over the parts that an update leaves -/

@[simp] theorem State.modPort_reg (s : State) (p : Nat) (f : HostPort → HostPort) (r : Reg) (m j : Nat) : (s.modPort p f).reg r m j = s.reg r m j := (rfl)
@[simp] theorem State.modPort_rd (s : State) (p : Nat) (f : HostPort → HostPort) (g : FieldRef) (m j : Nat) : (s.modPort p f).rd g m j = s.rd g m j := (rfl)
@[simp] theorem State.modPort_flag (s : State) (p : Nat) (f : HostPort → HostPort) (g : FieldRef) (m j : Nat) : (s.modPort p f).flag g m j = s.flag g m j := (rfl)
@[simp] theorem State.modPort_slot (s : State) (p : Nat) (f : HostPort → HostPort) (j : Nat) : (s.modPort p f).slot j = s.slot j := (rfl)
@[simp] theorem State.modPort_span (s : State) (p : Nat) (f : HostPort → HostPort) (j : Nat) : (s.modPort p f).span j = s.span j := (rfl)
@[simp] theorem State.modPort_op (s : State) (p : Nat) (f : HostPort → HostPort) (j : Nat) : (s.modPort p f).op j = s.op j := (rfl)
@[simp] theorem State.modPort_cell (s : State) (p : Nat) (f : HostPort → HostPort) (j : Nat) : (s.modPort p f).cell j = s.cell j := (rfl)
@[simp] theorem State.modPort_obj (s : State) (p : Nat) (f : HostPort → HostPort) (j : Nat) : (s.modPort p f).obj j = s.obj j := (rfl)
@[simp] theorem State.modPort_box (s : State) (p : Nat) (f : HostPort → HostPort) (j : Nat) : (s.modPort p f).box j = s.box j := (rfl)

@[simp] theorem State.modSlot_reg (s : State) (i : Nat) (f : Slot → Slot) (r : Reg) (m j : Nat) : (s.modSlot i f).reg r m j = s.reg r m j := (rfl)
@[simp] theorem State.modSlot_rd (s : State) (i : Nat) (f : Slot → Slot) (g : FieldRef) (m j : Nat) : (s.modSlot i f).rd g m j = s.rd g m j := (rfl)
@[simp] theorem State.modSlot_flag (s : State) (i : Nat) (f : Slot → Slot) (g : FieldRef) (m j : Nat) : (s.modSlot i f).flag g m j = s.flag g m j := (rfl)
@[simp] theorem State.modSlot_port (s : State) (i : Nat) (f : Slot → Slot) (q : Nat) : (s.modSlot i f).port q = s.port q := (rfl)
@[simp] theorem State.modSlot_span (s : State) (i : Nat) (f : Slot → Slot) (j : Nat) : (s.modSlot i f).span j = s.span j := (rfl)
@[simp] theorem State.modSlot_op (s : State) (i : Nat) (f : Slot → Slot) (j : Nat) : (s.modSlot i f).op j = s.op j := (rfl)
@[simp] theorem State.modSlot_cell (s : State) (i : Nat) (f : Slot → Slot) (j : Nat) : (s.modSlot i f).cell j = s.cell j := (rfl)
@[simp] theorem State.modSlot_obj (s : State) (i : Nat) (f : Slot → Slot) (j : Nat) : (s.modSlot i f).obj j = s.obj j := (rfl)
@[simp] theorem State.modSlot_box (s : State) (i : Nat) (f : Slot → Slot) (j : Nat) : (s.modSlot i f).box j = s.box j := (rfl)
@[simp] theorem State.modSlot_queue (s : State) (i : Nat) (f : Slot → Slot) (q j : Nat) : (s.modSlot i f).queue q j = s.queue q j := (rfl)

@[simp] theorem State.modSpan_reg (s : State) (i : Nat) (f : Span → Span) (r : Reg) (m j : Nat) : (s.modSpan i f).reg r m j = s.reg r m j := (rfl)
@[simp] theorem State.modSpan_rd (s : State) (i : Nat) (f : Span → Span) (g : FieldRef) (m j : Nat) : (s.modSpan i f).rd g m j = s.rd g m j := (rfl)
@[simp] theorem State.modSpan_flag (s : State) (i : Nat) (f : Span → Span) (g : FieldRef) (m j : Nat) : (s.modSpan i f).flag g m j = s.flag g m j := (rfl)
@[simp] theorem State.modSpan_port (s : State) (i : Nat) (f : Span → Span) (q : Nat) : (s.modSpan i f).port q = s.port q := (rfl)
@[simp] theorem State.modSpan_slot (s : State) (i : Nat) (f : Span → Span) (j : Nat) : (s.modSpan i f).slot j = s.slot j := (rfl)
@[simp] theorem State.modSpan_op (s : State) (i : Nat) (f : Span → Span) (j : Nat) : (s.modSpan i f).op j = s.op j := (rfl)
@[simp] theorem State.modSpan_cell (s : State) (i : Nat) (f : Span → Span) (j : Nat) : (s.modSpan i f).cell j = s.cell j := (rfl)
@[simp] theorem State.modSpan_obj (s : State) (i : Nat) (f : Span → Span) (j : Nat) : (s.modSpan i f).obj j = s.obj j := (rfl)
@[simp] theorem State.modSpan_box (s : State) (i : Nat) (f : Span → Span) (j : Nat) : (s.modSpan i f).box j = s.box j := (rfl)
@[simp] theorem State.modSpan_queue (s : State) (i : Nat) (f : Span → Span) (q j : Nat) : (s.modSpan i f).queue q j = s.queue q j := (rfl)

@[simp] theorem State.modOp_reg (s : State) (i : Nat) (f : Op → Op) (r : Reg) (m j : Nat) : (s.modOp i f).reg r m j = s.reg r m j := (rfl)
@[simp] theorem State.modOp_rd (s : State) (i : Nat) (f : Op → Op) (g : FieldRef) (m j : Nat) : (s.modOp i f).rd g m j = s.rd g m j := (rfl)
@[simp] theorem State.modOp_flag (s : State) (i : Nat) (f : Op → Op) (g : FieldRef) (m j : Nat) : (s.modOp i f).flag g m j = s.flag g m j := (rfl)
@[simp] theorem State.modOp_port (s : State) (i : Nat) (f : Op → Op) (q : Nat) : (s.modOp i f).port q = s.port q := (rfl)
@[simp] theorem State.modOp_slot (s : State) (i : Nat) (f : Op → Op) (j : Nat) : (s.modOp i f).slot j = s.slot j := (rfl)
@[simp] theorem State.modOp_span (s : State) (i : Nat) (f : Op → Op) (j : Nat) : (s.modOp i f).span j = s.span j := (rfl)
@[simp] theorem State.modOp_cell (s : State) (i : Nat) (f : Op → Op) (j : Nat) : (s.modOp i f).cell j = s.cell j := (rfl)
@[simp] theorem State.modOp_obj (s : State) (i : Nat) (f : Op → Op) (j : Nat) : (s.modOp i f).obj j = s.obj j := (rfl)
@[simp] theorem State.modOp_box (s : State) (i : Nat) (f : Op → Op) (j : Nat) : (s.modOp i f).box j = s.box j := (rfl)
@[simp] theorem State.modOp_queue (s : State) (i : Nat) (f : Op → Op) (q j : Nat) : (s.modOp i f).queue q j = s.queue q j := (rfl)

@[simp] theorem State.modCell_reg (s : State) (n : Nat) (f : Cell → Cell) (r : Reg) (m j : Nat) : (s.modCell n f).reg r m j = s.reg r m j := (rfl)
@[simp] theorem State.modCell_rd (s : State) (n : Nat) (f : Cell → Cell) (g : FieldRef) (m j : Nat) : (s.modCell n f).rd g m j = s.rd g m j := (rfl)
@[simp] theorem State.modCell_flag (s : State) (n : Nat) (f : Cell → Cell) (g : FieldRef) (m j : Nat) : (s.modCell n f).flag g m j = s.flag g m j := (rfl)
@[simp] theorem State.modCell_port (s : State) (n : Nat) (f : Cell → Cell) (q : Nat) : (s.modCell n f).port q = s.port q := (rfl)
@[simp] theorem State.modCell_slot (s : State) (n : Nat) (f : Cell → Cell) (j : Nat) : (s.modCell n f).slot j = s.slot j := (rfl)
@[simp] theorem State.modCell_span (s : State) (n : Nat) (f : Cell → Cell) (j : Nat) : (s.modCell n f).span j = s.span j := (rfl)
@[simp] theorem State.modCell_op (s : State) (n : Nat) (f : Cell → Cell) (j : Nat) : (s.modCell n f).op j = s.op j := (rfl)
@[simp] theorem State.modCell_obj (s : State) (n : Nat) (f : Cell → Cell) (j : Nat) : (s.modCell n f).obj j = s.obj j := (rfl)
@[simp] theorem State.modCell_box (s : State) (n : Nat) (f : Cell → Cell) (j : Nat) : (s.modCell n f).box j = s.box j := (rfl)
@[simp] theorem State.modCell_queue (s : State) (n : Nat) (f : Cell → Cell) (q j : Nat) : (s.modCell n f).queue q j = s.queue q j := (rfl)

@[simp] theorem State.modAdapter_reg (s : State) (sp a : Nat) (f : AdIndex → AdIndex) (r : Reg) (m j : Nat) : (s.modAdapter sp a f).reg r m j = s.reg r m j := (rfl)
@[simp] theorem State.modAdapter_rd (s : State) (sp a : Nat) (f : AdIndex → AdIndex) (g : FieldRef) (m j : Nat) : (s.modAdapter sp a f).rd g m j = s.rd g m j := (rfl)
@[simp] theorem State.modAdapter_flag (s : State) (sp a : Nat) (f : AdIndex → AdIndex) (g : FieldRef) (m j : Nat) : (s.modAdapter sp a f).flag g m j = s.flag g m j := (rfl)
@[simp] theorem State.modAdapter_port (s : State) (sp a : Nat) (f : AdIndex → AdIndex) (q : Nat) : (s.modAdapter sp a f).port q = s.port q := (rfl)
@[simp] theorem State.modAdapter_slot (s : State) (sp a : Nat) (f : AdIndex → AdIndex) (j : Nat) : (s.modAdapter sp a f).slot j = s.slot j := (rfl)
@[simp] theorem State.modAdapter_span (s : State) (sp a : Nat) (f : AdIndex → AdIndex) (j : Nat) : (s.modAdapter sp a f).span j = s.span j := (rfl)
@[simp] theorem State.modAdapter_op (s : State) (sp a : Nat) (f : AdIndex → AdIndex) (j : Nat) : (s.modAdapter sp a f).op j = s.op j := (rfl)
@[simp] theorem State.modAdapter_cell (s : State) (sp a : Nat) (f : AdIndex → AdIndex) (j : Nat) : (s.modAdapter sp a f).cell j = s.cell j := (rfl)
@[simp] theorem State.modAdapter_obj (s : State) (sp a : Nat) (f : AdIndex → AdIndex) (j : Nat) : (s.modAdapter sp a f).obj j = s.obj j := (rfl)
@[simp] theorem State.modAdapter_box (s : State) (sp a : Nat) (f : AdIndex → AdIndex) (j : Nat) : (s.modAdapter sp a f).box j = s.box j := (rfl)
@[simp] theorem State.modAdapter_queue (s : State) (sp a : Nat) (f : AdIndex → AdIndex) (q j : Nat) : (s.modAdapter sp a f).queue q j = s.queue q j := (rfl)

@[simp] theorem State.modTier_reg (s : State) (f : Tier → Tier) (r : Reg) (m j : Nat) : (s.modTier f).reg r m j = s.reg r m j := (rfl)
@[simp] theorem State.modTier_rd (s : State) (f : Tier → Tier) (g : FieldRef) (m j : Nat) : (s.modTier f).rd g m j = s.rd g m j := (rfl)
@[simp] theorem State.modTier_flag (s : State) (f : Tier → Tier) (g : FieldRef) (m j : Nat) : (s.modTier f).flag g m j = s.flag g m j := (rfl)
@[simp] theorem State.modTier_port (s : State) (f : Tier → Tier) (q : Nat) : (s.modTier f).port q = s.port q := (rfl)
@[simp] theorem State.modTier_slot (s : State) (f : Tier → Tier) (j : Nat) : (s.modTier f).slot j = s.slot j := (rfl)
@[simp] theorem State.modTier_span (s : State) (f : Tier → Tier) (j : Nat) : (s.modTier f).span j = s.span j := (rfl)
@[simp] theorem State.modTier_op (s : State) (f : Tier → Tier) (j : Nat) : (s.modTier f).op j = s.op j := (rfl)
@[simp] theorem State.modTier_cell (s : State) (f : Tier → Tier) (j : Nat) : (s.modTier f).cell j = s.cell j := (rfl)
@[simp] theorem State.modTier_box (s : State) (f : Tier → Tier) (j : Nat) : (s.modTier f).box j = s.box j := (rfl)
@[simp] theorem State.modTier_queue (s : State) (f : Tier → Tier) (q j : Nat) : (s.modTier f).queue q j = s.queue q j := (rfl)

@[simp] theorem State.modObj_reg (s : State) (o : Nat) (f : Obj → Obj) (r : Reg) (m j : Nat) : (s.modObj o f).reg r m j = s.reg r m j := (rfl)
@[simp] theorem State.modObj_rd (s : State) (o : Nat) (f : Obj → Obj) (g : FieldRef) (m j : Nat) : (s.modObj o f).rd g m j = s.rd g m j := (rfl)
@[simp] theorem State.modObj_flag (s : State) (o : Nat) (f : Obj → Obj) (g : FieldRef) (m j : Nat) : (s.modObj o f).flag g m j = s.flag g m j := (rfl)
@[simp] theorem State.modObj_port (s : State) (o : Nat) (f : Obj → Obj) (q : Nat) : (s.modObj o f).port q = s.port q := (rfl)
@[simp] theorem State.modObj_slot (s : State) (o : Nat) (f : Obj → Obj) (j : Nat) : (s.modObj o f).slot j = s.slot j := (rfl)
@[simp] theorem State.modObj_span (s : State) (o : Nat) (f : Obj → Obj) (j : Nat) : (s.modObj o f).span j = s.span j := (rfl)
@[simp] theorem State.modObj_op (s : State) (o : Nat) (f : Obj → Obj) (j : Nat) : (s.modObj o f).op j = s.op j := (rfl)
@[simp] theorem State.modObj_cell (s : State) (o : Nat) (f : Obj → Obj) (j : Nat) : (s.modObj o f).cell j = s.cell j := (rfl)
@[simp] theorem State.modObj_box (s : State) (o : Nat) (f : Obj → Obj) (j : Nat) : (s.modObj o f).box j = s.box j := (rfl)
@[simp] theorem State.modObj_queue (s : State) (o : Nat) (f : Obj → Obj) (q j : Nat) : (s.modObj o f).queue q j = s.queue q j := (rfl)

@[simp] theorem State.modFlash_reg (s : State) (f : Flash → Flash) (r : Reg) (m j : Nat) : (s.modFlash f).reg r m j = s.reg r m j := (rfl)
@[simp] theorem State.modFlash_rd (s : State) (f : Flash → Flash) (g : FieldRef) (m j : Nat) : (s.modFlash f).rd g m j = s.rd g m j := (rfl)
@[simp] theorem State.modFlash_flag (s : State) (f : Flash → Flash) (g : FieldRef) (m j : Nat) : (s.modFlash f).flag g m j = s.flag g m j := (rfl)
@[simp] theorem State.modFlash_port (s : State) (f : Flash → Flash) (q : Nat) : (s.modFlash f).port q = s.port q := (rfl)
@[simp] theorem State.modFlash_slot (s : State) (f : Flash → Flash) (j : Nat) : (s.modFlash f).slot j = s.slot j := (rfl)
@[simp] theorem State.modFlash_span (s : State) (f : Flash → Flash) (j : Nat) : (s.modFlash f).span j = s.span j := (rfl)
@[simp] theorem State.modFlash_op (s : State) (f : Flash → Flash) (j : Nat) : (s.modFlash f).op j = s.op j := (rfl)
@[simp] theorem State.modFlash_cell (s : State) (f : Flash → Flash) (j : Nat) : (s.modFlash f).cell j = s.cell j := (rfl)
@[simp] theorem State.modFlash_obj (s : State) (f : Flash → Flash) (j : Nat) : (s.modFlash f).obj j = s.obj j := (rfl)
@[simp] theorem State.modFlash_box (s : State) (f : Flash → Flash) (j : Nat) : (s.modFlash f).box j = s.box j := (rfl)
@[simp] theorem State.modFlash_queue (s : State) (f : Flash → Flash) (q j : Nat) : (s.modFlash f).queue q j = s.queue q j := (rfl)

@[simp] theorem State.modCad_reg (s : State) (f : Cadence → Cadence) (r : Reg) (m j : Nat) : (s.modCad f).reg r m j = s.reg r m j := (rfl)
@[simp] theorem State.modCad_rd (s : State) (f : Cadence → Cadence) (g : FieldRef) (m j : Nat) : (s.modCad f).rd g m j = s.rd g m j := (rfl)
@[simp] theorem State.modCad_flag (s : State) (f : Cadence → Cadence) (g : FieldRef) (m j : Nat) : (s.modCad f).flag g m j = s.flag g m j := (rfl)
@[simp] theorem State.modCad_port (s : State) (f : Cadence → Cadence) (q : Nat) : (s.modCad f).port q = s.port q := (rfl)
@[simp] theorem State.modCad_slot (s : State) (f : Cadence → Cadence) (j : Nat) : (s.modCad f).slot j = s.slot j := (rfl)
@[simp] theorem State.modCad_span (s : State) (f : Cadence → Cadence) (j : Nat) : (s.modCad f).span j = s.span j := (rfl)
@[simp] theorem State.modCad_op (s : State) (f : Cadence → Cadence) (j : Nat) : (s.modCad f).op j = s.op j := (rfl)
@[simp] theorem State.modCad_cell (s : State) (f : Cadence → Cadence) (j : Nat) : (s.modCad f).cell j = s.cell j := (rfl)
@[simp] theorem State.modCad_obj (s : State) (f : Cadence → Cadence) (j : Nat) : (s.modCad f).obj j = s.obj j := (rfl)
@[simp] theorem State.modCad_box (s : State) (f : Cadence → Cadence) (j : Nat) : (s.modCad f).box j = s.box j := (rfl)
@[simp] theorem State.modCad_queue (s : State) (f : Cadence → Cadence) (q j : Nat) : (s.modCad f).queue q j = s.queue q j := (rfl)

@[simp] theorem State.modPwr_reg (s : State) (f : Power → Power) (r : Reg) (m j : Nat) : (s.modPwr f).reg r m j = s.reg r m j := (rfl)
@[simp] theorem State.modPwr_rd (s : State) (f : Power → Power) (g : FieldRef) (m j : Nat) : (s.modPwr f).rd g m j = s.rd g m j := (rfl)
@[simp] theorem State.modPwr_flag (s : State) (f : Power → Power) (g : FieldRef) (m j : Nat) : (s.modPwr f).flag g m j = s.flag g m j := (rfl)
@[simp] theorem State.modPwr_port (s : State) (f : Power → Power) (q : Nat) : (s.modPwr f).port q = s.port q := (rfl)
@[simp] theorem State.modPwr_slot (s : State) (f : Power → Power) (j : Nat) : (s.modPwr f).slot j = s.slot j := (rfl)
@[simp] theorem State.modPwr_span (s : State) (f : Power → Power) (j : Nat) : (s.modPwr f).span j = s.span j := (rfl)
@[simp] theorem State.modPwr_op (s : State) (f : Power → Power) (j : Nat) : (s.modPwr f).op j = s.op j := (rfl)
@[simp] theorem State.modPwr_cell (s : State) (f : Power → Power) (j : Nat) : (s.modPwr f).cell j = s.cell j := (rfl)
@[simp] theorem State.modPwr_obj (s : State) (f : Power → Power) (j : Nat) : (s.modPwr f).obj j = s.obj j := (rfl)
@[simp] theorem State.modPwr_box (s : State) (f : Power → Power) (j : Nat) : (s.modPwr f).box j = s.box j := (rfl)
@[simp] theorem State.modPwr_queue (s : State) (f : Power → Power) (q j : Nat) : (s.modPwr f).queue q j = s.queue q j := (rfl)

@[simp] theorem State.modKey_reg (s : State) (f : Keystone → Keystone) (r : Reg) (m j : Nat) : (s.modKey f).reg r m j = s.reg r m j := (rfl)
@[simp] theorem State.modKey_rd (s : State) (f : Keystone → Keystone) (g : FieldRef) (m j : Nat) : (s.modKey f).rd g m j = s.rd g m j := (rfl)
@[simp] theorem State.modKey_flag (s : State) (f : Keystone → Keystone) (g : FieldRef) (m j : Nat) : (s.modKey f).flag g m j = s.flag g m j := (rfl)
@[simp] theorem State.modKey_port (s : State) (f : Keystone → Keystone) (q : Nat) : (s.modKey f).port q = s.port q := (rfl)
@[simp] theorem State.modKey_slot (s : State) (f : Keystone → Keystone) (j : Nat) : (s.modKey f).slot j = s.slot j := (rfl)
@[simp] theorem State.modKey_span (s : State) (f : Keystone → Keystone) (j : Nat) : (s.modKey f).span j = s.span j := (rfl)
@[simp] theorem State.modKey_op (s : State) (f : Keystone → Keystone) (j : Nat) : (s.modKey f).op j = s.op j := (rfl)
@[simp] theorem State.modKey_cell (s : State) (f : Keystone → Keystone) (j : Nat) : (s.modKey f).cell j = s.cell j := (rfl)
@[simp] theorem State.modKey_obj (s : State) (f : Keystone → Keystone) (j : Nat) : (s.modKey f).obj j = s.obj j := (rfl)
@[simp] theorem State.modKey_box (s : State) (f : Keystone → Keystone) (j : Nat) : (s.modKey f).box j = s.box j := (rfl)
@[simp] theorem State.modKey_queue (s : State) (f : Keystone → Keystone) (q j : Nat) : (s.modKey f).queue q j = s.queue q j := (rfl)

@[simp] theorem State.modMbx_reg (s : State) (f : MbxSys → MbxSys) (r : Reg) (m j : Nat) : (s.modMbx f).reg r m j = s.reg r m j := (rfl)
@[simp] theorem State.modMbx_rd (s : State) (f : MbxSys → MbxSys) (g : FieldRef) (m j : Nat) : (s.modMbx f).rd g m j = s.rd g m j := (rfl)
@[simp] theorem State.modMbx_flag (s : State) (f : MbxSys → MbxSys) (g : FieldRef) (m j : Nat) : (s.modMbx f).flag g m j = s.flag g m j := (rfl)
@[simp] theorem State.modMbx_port (s : State) (f : MbxSys → MbxSys) (q : Nat) : (s.modMbx f).port q = s.port q := (rfl)
@[simp] theorem State.modMbx_slot (s : State) (f : MbxSys → MbxSys) (j : Nat) : (s.modMbx f).slot j = s.slot j := (rfl)
@[simp] theorem State.modMbx_span (s : State) (f : MbxSys → MbxSys) (j : Nat) : (s.modMbx f).span j = s.span j := (rfl)
@[simp] theorem State.modMbx_op (s : State) (f : MbxSys → MbxSys) (j : Nat) : (s.modMbx f).op j = s.op j := (rfl)
@[simp] theorem State.modMbx_cell (s : State) (f : MbxSys → MbxSys) (j : Nat) : (s.modMbx f).cell j = s.cell j := (rfl)
@[simp] theorem State.modMbx_obj (s : State) (f : MbxSys → MbxSys) (j : Nat) : (s.modMbx f).obj j = s.obj j := (rfl)
@[simp] theorem State.modMbx_queue (s : State) (f : MbxSys → MbxSys) (q j : Nat) : (s.modMbx f).queue q j = s.queue q j := (rfl)

@[simp] theorem State.modKv_reg (s : State) (f : Kv → Kv) (r : Reg) (m j : Nat) : (s.modKv f).reg r m j = s.reg r m j := (rfl)
@[simp] theorem State.modKv_rd (s : State) (f : Kv → Kv) (g : FieldRef) (m j : Nat) : (s.modKv f).rd g m j = s.rd g m j := (rfl)
@[simp] theorem State.modKv_flag (s : State) (f : Kv → Kv) (g : FieldRef) (m j : Nat) : (s.modKv f).flag g m j = s.flag g m j := (rfl)
@[simp] theorem State.modKv_port (s : State) (f : Kv → Kv) (q : Nat) : (s.modKv f).port q = s.port q := (rfl)
@[simp] theorem State.modKv_slot (s : State) (f : Kv → Kv) (j : Nat) : (s.modKv f).slot j = s.slot j := (rfl)
@[simp] theorem State.modKv_span (s : State) (f : Kv → Kv) (j : Nat) : (s.modKv f).span j = s.span j := (rfl)
@[simp] theorem State.modKv_op (s : State) (f : Kv → Kv) (j : Nat) : (s.modKv f).op j = s.op j := (rfl)
@[simp] theorem State.modKv_cell (s : State) (f : Kv → Kv) (j : Nat) : (s.modKv f).cell j = s.cell j := (rfl)
@[simp] theorem State.modKv_obj (s : State) (f : Kv → Kv) (j : Nat) : (s.modKv f).obj j = s.obj j := (rfl)
@[simp] theorem State.modKv_box (s : State) (f : Kv → Kv) (j : Nat) : (s.modKv f).box j = s.box j := (rfl)
@[simp] theorem State.modKv_queue (s : State) (f : Kv → Kv) (q j : Nat) : (s.modKv f).queue q j = s.queue q j := (rfl)

@[simp] theorem State.modMgmt_reg (s : State) (f : Mgmt → Mgmt) (r : Reg) (m j : Nat) : (s.modMgmt f).reg r m j = s.reg r m j := (rfl)
@[simp] theorem State.modMgmt_rd (s : State) (f : Mgmt → Mgmt) (g : FieldRef) (m j : Nat) : (s.modMgmt f).rd g m j = s.rd g m j := (rfl)
@[simp] theorem State.modMgmt_flag (s : State) (f : Mgmt → Mgmt) (g : FieldRef) (m j : Nat) : (s.modMgmt f).flag g m j = s.flag g m j := (rfl)
@[simp] theorem State.modMgmt_port (s : State) (f : Mgmt → Mgmt) (q : Nat) : (s.modMgmt f).port q = s.port q := (rfl)
@[simp] theorem State.modMgmt_slot (s : State) (f : Mgmt → Mgmt) (j : Nat) : (s.modMgmt f).slot j = s.slot j := (rfl)
@[simp] theorem State.modMgmt_span (s : State) (f : Mgmt → Mgmt) (j : Nat) : (s.modMgmt f).span j = s.span j := (rfl)
@[simp] theorem State.modMgmt_op (s : State) (f : Mgmt → Mgmt) (j : Nat) : (s.modMgmt f).op j = s.op j := (rfl)
@[simp] theorem State.modMgmt_cell (s : State) (f : Mgmt → Mgmt) (j : Nat) : (s.modMgmt f).cell j = s.cell j := (rfl)
@[simp] theorem State.modMgmt_obj (s : State) (f : Mgmt → Mgmt) (j : Nat) : (s.modMgmt f).obj j = s.obj j := (rfl)
@[simp] theorem State.modMgmt_box (s : State) (f : Mgmt → Mgmt) (j : Nat) : (s.modMgmt f).box j = s.box j := (rfl)
@[simp] theorem State.modMgmt_queue (s : State) (f : Mgmt → Mgmt) (q j : Nat) : (s.modMgmt f).queue q j = s.queue q j := (rfl)

@[simp] theorem State.modQueue_reg (s : State) (p k : Nat) (f : Queue → Queue) (r : Reg) (m j : Nat) : (s.modQueue p k f).reg r m j = s.reg r m j := (rfl)
@[simp] theorem State.modQueue_rd (s : State) (p k : Nat) (f : Queue → Queue) (g : FieldRef) (m j : Nat) : (s.modQueue p k f).rd g m j = s.rd g m j := (rfl)
@[simp] theorem State.modQueue_flag (s : State) (p k : Nat) (f : Queue → Queue) (g : FieldRef) (m j : Nat) : (s.modQueue p k f).flag g m j = s.flag g m j := (rfl)
@[simp] theorem State.modQueue_slot (s : State) (p k : Nat) (f : Queue → Queue) (j : Nat) : (s.modQueue p k f).slot j = s.slot j := (rfl)
@[simp] theorem State.modQueue_span (s : State) (p k : Nat) (f : Queue → Queue) (j : Nat) : (s.modQueue p k f).span j = s.span j := (rfl)
@[simp] theorem State.modQueue_op (s : State) (p k : Nat) (f : Queue → Queue) (j : Nat) : (s.modQueue p k f).op j = s.op j := (rfl)
@[simp] theorem State.modQueue_cell (s : State) (p k : Nat) (f : Queue → Queue) (j : Nat) : (s.modQueue p k f).cell j = s.cell j := (rfl)
@[simp] theorem State.modQueue_obj (s : State) (p k : Nat) (f : Queue → Queue) (j : Nat) : (s.modQueue p k f).obj j = s.obj j := (rfl)
@[simp] theorem State.modQueue_box (s : State) (p k : Nat) (f : Queue → Queue) (j : Nat) : (s.modQueue p k f).box j = s.box j := (rfl)

@[simp] theorem State.modBox_reg (s : State) (m : Nat) (f : Mailbox → Mailbox) (r : Reg) (m' j : Nat) : (s.modBox m f).reg r m' j = s.reg r m' j := (rfl)
@[simp] theorem State.modBox_rd (s : State) (m : Nat) (f : Mailbox → Mailbox) (g : FieldRef) (m' j : Nat) : (s.modBox m f).rd g m' j = s.rd g m' j := (rfl)
@[simp] theorem State.modBox_flag (s : State) (m : Nat) (f : Mailbox → Mailbox) (g : FieldRef) (m' j : Nat) : (s.modBox m f).flag g m' j = s.flag g m' j := (rfl)
@[simp] theorem State.modBox_port (s : State) (m : Nat) (f : Mailbox → Mailbox) (q : Nat) : (s.modBox m f).port q = s.port q := (rfl)
@[simp] theorem State.modBox_slot (s : State) (m : Nat) (f : Mailbox → Mailbox) (j : Nat) : (s.modBox m f).slot j = s.slot j := (rfl)
@[simp] theorem State.modBox_span (s : State) (m : Nat) (f : Mailbox → Mailbox) (j : Nat) : (s.modBox m f).span j = s.span j := (rfl)
@[simp] theorem State.modBox_op (s : State) (m : Nat) (f : Mailbox → Mailbox) (j : Nat) : (s.modBox m f).op j = s.op j := (rfl)
@[simp] theorem State.modBox_cell (s : State) (m : Nat) (f : Mailbox → Mailbox) (j : Nat) : (s.modBox m f).cell j = s.cell j := (rfl)
@[simp] theorem State.modBox_obj (s : State) (m : Nat) (f : Mailbox → Mailbox) (j : Nat) : (s.modBox m f).obj j = s.obj j := (rfl)
@[simp] theorem State.modBox_queue (s : State) (m : Nat) (f : Mailbox → Mailbox) (q j : Nat) : (s.modBox m f).queue q j = s.queue q j := (rfl)

@[simp] theorem State.setReg_port (s : State) (r : Reg) (n i : Nat) (w : Word) (q : Nat) : (s.setReg r n i w).port q = s.port q := (rfl)
@[simp] theorem State.setReg_slot (s : State) (r : Reg) (n i : Nat) (w : Word) (j : Nat) : (s.setReg r n i w).slot j = s.slot j := (rfl)
@[simp] theorem State.setReg_span (s : State) (r : Reg) (n i : Nat) (w : Word) (j : Nat) : (s.setReg r n i w).span j = s.span j := (rfl)
@[simp] theorem State.setReg_op (s : State) (r : Reg) (n i : Nat) (w : Word) (j : Nat) : (s.setReg r n i w).op j = s.op j := (rfl)
@[simp] theorem State.setReg_cell (s : State) (r : Reg) (n i : Nat) (w : Word) (j : Nat) : (s.setReg r n i w).cell j = s.cell j := (rfl)
@[simp] theorem State.setReg_obj (s : State) (r : Reg) (n i : Nat) (w : Word) (j : Nat) : (s.setReg r n i w).obj j = s.obj j := (rfl)
@[simp] theorem State.setReg_box (s : State) (r : Reg) (n i : Nat) (w : Word) (j : Nat) : (s.setReg r n i w).box j = s.box j := (rfl)
@[simp] theorem State.setReg_queue (s : State) (r : Reg) (n i : Nat) (w : Word) (q j : Nat) : (s.setReg r n i w).queue q j = s.queue q j := (rfl)

@[simp] theorem State.wr_port (s : State) (f : FieldRef) (v n i : Nat) (q : Nat) : (s.wr f v n i).port q = s.port q := (rfl)
@[simp] theorem State.wr_slot (s : State) (f : FieldRef) (v n i : Nat) (j : Nat) : (s.wr f v n i).slot j = s.slot j := (rfl)
@[simp] theorem State.wr_span (s : State) (f : FieldRef) (v n i : Nat) (j : Nat) : (s.wr f v n i).span j = s.span j := (rfl)
@[simp] theorem State.wr_op (s : State) (f : FieldRef) (v n i : Nat) (j : Nat) : (s.wr f v n i).op j = s.op j := (rfl)
@[simp] theorem State.wr_cell (s : State) (f : FieldRef) (v n i : Nat) (j : Nat) : (s.wr f v n i).cell j = s.cell j := (rfl)
@[simp] theorem State.wr_obj (s : State) (f : FieldRef) (v n i : Nat) (j : Nat) : (s.wr f v n i).obj j = s.obj j := (rfl)
@[simp] theorem State.wr_box (s : State) (f : FieldRef) (v n i : Nat) (j : Nat) : (s.wr f v n i).box j = s.box j := (rfl)
@[simp] theorem State.wr_queue (s : State) (f : FieldRef) (v n i : Nat) (q j : Nat) : (s.wr f v n i).queue q j = s.queue q j := (rfl)

@[simp] theorem State.bump_port (s : State) (f : FieldRef) (n i k : Nat) (q : Nat) : (s.bump f n i k).port q = s.port q := (rfl)
@[simp] theorem State.bump_slot (s : State) (f : FieldRef) (n i k : Nat) (j : Nat) : (s.bump f n i k).slot j = s.slot j := (rfl)
@[simp] theorem State.bump_span (s : State) (f : FieldRef) (n i k : Nat) (j : Nat) : (s.bump f n i k).span j = s.span j := (rfl)
@[simp] theorem State.bump_op (s : State) (f : FieldRef) (n i k : Nat) (j : Nat) : (s.bump f n i k).op j = s.op j := (rfl)
@[simp] theorem State.bump_cell (s : State) (f : FieldRef) (n i k : Nat) (j : Nat) : (s.bump f n i k).cell j = s.cell j := (rfl)
@[simp] theorem State.bump_obj (s : State) (f : FieldRef) (n i k : Nat) (j : Nat) : (s.bump f n i k).obj j = s.obj j := (rfl)
@[simp] theorem State.bump_box (s : State) (f : FieldRef) (n i k : Nat) (j : Nat) : (s.bump f n i k).box j = s.box j := (rfl)
@[simp] theorem State.bump_queue (s : State) (f : FieldRef) (n i k : Nat) (q j : Nat) : (s.bump f n i k).queue q j = s.queue q j := (rfl)

@[simp] theorem State.bump64_port (s : State) (f : FieldRef) (n i k : Nat) (q : Nat) : (s.bump64 f n i k).port q = s.port q := (rfl)
@[simp] theorem State.bump64_slot (s : State) (f : FieldRef) (n i k : Nat) (j : Nat) : (s.bump64 f n i k).slot j = s.slot j := (rfl)
@[simp] theorem State.bump64_span (s : State) (f : FieldRef) (n i k : Nat) (j : Nat) : (s.bump64 f n i k).span j = s.span j := (rfl)
@[simp] theorem State.bump64_op (s : State) (f : FieldRef) (n i k : Nat) (j : Nat) : (s.bump64 f n i k).op j = s.op j := (rfl)
@[simp] theorem State.bump64_cell (s : State) (f : FieldRef) (n i k : Nat) (j : Nat) : (s.bump64 f n i k).cell j = s.cell j := (rfl)
@[simp] theorem State.bump64_obj (s : State) (f : FieldRef) (n i k : Nat) (j : Nat) : (s.bump64 f n i k).obj j = s.obj j := (rfl)
@[simp] theorem State.bump64_box (s : State) (f : FieldRef) (n i k : Nat) (j : Nat) : (s.bump64 f n i k).box j = s.box j := (rfl)
@[simp] theorem State.bump64_queue (s : State) (f : FieldRef) (n i k : Nat) (q j : Nat) : (s.bump64 f n i k).queue q j = s.queue q j := (rfl)

@[simp] theorem State.setBit_port (s : State) (f : FieldRef) (b n i : Nat) (q : Nat) : (s.setBit f b n i).port q = s.port q := (rfl)
@[simp] theorem State.setBit_slot (s : State) (f : FieldRef) (b n i : Nat) (j : Nat) : (s.setBit f b n i).slot j = s.slot j := (rfl)
@[simp] theorem State.setBit_span (s : State) (f : FieldRef) (b n i : Nat) (j : Nat) : (s.setBit f b n i).span j = s.span j := (rfl)
@[simp] theorem State.setBit_op (s : State) (f : FieldRef) (b n i : Nat) (j : Nat) : (s.setBit f b n i).op j = s.op j := (rfl)
@[simp] theorem State.setBit_cell (s : State) (f : FieldRef) (b n i : Nat) (j : Nat) : (s.setBit f b n i).cell j = s.cell j := (rfl)
@[simp] theorem State.setBit_obj (s : State) (f : FieldRef) (b n i : Nat) (j : Nat) : (s.setBit f b n i).obj j = s.obj j := (rfl)
@[simp] theorem State.setBit_box (s : State) (f : FieldRef) (b n i : Nat) (j : Nat) : (s.setBit f b n i).box j = s.box j := (rfl)
@[simp] theorem State.setBit_queue (s : State) (f : FieldRef) (b n i : Nat) (q j : Nat) : (s.setBit f b n i).queue q j = s.queue q j := (rfl)

@[simp] theorem State.clrBit_port (s : State) (f : FieldRef) (b n i : Nat) (q : Nat) : (s.clrBit f b n i).port q = s.port q := (rfl)
@[simp] theorem State.clrBit_slot (s : State) (f : FieldRef) (b n i : Nat) (j : Nat) : (s.clrBit f b n i).slot j = s.slot j := (rfl)
@[simp] theorem State.clrBit_span (s : State) (f : FieldRef) (b n i : Nat) (j : Nat) : (s.clrBit f b n i).span j = s.span j := (rfl)
@[simp] theorem State.clrBit_op (s : State) (f : FieldRef) (b n i : Nat) (j : Nat) : (s.clrBit f b n i).op j = s.op j := (rfl)
@[simp] theorem State.clrBit_cell (s : State) (f : FieldRef) (b n i : Nat) (j : Nat) : (s.clrBit f b n i).cell j = s.cell j := (rfl)
@[simp] theorem State.clrBit_obj (s : State) (f : FieldRef) (b n i : Nat) (j : Nat) : (s.clrBit f b n i).obj j = s.obj j := (rfl)
@[simp] theorem State.clrBit_box (s : State) (f : FieldRef) (b n i : Nat) (j : Nat) : (s.clrBit f b n i).box j = s.box j := (rfl)
@[simp] theorem State.clrBit_queue (s : State) (f : FieldRef) (b n i : Nat) (q j : Nat) : (s.clrBit f b n i).queue q j = s.queue q j := (rfl)

@[simp] theorem State.atTime_reg (s : State) (t : Nat) (r : Reg) (m j : Nat) : (s.atTime t).reg r m j = s.reg r m j := (rfl)
@[simp] theorem State.atTime_rd (s : State) (t : Nat) (g : FieldRef) (m j : Nat) : (s.atTime t).rd g m j = s.rd g m j := (rfl)
@[simp] theorem State.atTime_flag (s : State) (t : Nat) (g : FieldRef) (m j : Nat) : (s.atTime t).flag g m j = s.flag g m j := (rfl)
@[simp] theorem State.atTime_port (s : State) (t : Nat) (q : Nat) : (s.atTime t).port q = s.port q := (rfl)
@[simp] theorem State.atTime_slot (s : State) (t : Nat) (j : Nat) : (s.atTime t).slot j = s.slot j := (rfl)
@[simp] theorem State.atTime_span (s : State) (t : Nat) (j : Nat) : (s.atTime t).span j = s.span j := (rfl)
@[simp] theorem State.atTime_op (s : State) (t : Nat) (j : Nat) : (s.atTime t).op j = s.op j := (rfl)
@[simp] theorem State.atTime_cell (s : State) (t : Nat) (j : Nat) : (s.atTime t).cell j = s.cell j := (rfl)
@[simp] theorem State.atTime_obj (s : State) (t : Nat) (j : Nat) : (s.atTime t).obj j = s.obj j := (rfl)
@[simp] theorem State.atTime_box (s : State) (t : Nat) (j : Nat) : (s.atTime t).box j = s.box j := (rfl)
@[simp] theorem State.atTime_queue (s : State) (t : Nat) (q j : Nat) : (s.atTime t).queue q j = s.queue q j := (rfl)

@[simp] theorem State.after_reg (s : State) (t : Nat) (r : Reg) (m j : Nat) : (s.after t).reg r m j = s.reg r m j := (rfl)
@[simp] theorem State.after_rd (s : State) (t : Nat) (g : FieldRef) (m j : Nat) : (s.after t).rd g m j = s.rd g m j := (rfl)
@[simp] theorem State.after_flag (s : State) (t : Nat) (g : FieldRef) (m j : Nat) : (s.after t).flag g m j = s.flag g m j := (rfl)
@[simp] theorem State.after_port (s : State) (t : Nat) (q : Nat) : (s.after t).port q = s.port q := (rfl)
@[simp] theorem State.after_slot (s : State) (t : Nat) (j : Nat) : (s.after t).slot j = s.slot j := (rfl)
@[simp] theorem State.after_span (s : State) (t : Nat) (j : Nat) : (s.after t).span j = s.span j := (rfl)
@[simp] theorem State.after_op (s : State) (t : Nat) (j : Nat) : (s.after t).op j = s.op j := (rfl)
@[simp] theorem State.after_cell (s : State) (t : Nat) (j : Nat) : (s.after t).cell j = s.cell j := (rfl)
@[simp] theorem State.after_obj (s : State) (t : Nat) (j : Nat) : (s.after t).obj j = s.obj j := (rfl)
@[simp] theorem State.after_box (s : State) (t : Nat) (j : Nat) : (s.after t).box j = s.box j := (rfl)
@[simp] theorem State.after_queue (s : State) (t : Nat) (q j : Nat) : (s.after t).queue q j = s.queue q j := (rfl)

end Sys2Proof.Machine
end

