-- ==== Sys2Proof/Laws/Commands.lean ====
section
/-!
SUPPORT. What the shared operations of commands do: serving a packet, issuing an instruction, and what a packet keeps under another opcode.
-/
namespace Sys2Proof.Machine

/-! ### Packets served (R395, R402) -/

/-- Everything that serving a packet can do: nothing, the refusal of its header, or the command's own meaning. -/
theorem serve_cases (s : State) (op : Nat) (p : PortId) (k : Packet) (body : Caller → Packet → State → State) :
    (s.serves p = false ∧ s.serve op p k body = s) ∨
    (∃ st, s.serves p = true ∧ s.headerStatus p (k.withOpcode op) = some st ∧ s.serve op p k body = s.fin (s.asker op p k) st) ∨
    (s.accepts op p k ∧ s.serve op p k body = body (s.asker op p k) (k.withOpcode op) s) := by
  unfold State.serve State.serveFor State.accepts
  cases hs : s.serves p with
  | false => left; simp
  | true =>
    right
    cases hh : s.headerStatus p (k.withOpcode op) with
    | none => right; simp [State.asker, callerOf, hh]
    | some st => left; exact ⟨st, by simp [State.asker, callerOf, hh]⟩

/-- An accepted packet gets its command's meaning. -/
theorem serve_accepted {s : State} {op : Nat} {p : PortId} {k : Packet} (body : Caller → Packet → State → State) (h : s.accepts op p k) :
    s.serve op p k body = body (s.asker op p k) (k.withOpcode op) s := by
  rcases serve_cases s op p k body with h' | ⟨st, _, h', _⟩ | h'
  · exact absurd h.1 (by simp [h'.1])
  · exact absurd h.2 (by simp [h'])
  · exact h'.2

@[simp] theorem asker_port (s : State) (op : Nat) (p : PortId) (k : Packet) : (s.asker op p k).port = p := (rfl)
@[simp] theorem asker_time (s : State) (op : Nat) (p : PortId) (k : Packet) : (s.asker op p k).time = s.cadNow := (rfl)
@[simp] theorem ownSlot_withOpcode (s : State) (p op : Nat) (k : Packet) : s.ownSlot p (k.withOpcode op) = s.ownSlot p k := (rfl)
@[simp] theorem tagBodyOk_withOpcode (op : Nat) (k : Packet) : State.tagBodyOk (k.withOpcode op) = State.tagBodyOk k := (rfl)
@[simp] theorem createStatus_withOpcode (s : State) (op : Nat) (k : Packet) (q : Params) :
    s.createStatus (k.withOpcode op) q = s.createStatus k q := (rfl)

/-! ### Instructions issued (R76, R90) -/

/-- Everything that issuing an instruction can do: nothing, the error of half a dual pair, or the instruction. -/
theorem issue_cases (s : State) (n : Nat) (f : State → State) :
    (s.issues n = false ∧ s.issue n f = s) ∨
    (∃ e, s.issues n = true ∧ (s.cell n).dual = some e ∧
      s.issue n f = (s.modCell n fun c => { c with dual := none }).illegal n e.2.1 0x05) ∨
    (s.ready n ∧ s.issue n f = f s) := by
  unfold State.issue State.ready
  cases hi : s.issues n with
  | false => left; simp
  | true =>
    right
    cases hd : (s.cell n).dual with
    | none => right; simp
    | some e => left; exact ⟨e, by simp⟩

/-- A sequencer that stands ready does the instruction. -/
theorem issue_ready {s : State} {n : Nat} (f : State → State) (h : s.ready n) : s.issue n f = f s := by
  rcases issue_cases s n f with h' | ⟨e, _, h', _⟩ | h'
  · exact absurd h.1 (by simp [h'.1])
  · exact absurd h.2 (by simp [h'])
  · exact h'.2

/-! ### Queues (R429, R435) -/

/-- A packet for a port that is down, or for a full queue, changes nothing. -/
theorem enqueue_dropped {s : State} {p k : Nat} (prio : Nat) (b : List Byte) (sh : Option (Nat × Nat)) (l : Nat) (r : Bool)
    (h : s.portUp p = false ∨ s.queueFull p k = true) : s.enqueue p k prio b sh l r = s := by
  unfold State.enqueue
  rcases h with h | h <;> simp [h]

/-- A sequence number is never 0 (R436). -/
theorem nextSeq_pos (q : Queue) : 0 < q.nextSeq := by
  unfold Queue.nextSeq
  split <;> omega

/-! ### Mailboxes and logs -/

/-- A lock read by its owner, or by another than its owner while it is held, changes nothing (R424). -/
theorem lockRead_held {s : State} {w m : Nat} (h : s.lockOwner m ≠ 0) : (s.lockRead w m).2 = s := by
  simp only [State.lockRead, if_neg h]
  split <;> rfl

/-- The clock never runs back. -/
theorem now_atTime (s : State) (t : Nat) : s.now ≤ (s.atTime t).now := by simp only [State.atTime]; omega

end Sys2Proof.Machine
end

