-- ==== Sys2Proof/Laws/Memory.lean ====
section
/-!
SUPPORT. Memories: reads after writes of byte strings, and that every operation on a memory keeps the canonical form `Memory.wf`.
-/
namespace Sys2Proof.Machine

/-! ### Byte strings -/

/-- A byte outside the written range keeps its value. -/
theorem get_writeBytes_other (c d : Byte) (m : SMap Byte) (a k : Nat) (l : List Byte) (h : k < a ∨ a + l.length ≤ k) :
    SMap.get c (writeBytes d m a l) k = SMap.get c m k := by
  induction l generalizing m a with
  | nil => rfl
  | cons b r ih =>
    simp only [List.length_cons] at h
    rw [writeBytes, ih _ _ (by omega), SMap.get_put_other d c m b (by omega)]

/-- A byte inside the written range reads what was written. -/
theorem get_writeBytes_same (d : Byte) (m : SMap Byte) (a i : Nat) (l : List Byte) (h : i < l.length) :
    SMap.get d (writeBytes d m a l) (a + i) = l[i] := by
  induction l generalizing m a i with
  | nil => simp at h
  | cons b r ih =>
    cases i with
    | zero => rw [writeBytes, get_writeBytes_other d d _ _ _ _ (by omega)]; simp
    | succ i => rw [writeBytes, show a + (i + 1) = a + 1 + i by omega, ih _ _ _ (by simpa using h)]; rfl

@[simp] theorem readBytes_length (d : Byte) (m : SMap Byte) (a n : Nat) : (readBytes d m a n).length = n := by
  induction n generalizing a with
  | zero => rfl
  | succ n ih => simp [readBytes, ih]

theorem readBytes_getElem (d : Byte) (m : SMap Byte) (a n i : Nat) (h : i < (readBytes d m a n).length) :
    (readBytes d m a n)[i] = SMap.get d m (a + i) := by
  induction n generalizing a i with
  | zero => simp [readBytes] at h
  | succ n ih =>
    cases i with
    | zero => rfl
    | succ i => simp only [readBytes, List.getElem_cons_succ]; rw [ih, show a + 1 + i = a + (i + 1) by omega]

/-- What was written reads back. -/
theorem readBytes_writeBytes (d : Byte) (m : SMap Byte) (a : Nat) (l : List Byte) : readBytes d (writeBytes d m a l) a l.length = l := by
  apply List.ext_getElem (by simp)
  intro i h1 h2
  rw [readBytes_getElem, get_writeBytes_same d m a i l h2]

/-- A read beside the written range is unchanged. -/
theorem readBytes_writeBytes_other (c d : Byte) (m : SMap Byte) (a b n : Nat) (l : List Byte) (h : b + n ≤ a ∨ a + l.length ≤ b) :
    readBytes c (writeBytes d m a l) b n = readBytes c m b n := by
  apply List.ext_getElem (by simp)
  intro i h1 h2
  simp only [readBytes_length] at h1
  rw [readBytes_getElem, readBytes_getElem, get_writeBytes_other c d m a _ l (by omega)]

/-! ### The canonical form -/

/-- Writing a byte string keeps the canonical form. -/
theorem writeBytes_wf {d : Byte} {m : SMap Byte} {a : Nat} {l : List Byte} (h : Memory.wf d m = true) :
    Memory.wf d (writeBytes d m a l) = true := by
  induction l generalizing m a with
  | nil => exact h
  | cons b r ih => exact ih (SMap.put_wf (d := fun _ => d) h)

theorem rising_filter {m : SMap Byte} {lo : Nat} (p : Nat × Byte → Bool) (h : SMap.risingFrom lo m = true) :
    SMap.risingFrom lo (m.filter p) = true := by
  induction m generalizing lo with
  | nil => rfl
  | cons e r ih =>
    obtain ⟨j, x⟩ := e
    simp only [SMap.risingFrom, Bool.and_eq_true, decide_eq_true_eq] at h
    rw [List.filter_cons]
    split
    · simp only [SMap.risingFrom, Bool.and_eq_true, decide_eq_true_eq]
      exact ⟨h.1, ih h.2⟩
    · exact SMap.risingFrom_mono (by omega) (ih h.2)

/-- Wiping entries keeps the canonical form. -/
theorem filter_wf {d : Byte} {m : SMap Byte} (p : Nat × Byte → Bool) (h : Memory.wf d m = true) : Memory.wf d (m.filter p) = true := by
  simp only [Memory.wf, SMap.wf, Bool.and_eq_true, List.all_eq_true] at h ⊢
  exact ⟨rising_filter p h.1, fun e he => h.2 e (List.mem_filter.mp he).1⟩

/-- Every memory of the state after reset is canonical. -/
theorem reset_memoriesWf : State.reset.memoriesWf = true := by decide +kernel

theorem dramWrite_wf {s : State} (a : Nat) (l : List Byte) (h : s.memoriesWf = true) : (s.dramWrite a l).memoriesWf = true := by
  simp only [State.memoriesWf, Bool.and_eq_true] at h ⊢
  exact ⟨⟨⟨⟨writeBytes_wf h.1.1.1.1, h.1.1.1.2⟩, h.1.1.2⟩, h.1.2⟩, h.2⟩

theorem pageWrite_wf {s : State} (d k phys p : Nat) (l : List Byte) (h : s.memoriesWf = true) :
    (s.pageWrite d k phys p l).memoriesWf = true := by
  simp only [State.memoriesWf, Bool.and_eq_true] at h ⊢
  exact ⟨⟨⟨h.1.1.1, writeBytes_wf h.1.1.2⟩, h.1.2⟩, h.2⟩

theorem blockWipe_wf {s : State} (d k phys : Nat) (h : s.memoriesWf = true) : (s.blockWipe d k phys).memoriesWf = true := by
  simp only [State.memoriesWf, Bool.and_eq_true] at h ⊢
  exact ⟨⟨⟨h.1.1.1, filter_wf _ h.1.1.2⟩, h.1.2⟩, h.2⟩

theorem putRec_wf {s : State} (d sec u : Nat) (r : JRec) (h : s.memoriesWf = true) : (s.putRec d sec u r).memoriesWf = true := by
  simp only [State.memoriesWf, Bool.and_eq_true] at h ⊢
  exact ⟨⟨⟨h.1.1.1, h.1.1.2⟩, writeBytes_wf h.1.2⟩, h.2⟩

/-- A change of the flash that keeps its arrays canonical keeps every memory so. -/
theorem modFlash_wf {s : State} {f : Flash → Flash} (h : s.memoriesWf = true) (hd : Memory.wf 0xFF (f s.flash).data = true)
    (hp : Memory.wf 0xFF (f s.flash).param = true) : (s.modFlash f).memoriesWf = true := by
  simp only [State.memoriesWf, Bool.and_eq_true] at h ⊢
  exact ⟨⟨⟨h.1.1.1, hd⟩, hp⟩, h.2⟩

theorem breakCopy_wf {s : State} (d sector : Nat) (h : s.memoriesWf = true) : (s.breakCopy d sector).memoriesWf = true := by
  unfold State.breakCopy
  split
  · split
    · simp only [State.memoriesWf, Bool.and_eq_true] at h
      refine modFlash_wf (by simpa only [State.memoriesWf, Bool.and_eq_true] using h) h.1.1.2 ?_
      dsimp only
      generalize State.dirBytes _ = l
      exact writeBytes_wf h.1.2
    · exact h
  · exact h

theorem pageCopy_wf {s : State} (d k frm to_ p : Nat) (h : s.memoriesWf = true) : (s.pageCopy d k frm to_ p).memoriesWf = true := by
  simp only [State.memoriesWf, Bool.and_eq_true] at h
  unfold State.pageCopy
  dsimp only
  generalize s.pageRead d k frm p 0 pageData = l
  exact modFlash_wf (by simpa only [State.memoriesWf, Bool.and_eq_true] using h) (writeBytes_wf h.1.1.2) h.1.2

theorem spoilCopy_wf {s : State} (d table k : Nat) (h : s.memoriesWf = true) : (s.spoilCopy d table k).memoriesWf = true := by
  unfold State.spoilCopy
  split
  · exact h
  · simp only [State.memoriesWf, Bool.and_eq_true] at h
    refine modFlash_wf (by simpa only [State.memoriesWf, Bool.and_eq_true] using h) h.1.1.2 ?_
    dsimp only
    generalize List.map _ (List.range 8256) = l
    exact writeBytes_wf h.1.2

theorem programUnit_wf {s : State} (d sector unit : Nat) (l : List Byte) (h : s.memoriesWf = true) :
    (s.programUnit d sector unit l).memoriesWf = true := by
  have h := breakCopy_wf d sector h
  simp only [State.memoriesWf, Bool.and_eq_true] at h ⊢
  exact ⟨⟨⟨h.1.1.1, h.1.1.2⟩, writeBytes_wf h.1.2⟩, h.2⟩

theorem storeParam_wf {s : State} (a : Nat) (l : List Byte) (h : s.memoriesWf = true) : (s.storeParam a l).memoriesWf = true := by
  unfold State.storeParam
  split
  · exact h
  · simp only [State.memoriesWf, Bool.and_eq_true] at h ⊢
    exact ⟨⟨⟨h.1.1.1, h.1.1.2⟩, writeBytes_wf h.1.2⟩, h.2⟩

theorem wipeParam_wf {s : State} (d sector : Nat) (h : s.memoriesWf = true) : (s.wipeParam d sector).memoriesWf = true := by
  have h := breakCopy_wf d sector h
  simp only [State.memoriesWf, Bool.and_eq_true] at h ⊢
  exact ⟨⟨⟨h.1.1.1, h.1.1.2⟩, filter_wf _ h.1.2⟩, h.2⟩

theorem homeWrite_wf {s : State} (e : DirEntry) (tier addr off : Nat) (l : List Byte) (h : s.memoriesWf = true) :
    (s.homeWrite e tier addr off l).memoriesWf = true := by
  unfold State.homeWrite
  split
  · exact dramWrite_wf _ _ h
  · simp only [State.memoriesWf, Bool.and_eq_true] at h ⊢
    exact ⟨⟨⟨⟨h.1.1.1.1, writeBytes_wf h.1.1.1.2⟩, h.1.1.2⟩, h.1.2⟩, h.2⟩
  · exact h

theorem store_wf {c : Cell} (v : View) (off : Nat) (l : List Byte) (h : Memory.wf 0 c.mem = true) : Memory.wf 0 (c.store v off l).mem = true :=
  writeBytes_wf h

theorem all_put {α : Type} [DecidableEq α] {p : Nat × α → Bool} {d : α} {m : SMap α} {k : Nat} {v : α} (h : m.all p = true) (hv : p (k, v) = true) :
    (SMap.put d m k v).all p = true := by
  simp only [List.all_eq_true] at h ⊢
  intro e he
  unfold SMap.put at he
  split at he
  · exact h e (SMap.mem_del he)
  · rcases SMap.mem_ins he with rfl | he
    · exact hv
    · exact h e (SMap.mem_del he)

theorem get_mem {α : Type} (p : α → Bool) {d : α} {m : SMap α} {k : Nat} (hd : p d = true) (h : m.all (fun e => p e.2) = true) :
    p (SMap.get d m k) = true := by
  induction m with
  | nil => exact hd
  | cons e r ih =>
    simp only [List.all_cons, Bool.and_eq_true] at h
    simp only [SMap.get]
    split
    · exact h.1
    · exact ih h.2

/-- A change of a cell that keeps its memory canonical keeps every memory so. -/
theorem modCell_wf {s : State} (n : Nat) (f : Cell → Cell) (hf : ∀ c, Memory.wf 0 c.mem = true → Memory.wf 0 (f c).mem = true)
    (h : s.memoriesWf = true) : (s.modCell n f).memoriesWf = true := by
  simp only [State.memoriesWf, Bool.and_eq_true] at h ⊢
  exact ⟨h.1, all_put h.2 (hf _ (get_mem (fun c : Cell => Memory.wf 0 c.mem) (by decide) h.2))⟩

end Sys2Proof.Machine
end

