-- ==== Sys2Proof/WellFormed.lean ====
section
/-!
DEFINITION. Well-formed commands: what the outside can send, as the manual bounds it. A meaning takes an ill-formed command too (it is
total); statements that need a bound name it through this check.
-/
namespace Sys2Proof
open Machine

/-- A command packet whose body has the length that its header gives, in whole words, at most 4,080 bytes (R391). -/
def Packet.wellFormed (p : Packet) : Bool :=
  p.body.length == bits p.hdr0 47 32 && p.body.length % 8 == 0 && p.body.length ≤ 4080

/-- A register access of 4 or 8 bytes, naturally aligned (R383). -/
def accessOk (off size : Nat) : Bool := (size == 4 && off % 4 == 0) || (size == 8 && off % 8 == 0)

/-- Whether a command is one that the manual's interfaces can carry. -/
def Instr.wellFormed : Instr → Bool
  | .echo _ k | .getInfo _ k | .modelLoad _ k | .modelUnload _ k | .modelSwap _ k | .adapterLoad _ k | .adapterReplace _ k
  | .adapterDrop _ k | .reqCreate _ k | .reqAppend _ k | .reqCancel _ k | .reqQuery _ k | .spanConfigure _ k | .configStage _ k
  | .configCommit _ k | .objRegister _ k | .objPlace _ k | .objRevoke _ k | .flashWriteImage _ k | .flashErase _ k | .flashRead _ k
  | .trainStart _ k | .opSuspend _ k | .opResume _ k | .opAbort _ k | .opStatus _ k | .cadenceSet _ k | .powerSet _ k | .fwUpdate _ k =>
    k.wellFormed
  | .commandWindowWrite _ off l => off + l.length ≤ 2 ^ 20
  | .registerWrite _ off size _ => accessOk off size
  | .readClear _ off size => accessOk off size
  | .keyRegisterWrite _ off _ => off % 8 == 0 && off < 0x10000
  | .portUp _ speed width => 1 ≤ speed && speed ≤ 5 && 2 ≤ width && width ≤ 4
  | .mbxLockBreak _ cause => 1 ≤ cause && cause ≤ 3
  | .sensorReading temps => temps.length == 64
  | .boot env => env.ms ≤ 900
  | .trestleRetrainDone _ _ left => left ≤ 2
  | _ => true

end Sys2Proof
end

