-- ==== Sys2Proof/Tests/Slice0.lean ====
section
/-!
SUPPORT. Tests: the checks of `Instr.wellFormed`, small tests of single commands whose expected results come from the spec's rules, and for
each obligation with hypotheses a witness `hyp_…` that meets them.
-/
set_option Elab.async false

namespace Sys2Proof.Tests
open Sys2Proof Sys2Proof.Machine

/-- The state after a command. -/
def after (c : Instr) (s : State) : State :=
  match exec c s with
  | .next t => t
  | .fault _ => s
  | .refused _ => s

/-- Whether a command answers a next state. -/
def runs (c : Instr) (s : State) : Bool :=
  match exec c s with
  | .next _ => true
  | .fault _ => false
  | .refused _ => false

/-- A command packet: opcode and flags, tag, second header word, body. -/
def packet (lo tag hi : Nat) (body : List Byte) : Packet :=
  { hdr0 := BitVec.ofNat 64 (lo + tag * 2 ^ 16 + body.length * 2 ^ 32), hdr1 := BitVec.ofNat 64 hi, body }

/-- The second header word of a packet whose span field is `sp`. -/
def spanHdr (sp : Nat) : Nat := sp * 2 ^ 32

/-- Zero bytes. -/
def zeros (n : Nat) : List Byte := List.replicate n 0

/-- Steward firmware runs and port 0 is up, with every permission. -/
def up : State :=
  ((State.reset.modKey fun k => { k with running := true }).wr Fld.hptStatus_linkUp 1 0).setReg .keyPerm 0 0 0xFF

/-- A step that runs. -/
theorem stepped {c : Instr} {s : State} (h : runs c s = true) : ∃ t, exec c s = .next t := by
  unfold runs at h
  cases he : exec c s with
  | next t => exact ⟨t, rfl⟩
  | fault f => simp [he] at h
  | refused r => simp [he] at h

/-- The checks of a packet's header, as one Boolean. -/
theorem accepted {s : State} {op : Nat} {p : PortId} {k : Packet}
    (h : (s.serves p && (s.headerStatus p (k.withOpcode op)).isNone) = true) : s.accepts op p k := by
  simp only [Bool.and_eq_true, Option.isNone_iff_eq_none] at h
  exact h

/-! ### Well-formed commands -/

theorem test_wf_packet : Instr.wellFormed (.echo 0 (packet 0x01 7 0 (zeros 8))) = true := by decide
theorem test_wf_packet_length : Instr.wellFormed (.echo 0 ⟨0x0000001000000001, 0, zeros 8⟩) = false := by decide
theorem test_wf_packet_words : Instr.wellFormed (.echo 0 (packet 0x01 7 0 (zeros 7))) = false := by decide
theorem test_wf_packet_size : Instr.wellFormed (.echo 0 (packet 0x01 7 0 (zeros 4088))) = false := by decide +kernel
theorem test_wf_window : Instr.wellFormed (.commandWindowWrite 0 (2 ^ 20 - 1) [0, 0]) = false := by decide
theorem test_wf_register : Instr.wellFormed (.registerWrite 1 2 4 ⟨0, 0⟩) = false := by decide
theorem test_wf_read_clear : Instr.wellFormed (.readClear 1 4 8) = false := by decide
theorem test_wf_key_register : Instr.wellFormed (.keyRegisterWrite 0x20 4 0) = false := by decide
theorem test_wf_port_speed : Instr.wellFormed (.portUp 0 6 4) = false := by decide
theorem test_wf_port_width : Instr.wellFormed (.portUp 0 5 1) = false := by decide
theorem test_wf_break_cause : Instr.wellFormed (.mbxLockBreak 0 4) = false := by decide
theorem test_wf_sensors : Instr.wellFormed (.sensorReading (List.replicate 63 0)) = false := by decide
theorem test_wf_lanes : Instr.wellFormed (.trestleRetrainDone 0 true 3) = false := by decide

/-- A boot without findings (R478). -/
def quietBoot : BootEnv :=
  { ms := 800, linksBad := [], spareLanes := [2, 2, 2, 2, 2, 2, 2], dieLevels := [1, 1, 1, 1, 1, 1], dieKinds := [1, 2, 3, 3, 4, 4],
    dieRevs := [0, 0, 0, 0, 0, 0], deafDies := [], badChannels := [], arrayFails := [], memFails := [], meshBad := false, badCopies := [],
    intactRows := [], badUnits := [], boots := true, refCount := 50, badRecords := [],
    shipped := [⟨true, 0x00010000, 1, [(1, 1), (1, 1), (1, 1), (1, 1)]⟩, ⟨false, 0, 0, []⟩] }

theorem test_wf_boot : Instr.wellFormed (.boot { quietBoot with ms := 901 }) = false := by decide

/-! ### Witnesses: the block as a whole -/

theorem hyp_EmptyQueueStepTicks : State.reset.pending = [] ∧ State.reset.running = false := by decide
theorem hyp_CommandsKeepTheQueue : ∃ t, exec .idcode State.reset = .next t := stepped (by decide)
theorem hyp_StrapsChangeOnlyAtColdReset_1 : (∃ t, exec .idcode State.reset = .next t) ∧ Instr.samplesStraps .idcode = false :=
  ⟨stepped (by decide), by decide⟩
theorem hyp_StrapsChangeOnlyAtColdReset_2 : State.reset.pwr.seatOpen = false ∧ ∃ t, exec (.coldReset 3 0) State.reset = .next t :=
  ⟨by decide, stepped (by decide)⟩
theorem hyp_StrapsChangeOnlyAtColdReset_3 : ∃ t, exec (.powerUpStart 3 0 true) State.reset = .next t := stepped (by decide)

/-- A module with a burned fuse word and a revoked key. -/
def burned : State := State.reset.modKey fun k => { k with fuses := SMap.put 0 k.fuses 64 5, revoked := 2 }

theorem hyp_BurnedFusesNeverChange :
    (∃ t, exec (.boot quietBoot) burned = .next t) ∧ SMap.get 0 burned.key.fuses 64 ≠ 0 ∧ burned.key.revoked.testBit 1 = true :=
  ⟨⟨_, rfl⟩, by decide, by decide⟩
theorem hyp_MinimumSvnOnlyRises : (∃ t, exec .idcode State.reset = .next t) ∧ (∀ e, Instr.idcode ≠ .boot e) :=
  ⟨stepped (by decide), fun _ h => nomatch h⟩
theorem hyp_FieldWriteReadsBack :
    Fld.hptCmdOut_count.lo ≤ Fld.hptCmdOut_count.hi ∧ Fld.hptCmdOut_count.hi < 64 ∧ Fld.hptId_speed.lo ≤ Fld.hptId_speed.hi ∧
    Fld.hptId_speed.hi < 64 ∧ (63 < Fld.hptCmdOut_count.lo ∨ Fld.hptCmdOut_count.hi < 63) ∧
    Reg.keyPerm.key 0 0 ≠ Fld.hptCmdOut_count.reg.key 0 0 := by decide

/-! ### Witnesses: commands of the opcode table -/

/-- An ECHO with an unknown flag (R393), and one that is in order. -/
def badEcho : Packet := packet 0x8001 7 (spanHdr 0xFF) []
def goodEcho : Packet := packet 0x01 7 (spanHdr 0xFF) [1, 2, 3, 4, 5, 6, 7, 8]

theorem hyp_RefusedHeadersAreAnswered :
    Instr.asPacket (.echo 0 badEcho) = some (0x01, 0, badEcho) ∧ up.serves 0 = true ∧
    up.headerStatus 0 (badEcho.withOpcode 0x01) = some 0x20 := by decide +kernel
theorem hyp_AcceptedCommandsDoWhatDispatchDoes :
    Instr.asPacket (.echo 0 goodEcho) = some (0x01, 0, goodEcho) ∧ up.accepts 0x01 0 goodEcho := ⟨rfl, accepted (by decide +kernel)⟩
theorem hyp_FinalReplyIsPosted :
    up.portUp (up.asker 0x01 0 goodEcho).port = true ∧ up.queueFull (up.asker 0x01 0 goodEcho).port 1 = false := by decide +kernel
theorem hyp_EchoAndGetInfoAnswer : up.accepts 0x01 0 goodEcho ∧ up.accepts 0x02 0 (packet 0x02 7 (spanHdr 0xFF) []) :=
  ⟨accepted (by decide +kernel), accepted (by decide +kernel)⟩

/-- Bytes written into a byte string. -/
def poke (l : List Byte) (off : Nat) (v : List Byte) : List Byte := l.take off ++ v ++ l.drop (off + v.length)

/-- A span record over cell 0 with a share of 64 MiB. -/
def recA : SpanRec := { on := true, cells := 1, dram := 64 * 2 ^ 20, flash := 16, latch0 := 57344, latchN := 8, roles := [0] }
/-- A model of one role that KV page frames have room for. -/
def hdrA : ImageHdr :=
  { flags := 4, roles := 1, layers := 0, imageBytes := 8192, modelId := 9, generation := 1, vocab := 1000, maxPos := 4096, kvHeads := 1,
    headDim := 64, kvFmt := 3, kvBytesPos := 128, t1Bytes := 0, t2StepBytes := 0, opsToken := 1 }
/-- Its copy. -/
def copyA : ModelCopy :=
  { image := 0, hdr := hdrA, tok := { texts := [], eos := 0, specials := [] }, tokSum := 0, objs := [], copyNo := 0, pair4 := 4, rope := none }
/-- Span 0 configured over cell 0, without and with a model. -/
def conf : State := (up.modSpan 0 fun x => { x with cfg := recA }).wr Fld.celId_span 0 0
/-- Span 0 serves the model. -/
def served : State := (conf.modSpan 0 fun x => { x with cur := some copyA }).wr Fld.imgSpan_state 2 0 0

/-! ### Loads, swaps, unloads -/

/-- The header block of an image of one role without objects, whose sections are empty (R227), up to its first zero of the rest. -/
def imgHead : List Byte :=
  let l := imageMagic ++ leBytes 2 1 ++ leBytes 2 0 ++ leBytes 2 1 ++ leBytes 2 1 ++ leBytes 8 8192 ++ leBytes 16 9 ++ leBytes 4 1 ++
    leBytes 4 1000 ++ leBytes 4 4096 ++ leBytes 2 1 ++ leBytes 2 64 ++ leBytes 4 3 ++ leBytes 4 128
  l ++ zeros (0x60 - l.length) ++ (List.range 6).flatMap fun _ => leBytes 8 4096 ++ leBytes 8 0
/-- The whole block. -/
def imgBlock : List Byte := imgHead ++ zeros (4096 - imgHead.length)

theorem byteAt_tail (a : List Byte) (n i : Nat) (h : a.length ≤ i) : byteAt (a ++ zeros n) i = 0 := by
  simp only [byteAt, leAt, List.drop_append, List.drop_eq_nil_of_le h, List.nil_append, zeros, List.drop_replicate, List.take_replicate]
  generalize min 1 (n - (i - a.length)) = k
  induction k with
  | zero => rfl
  | succ k ih => simpa [List.replicate_succ, ofLe] using ih

theorem byteAt_head (a : List Byte) (n i : Nat) (h : i < a.length) : byteAt (a ++ zeros n) i = byteAt a i := by
  simp only [byteAt, leAt, List.drop_append]
  rw [List.take_append_of_le_length]
  simp; omega

theorem clean_tail (f : List (Nat × Nat)) (a : List Byte) (n : Nat) (h : bodyClean f a = true) : bodyClean f (a ++ zeros n) = true := by
  simp only [bodyClean, List.all_eq_true, List.mem_range] at *
  intro i _
  by_cases hi : i < a.length
  · rw [byteAt_head a n i hi]; exact h i hi
  · simp [byteAt_tail a n i (by omega)]

theorem get_row (d : Byte) (k : Nat) (l : List Byte) (n j : Nat) (h : j < l.length) :
    SMap.get d ((l.zipIdx n).map fun e => (k + e.2, e.1)) (k + n + j) = l[j] := by
  induction l generalizing n j with
  | nil => simp at h
  | cons b r ih =>
    cases j with
    | zero => simp [SMap.get]
    | succ j =>
      have := ih (n + 1) j (by simpa using h)
      simp only [List.zipIdx_cons, List.map_cons, SMap.get, List.getElem_cons_succ]
      rw [if_neg (by omega), show k + n + (j + 1) = k + (n + 1) + j by omega, this]

/-- Image 0 stands in unit 0 of the library with that header block. -/
def withImage (s : State) : State :=
  (s.modFlash fun x => { x with data := (imgBlock.zipIdx 0).map fun e => (pageKey 0 0 2 0 + e.2, e.1) }).modLib 0 fun e =>
    { e with st := 2, first := 0, units := 1 }

theorem flashAddr_low (i : Nat) (h : i < 4096) : flashAddr i = ⟨0, 0, 0, 0, i⟩ := by
  simp only [flashAddr, FlashAddr.mk.injEq]
  omega

theorem imgBlock_length : imgBlock.length = 4096 := by decide +kernel

theorem block_read (s : State) (h : s.flash.map = []) : (withImage s).imgHeader 0 = imgBlock := by
  have hl : ((withImage s).lib 0).first = 0 := by
    simp only [withImage, State.modLib, State.lib, State.modFlash]
    rw [SMap.get_put_same]
  apply List.ext_getElem
  · simp [State.imgHeader, State.imgBytes, State.flashRead, imgBlock_length]
  · intro j h1 h2
    have hj : j < 4096 := by simpa [imgBlock_length] using h2
    simp only [State.imgHeader, State.imgBytes, State.flashRead, hl, List.getElem_map, List.getElem_range, Nat.zero_mul, Nat.zero_add,
      State.flashByte, flashAddr_low j hj]
    have hp : (withImage s).physOf 0 0 0 = 2 := by
      simp [State.physOf, withImage, State.modLib, State.modFlash, h, SMap.get, Config.testBlocks, Config.isA32]
    rw [hp]
    have := get_row 0xFF (pageKey 0 0 2 0) imgBlock 0 j (by rw [imgBlock_length]; exact hj)
    simpa [withImage, State.modLib, State.modFlash] using this

theorem block_rules (s : State) (h : s.flash.map = []) : (withImage s).imgRules 0 = true := by
  have hu : ((withImage s).lib 0).units = 1 := by
    simp only [withImage, State.modLib, State.lib, State.modFlash]
    rw [SMap.get_put_same]
  have hs : hdrSection imgBlock 1 = (4096, 0) := by decide +kernel
  simp only [State.imgRules, State.imgObjs, State.imgSection, block_read s h, hu, hs, Bool.and_eq_true]
  refine ⟨⟨?_, by decide⟩, by simp [State.imgBytes, State.flashRead]⟩
  unfold headerOk
  simp only [Bool.and_eq_true]
  exact ⟨⟨by decide +kernel, clean_tail _ _ _ (by decide +kernel)⟩, by decide +kernel⟩

theorem block_objs (s : State) (h : s.flash.map = []) : (withImage s).imgObjs 0 = [] := by
  have hs : hdrSection imgBlock 1 = (4096, 0) := by decide +kernel
  simp [State.imgObjs, State.imgSection, block_read s h, hs, State.imgBytes, State.flashRead]

theorem block_section (s : State) (k : Nat) (hk : (hdrSection imgBlock k).2 = 0) (h : s.flash.map = []) : (withImage s).imgSection 0 k = [] := by
  simp [State.imgSection, block_read s h, hk, State.imgBytes, State.flashRead]

theorem block_loadable (s : State) (h : s.flash.map = []) (hc : 1 ≤ popCount (s.span 0).cfg.cells 56) (ht : Config.tablesOk [] = true)
    (hk : (Config.tokenizerOf []).texts.all (fun t => t.length ≤ 40) = true) : (withImage s).imgLoadable 0 0 = true := by
  have hr := block_rules s h
  have h0 := block_section s 0 (by decide +kernel) h
  have h2 := block_section s 2 (by decide +kernel) h
  have h3 := block_section s 3 (by decide +kernel) h
  have h4 := block_section s 4 (by decide +kernel) h
  have hp : (ImageHdr.parse imgBlock).roles = 1 ∧ (ImageHdr.parse imgBlock).headDim = 64 ∧ (ImageHdr.parse imgBlock).kvHeads = 1 := by
    decide +kernel
  have hw : (withImage s).span 0 = s.span 0 := rfl
  simp only [State.imgLoadable, State.imgTables, block_read s h, hr, h0, h2, h3, h4, List.append_nil, ht, hk, hw, hp.1, hp.2.1, hp.2.2]
  simp [hc]

/-- The loads of O15 meet no refusal, if the tables of an image without any pass (log entry 20). -/
theorem hyp_LoadsSwapsAndUnloadsBegin (ht : Config.tablesOk [] = true)
    (hk : (Config.tokenizerOf []).texts.all (fun t => t.length ≤ 40) = true) :
    ((withImage conf).freeOp = some 0 ∧ (withImage conf).accepts 0x10 0 (packet 0x10 1 (spanHdr 0) (zeros 8)) ∧
      (withImage conf).loadStatus 0 0 false = none) ∧
    ((withImage served).freeOp = some 0 ∧ (withImage served).accepts 0x12 0 (packet 0x12 1 (spanHdr 0) (zeros 8)) ∧
      (withImage served).loadStatus 0 0 true = none) ∧
    (served.freeOp = some 0 ∧ served.accepts 0x11 0 (packet 0x11 1 (spanHdr 0) []) ∧ (served.span 0).cfg.on = true ∧
      served.spanBusy 0 = false ∧ served.training 0 = false ∧ (served.span 0).cur.isSome = true) := by
  have hp : (ImageHdr.parse imgBlock).t1Bytes = 0 ∧ (ImageHdr.parse imgBlock).t2StepBytes = 0 := by decide +kernel
  refine ⟨⟨by decide +kernel, accepted (by decide +kernel), ?_⟩, ⟨by decide +kernel, accepted (by decide +kernel), ?_⟩,
    by decide +kernel, accepted (by decide +kernel), by decide +kernel⟩
  · have hl := block_loadable conf rfl (by decide +kernel) ht hk
    simp only [State.loadStatus, hl, block_read conf rfl, block_objs conf rfl, hp]
    rw [if_neg (by decide +kernel), if_neg (by decide +kernel), if_neg (by decide), if_neg (by decide), if_neg (by decide),
      if_neg (by decide +kernel), if_neg (by decide +kernel), if_neg (by decide)]
  · have hl := block_loadable served rfl (by decide +kernel) ht hk
    simp only [State.loadStatus, hl, block_read served rfl, block_objs served rfl, hp]
    rw [if_neg (by decide +kernel), if_neg (by decide +kernel), if_neg (by decide), if_neg (by decide), if_neg (by decide),
      if_neg (by decide +kernel), if_neg (by decide +kernel), if_neg (by decide +kernel)]

/-! ### Adapters -/

/-- The header of a pack for a model without layers (R357). -/
def packHead : List Byte := packMagic ++ leBytes 16 9 ++ leBytes 2 0 ++ leBytes 1 1 ++ leBytes 1 1 ++ leBytes 1 1 ++ leBytes 1 1 ++ zeros 2 ++ leBytes 8 4096
/-- Span 0 serves the model, and object 3 is a pack in tier 1 that the span may read; index 7 is READY. -/
def packed : State :=
  ((served.modTier fun t => { t with dram := writeBytes 0 [] 65536 packHead, fresh := 4 }).modObj 3 fun _ =>
    { e := { st := stResident, home := 1, fmt := 0x8, grant := 1, addr := 65536, tiles := 1 } }).modAdapter 0 7 fun _ =>
      { st := 2, vers := [⟨1, 0, [], true, 0⟩], last := 1 }

theorem packed_ok (h : Config.baseActivation (packed.imgTables 0) = 0x1) : packed.packOk 3 copyA = true := by
  have hm : packed.packMatches 9 0 1 1 copyA = true := by
    simp only [State.packMatches, show copyA.image = 0 from rfl, h]
    decide +kernel
  have hp : PackHdr.parse (packed.objRead 3 0 256) = ⟨9, 0, 1, 1, 1, 1, 4096⟩ := by decide +kernel
  have he : packed.packEntries 3 ⟨9, 0, 1, 1, 1, 1, 4096⟩ = [] := by simp [State.packEntries]
  simp only [State.packOk, hp, hm, he, Bool.and_eq_true]
  decide +kernel

theorem packed_none : packed.packObjects 3 copyA = [] := by
  have hp : PackHdr.parse (packed.objRead 3 0 256) = ⟨9, 0, 1, 1, 1, 1, 4096⟩ := by decide +kernel
  simp [State.packObjects, State.packEntries, hp]

/-- ADAPTER_LOAD into index 0, ADAPTER_REPLACE and ADAPTER_DROP of index 7, if the image's activation format is that of the pack. -/
theorem hyp_AdapterCommandsBegin (h : Config.baseActivation (packed.imgTables 0) = 0x1) :
    packed.freeOp = some 0 ∧ packed.adapterSpan 0 = none ∧
    (∀ replace : Bool, packed.accepts (if replace then 0x14 else 0x13) 0 (packet 0 1 (spanHdr 0) [if replace then 7 else 0, 0, 0, 0, 3, 0, 0, 0])) ∧
    State.indexStatus (packed.adapter 0 0) false = none ∧ State.indexStatus (packed.adapter 0 7) true = none ∧
    packed.packStatus 0 0 3 = none ∧ (packed.span 0).cur = some copyA ∧ packed.packOk 3 copyA = true ∧
    ((packed.packObjects 3 copyA).map fun f => f.tiles * tileBytes f.fmt false 0).sum ≤ packed.shareFree 0 ∧
    (packed.packObjects 3 copyA).length ≤ packed.dirFree ∧
    packed.accepts 0x15 0 (packet 0x15 1 (spanHdr 0) [7, 0, 0, 0, 0, 0, 0, 0]) ∧ (packed.adapter 0 7).st = 2 ∧
    State.AdIndex.staged (packed.adapter 0 7) = none := by
  refine ⟨by decide +kernel, by decide +kernel, ?_, by decide +kernel, by decide +kernel, by decide +kernel, by decide +kernel, packed_ok h,
    by rw [packed_none]; decide, by rw [packed_none]; decide, accepted (by decide +kernel), by decide +kernel⟩
  intro r
  cases r <;> exact accepted (by decide +kernel)

/-! ### Requests -/

/-- A REQ_CREATE body (R403) of class `cls` with flags `flags` and one prompt token. -/
def createBody (cls flags : Nat) : List Byte :=
  let l := zeros 0xF8
  let l := poke l 3 (leBytes 1 cls)
  let l := poke l 8 (leBytes 1 flags)
  let l := poke l 0x10 (leBytes 2 0xFFFF)
  let l := poke l 0x24 (leBytes 4 0x3F800000)
  let l := poke l 0x2C (leBytes 4 0x3F800000)
  let l := poke l 0x38 (leBytes 4 1)
  let l := poke l 0x6C (leBytes 4 112)
  let l := poke l 0x90 (leBytes 4 (if cls = 0 then 1024 else if cls = 1 then 1 else 0))
  let l := poke l 0xD0 (leBytes 4 9)
  let l := poke l 0xE0 (leBytes 4 4)
  poke l 0xE4 (leBytes 1 1)

/-- The packet of a REQ_CREATE. -/
def createPkt (span cls flags : Nat) : Packet := packet 0x20 7 (spanHdr span + cls * 2 ^ 40) (createBody cls flags)

theorem hyp_CreateEntersTheWaitingRequests :
    (served.accepts 0x20 0 (createPkt 7 0 0) ∧ served.accepts 0x20 0 (createPkt 0 0 0) ∧ served.accepts 0x20 0 (createPkt 0xFF 3 2)) ∧
    (createPkt 0 0 0).target = 0 ∧ (createPkt 0 0 0).gen = 0 ∧ ((createPkt 0 0 0).span < 8 ∨ (createPkt 0 0 0).span = 0xFF) ∧
    served.createStatus (createPkt 0 0 0) (Params.ofBody (createPkt 0 0 0).body) = none ∧
    served.createStatus (createPkt 0xFF 3 2) (Params.ofBody (createPkt 0xFF 3 2).body) = none :=
  ⟨⟨accepted (by decide +kernel), accepted (by decide +kernel), accepted (by decide +kernel)⟩, by decide +kernel⟩

/-- A waiting request of port 0 under tag 7. -/
def reqA : Req :=
  { who := { port := 0, tag := 7 }, st := 0, span := 0, modelId := 0, par := Params.ofBody (createBody 0 2), prompt := [], kind := 1, ended := false,
    tokens := [], fffd := false, stamp := 0, pendAt := 0, why := 0x30 }
/-- That request waits, and slot 4095 holds a PARKED request of port 0. -/
def asked : State := ({ served with reqs := [reqA] } : State).modSlot 4095 fun _ =>
  { st := slParked, ident := 1, span := 0, par := Params.ofBody (createBody 2 0), gen := 5 }

/-- A REQ_APPEND of one token: to tag 7, and to slot 4095 (generation 5, class 2). -/
def appendTag : Packet := packet 0x2021 8 (spanHdr 0xFF + 0xFFFF) (leBytes 4 4 ++ [1, 0, 7, 0] ++ zeros 8 ++ [5, 0, 0, 0] ++ zeros 4)
def appendSlot : Packet := packet 0x21 8 (spanHdr 0xFF + 4095 + 5 * 2 ^ 16 + 2 * 2 ^ 40) (leBytes 4 4 ++ [1, 0, 0, 0] ++ zeros 8 ++ [5, 0, 0, 0] ++ zeros 4)

theorem hyp_AppendLengthensThePrompt :
    (asked.accepts 0x21 0 appendTag ∧ asked.accepts 0x21 0 appendSlot) ∧ appendTag.span = 0xFF ∧ appendSlot.span = 0xFF ∧
    promptOk appendTag.body [(0, 5), (6, 2), (8, 4)] 0x10 (leAt appendTag.body 0 4) (byteAt appendTag.body 4) = true ∧
    promptOk appendSlot.body [(0, 5), (6, 2), (8, 4)] 0x10 (leAt appendSlot.body 0 4) (byteAt appendSlot.body 4) = true ∧
    appendTag.target = 0xFFFF ∧ asked.reqByTag 0 (leAt appendTag.body 6 2) = some reqA ∧ reqA.ended = false ∧
    reqA.prompt.length + (slice appendTag.body 0x10 (leAt appendTag.body 0 4)).length ≤ promptMax ∧
    appendSlot.target ≠ 0xFFFF ∧ asked.ownSlot 0 appendSlot = true ∧ (asked.slot appendSlot.target).par.cls = appendSlot.cls ∧
    leAt appendSlot.body 6 2 = 0 ∧ leAt appendSlot.body 8 4 = 0 ∧ (asked.slot appendSlot.target).st = slParked ∧
    (asked.slot appendSlot.target).endDue = false ∧ (asked.slot appendSlot.target).turn.any (·.ended) = false :=
  ⟨⟨accepted (by decide +kernel), accepted (by decide +kernel)⟩, by decide +kernel⟩

/-- A REQ_CANCEL or REQ_QUERY of tag 7, and of slot 4095. -/
def cancelTag (op : Nat) : Packet := packet op 8 (spanHdr 0xFF + 0xFFFF) [7, 0, 0, 0, 0, 0, 0, 0]
def cancelSlot (op : Nat) : Packet := packet op 8 (spanHdr 0xFF + 4095 + 5 * 2 ^ 16 + 2 * 2 ^ 40) []

theorem hyp_CancelAndQueryOfRequests :
    (asked.accepts 0x22 0 (cancelTag 0x22) ∧ asked.accepts 0x23 0 (cancelTag 0x23) ∧ asked.accepts 0x22 0 (cancelSlot 0x22) ∧
      asked.accepts 0x23 0 (cancelSlot 0x23)) ∧
    ((cancelTag 0x22).span = 0xFF ∧ State.tagBodyOk (cancelTag 0x22) = true ∧ (cancelTag 0x22).target = 0xFFFF ∧
      2 ≤ (cancelTag 0x22).body.length ∧ asked.reqByTag 0 (leAt (cancelTag 0x22).body 0 2) = some reqA) ∧
    ((cancelSlot 0x22).span = 0xFF ∧ State.tagBodyOk (cancelSlot 0x22) = true ∧ (cancelSlot 0x22).target ≠ 0xFFFF ∧
      asked.ownSlot 0 (cancelSlot 0x22) = true ∧ (asked.slot (cancelSlot 0x22).target).par.cls = (cancelSlot 0x22).cls) :=
  ⟨⟨accepted (by decide +kernel), accepted (by decide +kernel), accepted (by decide +kernel), accepted (by decide +kernel)⟩,
    by decide +kernel⟩

/-! ### The span map -/

/-- The 32 bytes of a span record (R406). -/
def recBody (r : SpanRec) : List Byte :=
  leBytes 8 r.cells ++ leBytes 8 r.dram ++ leBytes 4 r.flash ++ leBytes 4 r.kv ++ leBytes 2 r.latch0 ++ leBytes 2 r.latchN ++
    leBytes 2 r.chunk ++ leBytes 1 (r.draft.getD 0xFF) ++ leBytes 1 r.bits
/-- A record over cell 47 without KVW_CFG bits. -/
def recB : SpanRec := { recA with cells := 2 ^ 47, latch0 := 65528, bits := 0, roles := [] }
/-- Configuration commands of span 7 with that record. -/
def cfgPkt (op : Nat) : Packet := packet op 3 (spanHdr 7) (recBody recB)
/-- Port 0 has staged that record for span 7. -/
def staged : State :=
  { (conf.wr Fld.srvStatus_shadowOwner 1).wr Fld.srvStatus_shadowHeld 1 with shadow := [(7, recB)] }

theorem hyp_SpanMapCommandsTakeEffect :
    (conf.accepts 0x30 0 (cfgPkt 0x30) ∧ conf.accepts 0x31 0 (cfgPkt 0x31) ∧ staged.accepts 0x31 0 (cfgPkt 0x31) ∧
      staged.accepts 0x32 0 (packet 0x0432 3 (spanHdr 0xFF) []) ∧ staged.accepts 0x32 0 (packet 0x0132 3 (spanHdr 0xFF) [])) ∧
    (SpanRec.ofBody (cfgPkt 0x30).body = recB ∧ recB.inRange = true ∧ conf.rd Fld.imgSpan_state 0 7 = 0 ∧ conf.spanBusy 7 = false ∧
      conf.training 7 = false ∧
      (∀ a ∈ State.eightSpans, a ≠ 7 → shareCells recB (conf.span a).cfg = false ∧ shareLatch recB (conf.span a).cfg = false) ∧
      conf.pairOk (conf.mapWith [(7, recB)]) 7 = true ∧ conf.mapStatus (conf.mapWith [(7, recB)]) = none) ∧
    (conf.draining = false ∧ conf.shadowOwner = 0 ∧ conf.holdsModel 7 = false ∧ staged.shadowOwner = portIdent 0) ∧
    (staged.draining = false ∧ staged.shadow ≠ [] ∧ (packet 0x0432 3 (spanHdr 0xFF) []).discard = true ∧
      (packet 0x0132 3 (spanHdr 0xFF) []).discard = false ∧ staged.commitStatus true = none) :=
  ⟨⟨accepted (by decide +kernel), accepted (by decide +kernel), accepted (by decide +kernel), accepted (by decide +kernel),
    accepted (by decide +kernel)⟩, by decide +kernel⟩

/-! ### Objects -/

/-- Objects of port 0: 1 a RESIDENT buffer in tier 1, 2 the same on the move, 131071 a RESIDENT buffer in tier 3. -/
def owned : State :=
  let e : DirEntry := { st := stResident, home := 1, fmt := 0x8, owner := 1, grant := 1, addr := 0, tiles := 1, ro := true, originEn := true }
  let s := (served.modObj 1 fun _ => { e, buffer := 4097 }).modObj 2 fun _ => { e := { e with st := stMoving, dest := 3, addr := 4096 }, buffer := 8193 }
  (s.modObj 131071 fun _ => { e := { e with home := 3, addr := 8192, ro := false }, buffer := 8193 }).modTier fun t => { t with fresh := 3 }

/-- OBJ_REGISTER of a window at the top of the address space, and of an INT8 buffer. -/
def regWindow : Packet := packet 0x40 3 (spanHdr 0xFF) (leBytes 8 (2 ^ 64 - 4096) ++ leBytes 8 4096 ++ zeros 8)
def regBuffer : Packet := packet 0x40 3 (spanHdr 0xFF) (leBytes 8 4096 ++ leBytes 8 8192 ++ [1, 1, 8, 0, 0, 0, 0, 0])
/-- OBJ_PLACE of object `o` in tier `t`, column `c`; OBJ_REVOKE of an object. -/
def placePkt (flags o t c : Nat) : Packet := packet (0x41 + flags) 3 (spanHdr 0xFF) (leBytes 4 o ++ leBytes 1 t ++ leBytes 1 c ++ zeros 2)
def revokePkt (o : Nat) : Packet := packet 0x42 3 (spanHdr 0xFF) (leBytes 4 o ++ zeros 4)

theorem hyp_ObjectCommandsTakeEffect_1 :
    (owned.accepts 0x40 0 regWindow ∧ owned.accepts 0x40 0 regBuffer) ∧
    (regWindow.fld 0x11 1 = 0 ∧ regWindow.fld 0x13 1 < 32 ∧ regWindow.fld 0 8 % 4096 = 0 ∧ regWindow.fld 8 8 % 4096 = 0 ∧ regWindow.fld 8 8 ≠ 0 ∧
      regWindow.fld 0 8 + regWindow.fld 8 8 ≤ 2 ^ 64 ∧ regWindow.fld 8 8 / 4096 < 2 ^ 32) ∧
    (fmtOk (regWindow.fld 0x12 1) = true ∧ regWindow.fld 0x13 1 / 2 % 8 ≤ 4 ∧ fmtOk (regBuffer.fld 0x12 1) = true ∧ regBuffer.fld 0x13 1 / 2 % 8 ≤ 4) ∧
    (regBuffer.fld 0x11 1 = 1 ∧ regBuffer.fld 0x13 1 < 32 ∧ tileBytes (regBuffer.fld 0x12 1) false 0 ≠ 0 ∧
      regBuffer.fld 8 8 % tileBytes (regBuffer.fld 0x12 1) false 0 = 0) ∧
    ∀ x, (owned.allocObj x).isSome = true :=
  ⟨⟨accepted (by decide +kernel), accepted (by decide +kernel)⟩, by decide +kernel, by decide +kernel, by decide +kernel, fun _ => rfl⟩

theorem hyp_ObjectCommandsTakeEffect_2 :
    (owned.accepts 0x41 0 (placePkt 0x200 1 0 0) ∧ owned.accepts 0x41 0 (placePkt 0 1 1 7) ∧ owned.accepts 0x41 0 (placePkt 0 1 2 0) ∧
      owned.accepts 0x41 0 (placePkt 0 2 3 0) ∧ owned.accepts 0x41 0 (placePkt 0 131071 1 0)) ∧
    (placePkt 0x200 1 0 0).query = true ∧ (placePkt 0 1 1 7).query = false ∧ (placePkt 0 1 1 7).fld 5 1 < 8 ∧
    (∀ o ∈ [1, 2, 131071], (owned.obj o).e.st ≠ 0 ∧ owned.mayPlace 0 (owned.obj o).e = true ∧ (owned.obj o).e.window = false) ∧
    (owned.obj 1).e.st = stResident ∧ (owned.obj 2).e.st = stMoving ∧ (owned.obj 1).e.originEn = true ∧ (owned.obj 1).e.ro = true :=
  ⟨⟨accepted (by decide +kernel), accepted (by decide +kernel), accepted (by decide +kernel), accepted (by decide +kernel),
    accepted (by decide +kernel)⟩, by decide +kernel⟩

theorem hyp_ObjectCommandsTakeEffect_3 :
    owned.accepts 0x42 0 (revokePkt 131071) ∧ (revokePkt 131071).fld 0 4 = 131071 ∧ (owned.obj 131071).e.st = stResident ∧
    (owned.obj 131071).e.owner = portIdent 0 ∧ (owned.obj 131071).e.window = false ∧ (owned.obj 131071).buffer ≠ 0 ∧
    (owned.obj 131071).revoke = none := ⟨accepted (by decide +kernel), by decide +kernel⟩

/-! ### Flash jobs, training, operations -/

/-- The last image is in the library, in the last unit. -/
def library : State := owned.modLib 63 fun e => { e with st := 2, first := 447, units := 1 }
/-- FLASH_READ of the last page of the flash into object 131071; FLASH_ERASE of image 63; FLASH_WRITE_IMAGE of image 0 from object 1. -/
def fReadPkt : Packet :=
  packet 0x52 3 (spanHdr 0xFF) (leBytes 8 (Config.flashUnits * 2 ^ 30 - 4096) ++ leBytes 8 4096 ++ leBytes 4 131071 ++ zeros 4)
def fErasePkt : Packet := packet 0x51 3 (spanHdr 0xFF) [63, 0, 0, 0, 0, 0, 0, 0]
def fWritePkt : Packet := packet 0x50 3 (spanHdr 0xFF) (leBytes 4 1 ++ [0, 0, 0, 0] ++ leBytes 8 4096)

theorem hyp_FlashCommandsBegin_1 :
    library.freeOp = some 0 ∧
    (library.accepts 0x52 0 fReadPkt ∧ library.accepts 0x51 0 fErasePkt ∧ library.accepts 0x50 0 fWritePkt) ∧
    (fReadPkt.fld 8 8 ≠ 0 ∧ fReadPkt.fld 0 8 + fReadPkt.fld 8 8 ≤ Config.flashUnits * 2 ^ 30 ∧
      library.jobObjStatus 0 (fReadPkt.fld 0x10 4) (fReadPkt.fld 8 8) true = none ∧
      ((State.pagesOf (fReadPkt.fld 0 8) (fReadPkt.fld 8 8)).all fun f => library.dieServes f.die) = true) ∧
    (fErasePkt.rebuild = false ∧ fErasePkt.fld 1 1 = 0 ∧ fErasePkt.fld 0 1 < 64 ∧ library.libServes = true ∧
      (library.lib (fErasePkt.fld 0 1)).st ≠ 0 ∧ library.imgInUse (fErasePkt.fld 0 1) = false ∧
      (forEach (library.setLibState 63 4).objNums (fun o t => t.modObj o fun x =>
        if x.e.originEn ∧ x.e.image = 63 then { x with e := { x.e with originEn := false } } else x) (library.setLibState 63 4)).freeOp = some 0) ∧
    (fWritePkt.resume = false ∧ library.jobObjStatus 0 (fWritePkt.fld 0 4) (fWritePkt.fld 8 8) false = none ∧ fWritePkt.fld 8 8 ≠ 0 ∧
      fWritePkt.fld 8 8 % 4096 = 0 ∧ fWritePkt.fld 4 1 < 64 ∧ library.imgInUse (fWritePkt.fld 4 1) = false ∧
      (library.lib (fWritePkt.fld 4 1)).st = 0 ∧
      ((library.modLib (fWritePkt.fld 4 1) fun _ => {}).freeUnits (cdiv (fWritePkt.fld 8 8) (2 ^ 30))).isSome = true) :=
  ⟨by decide +kernel, ⟨accepted (by decide +kernel), accepted (by decide +kernel), accepted (by decide +kernel)⟩, by decide +kernel⟩

/-- Image 5 is being written, to the last unit; a FLASH_WRITE_IMAGE with RESUME goes on with it. -/
def halfWritten : State := library.modLib 5 fun e => { e with st := 1, first := 446, units := 1 }
def fResumePkt : Packet := packet 0x850 3 (spanHdr 0xFF) (leBytes 4 1 ++ [5, 0, 0, 0] ++ leBytes 8 4096)

theorem hyp_FlashCommandsBegin_2 :
    halfWritten.freeOp = some 0 ∧ halfWritten.accepts 0x50 0 fResumePkt ∧
    (fResumePkt.resume = true ∧ halfWritten.libServes = true ∧ halfWritten.jobObjStatus 0 (fResumePkt.fld 0 4) (fResumePkt.fld 8 8) false = none ∧
      fResumePkt.fld 8 8 ≠ 0 ∧ fResumePkt.fld 8 8 % 4096 = 0 ∧ fResumePkt.fld 4 1 < 64 ∧ halfWritten.imgInUse (fResumePkt.fld 4 1) = false ∧
      (halfWritten.lib (fResumePkt.fld 4 1)).st = 1 ∧ (halfWritten.lib (fResumePkt.fld 4 1)).units = cdiv (fResumePkt.fld 8 8) (2 ^ 30)) :=
  ⟨by decide +kernel, accepted (by decide +kernel), by decide +kernel⟩

/-- Span 0 is configured for training and serves the model; object 3 is a read-only dataset. -/
def trainable : State :=
  ((served.wr Fld.kvwCfg_train 1 0 0).modTier fun t => { t with dram := writeBytes 0 [] 65536 dataMagic }).modObj 3 fun _ =>
    { e := { st := stResident, home := 1, fmt := 0x8, grant := 1, addr := 65536, tiles := 1, ro := true } }
/-- A TRAIN_START of one step from no adapter (R370, R402). -/
def trainPkt : Packet :=
  packet 0x60 3 (spanHdr 0) (leBytes 2 0xFFFF ++ [1, 1] ++ leBytes 4 3 ++ zeros 12 ++ leBytes 4 0x3F800000 ++ zeros 8 ++ leBytes 2 1 ++ zeros 2 ++
    leBytes 4 1 ++ zeros 12 ++ [0xFF, 0, 0, 0])

/-- If the image has a training plan and the dataset's header gives the model's vocabulary and five records. -/
theorem hyp_TrainStartOpensAJob (hp : Config.hasTrainingPlan (trainable.imgSection 0 4) = true)
    (hd : Config.datasetHeader (trainable.objRead 3 0 64) = (1000, 5, 64)) :
    trainable.freeOp = some 0 ∧ trainable.accepts 0x60 0 trainPkt ∧ (trainable.span 0).cfg.on = true ∧ trainable.spanBusy 0 = false ∧
    trainable.training 0 = false ∧ trainPkt.resume = false ∧ (TrainJob.ofBody trainPkt.body).inRange false = true ∧
    (trainable.span 0).cur = some copyA ∧ trainable.isTrain 0 = true ∧ trainable.boundTo 0 = 0 ∧
    Config.hasTrainingPlan (trainable.imgSection copyA.image 4) = true ∧ (TrainJob.ofBody trainPkt.body).init = 0xFFFF ∧
    trainable.datasetStatus 0 0 (TrainJob.ofBody trainPkt.body).dataset = none ∧
    trainable.ckptStatus 0 (TrainJob.ofBody trainPkt.body).ckpt = none ∧
    (trainable.objRead (TrainJob.ofBody trainPkt.body).dataset 0 64).take 8 = dataMagic ∧
    Config.datasetHeader (trainable.objRead (TrainJob.ofBody trainPkt.body).dataset 0 64) = (1000, 5, 64) ∧ 1000 = copyA.hdr.vocab := by
  have hs : (TrainJob.ofBody trainPkt.body).dataset = 3 := by decide +kernel
  rw [hs]
  exact ⟨by decide +kernel, accepted (by decide +kernel), by decide +kernel, by decide +kernel, by decide +kernel, by decide +kernel,
    by decide +kernel, by decide +kernel, by decide +kernel, by decide +kernel, hp, by decide +kernel, by decide +kernel, by decide +kernel,
    by decide +kernel, hd, rfl⟩

/-- A training job without values. -/
def jobA : TrainJob := { TrainJob.ofBody trainPkt.body with records := 5 }
/-- Operations of port 0: 0 a flash job, 63 a training job, 62 a suspended flash job. -/
def operating : State :=
  let o : Op := { live := true, gen := 1023, opcode := 0x51, who := {}, job := .flash ⟨.erase, 9, 0, 1, 0, 0, 0, 0, false, 0, 0⟩ }
  ((served.modOp 0 fun _ => o).modOp 63 fun _ => { o with opcode := 0x60, span := 0, job := .train jobA }).modOp 62 fun _ => { o with st := 1 }
/-- An OP_ command on entry `i`. -/
def opPkt (op i : Nat) : Packet := packet op 3 (spanHdr 0xFF + 1023 * 64 + i) []

theorem hyp_OperationCommandsAct :
    (operating.accepts 0x7F 0 (opPkt 0x7F 0) ∧ operating.accepts 0x70 0 (opPkt 0x70 0) ∧ operating.accepts 0x71 0 (opPkt 0x71 62) ∧
      operating.accepts 0x72 0 (opPkt 0x72 63)) ∧
    (∀ i ∈ [0, 62, 63], (operating.op i).live = true ∧ (operating.op i).gen = (opPkt 0x7F i).target / 64 ∧ (opPkt 0x7F i).target % 64 = i ∧
      operating.mayOp 0 (operating.op i) true = true ∧ operating.mayOp 0 (operating.op i) false = true) ∧
    (operating.op 0).job.stoppable = true ∧ (operating.op 0).st = 0 ∧ (operating.op 62).st = 1 ∧
    (∀ j, (operating.op 62).job ≠ .load j) ∧ (∀ j, (operating.op 62).job ≠ .train j) ∧ (operating.op 63).st ≤ 1 ∧
    (operating.op 63).job = .train jobA :=
  ⟨⟨accepted (by decide +kernel), accepted (by decide +kernel), accepted (by decide +kernel), accepted (by decide +kernel)⟩,
    by decide +kernel, by decide +kernel, by decide +kernel, by decide +kernel, fun j h => (by cases h), fun j h => (by cases h),
    by decide +kernel, by decide +kernel⟩

/-- CADENCE_SET from the external edge and the oscillator, and with PTM; POWER_SET of the greatest limit keystone allows, with GUST. -/
def cadPkt : Packet := packet 0x80 3 (spanHdr 0xFF) (leBytes 4 (0x10000 + 8) ++ zeros 12)
def cadPtm : Packet := packet 0x80 3 (spanHdr 0xFF) (leBytes 4 (0x3FF0000 + 1) ++ leBytes 4 50000000 ++ zeros 8)
def powerPkt (pl g : Nat) : Packet := packet 0x90 3 (spanHdr 0xFF) (leBytes 1 pl ++ leBytes 1 g ++ zeros 6)
/-- Keystone allows limits of 100 to 200 W and GUST. -/
def limited : State := ((up.wr Fld.keyPwrLim_pl1Min 100).wr Fld.keyPwrLim_pl1Max 200).wr Fld.keyPwrLim_gustEn 1

theorem hyp_CadenceAndPowerCommandsTakeEffect (hp : Config.ptmEnabled 0 = true) :
    (up.accepts 0x80 0 cadPkt ∧ up.accepts 0x80 0 cadPtm ∧ limited.accepts 0x90 0 (powerPkt 100 0) ∧ limited.accepts 0x90 0 (powerPkt 200 1)) ∧
    (∀ k ∈ [cadPkt, cadPtm], nbits (k.fld 0 4) 31 26 = 0 ∧ nbits (k.fld 0 4) 15 10 = 0 ∧ nbits (k.fld 0 4) 6 6 = 0 ∧ nbits (k.fld 0 4) 25 16 ≠ 0 ∧
      (∀ i < 3, nbits (k.fld 0 4) 5 0 / 4 ^ i % 4 ≠ 3)) ∧
    (((List.range 3).any fun i => nbits (cadPkt.fld 0 4) 5 0 / 4 ^ i % 4 == 1) = false ∧ 500000 ≤ cadPtm.fld 4 4 ∧ cadPtm.fld 4 4 ≤ 50000000 ∧
      up.portUp (nbits (cadPtm.fld 0 4) 9 8) = true ∧ Config.ptmEnabled (nbits (cadPtm.fld 0 4) 9 8) = true) ∧
    (∀ k ∈ [powerPkt 100 0, powerPkt 200 1], limited.rd Fld.keyPwrLim_pl1Min ≤ k.fld 0 1 ∧ k.fld 0 1 ≤ limited.rd Fld.keyPwrLim_pl1Max ∧
      k.fld 1 1 ≤ 1 ∧ limited.flag Fld.keyPwrLim_gustEn = true) := by
  refine ⟨⟨accepted (by decide +kernel), accepted (by decide +kernel), accepted (by decide +kernel), accepted (by decide +kernel)⟩,
    by decide +kernel, ⟨by decide +kernel, by decide +kernel, by decide +kernel, by decide +kernel, ?_⟩, by decide +kernel⟩
  rw [show nbits (cadPtm.fld 0 4) 9 8 = 0 by decide +kernel]
  exact hp

/-- The public key 5·G of P-384, and the header of an image without payload that it signs (R480, R481), made with the formulas of FIPS 186-5. -/
def keyA : List Byte :=
  4 :: beBytes 48 0x11de24a2c251c777573cac5ea025e467f208e51dbff98fc54f6661cbe56583b037882f4a1ca297e60abcdbc3836d84bc ++
    beBytes 48 0x8fa696c77440f92d0f5837e90a00e7c5284b447754d5dee88c986533b6901aeb3177686d0ae8fb33184414abe6c1713a
def fwImage : List Byte :=
  fwMagic ++ leBytes 2 0x0102 ++ leBytes 2 3 ++ zeros 4 ++ (List.replicate 8 [1, 0]).flatten ++
    beBytes 48 0x38b060a751ac96384cd9327eb1b1e36a21fdb71114be07434c0cc7bf63f6e1da274edebfe76f65fbd51ad2f14898b95b ++ keyA ++ zeros 3 ++
    beBytes 48 0x283c1d7365ce4788f29f8ebf234edffead6fe997fbea5ffa2d58cc9dfa7b1c508b05526f55b9ebb2040f05b48fb6d0e1 ++
    beBytes 48 0xa9300c096803a017495fc57b0e2de317d057403bf9de6a6894ba5345b76e8decfcd75dbe60eb47d23da75162e83e6ac6
/-- Key slot 0 holds that key; object 1 is a source in tier 1 that begins with the bytes `l`. -/
def sourced (l : List Byte) : State :=
  (forEach [(0, 0xac19fb8c851aadb6), (1, 0x6499b7ebcfd4565), (2, 0xe51891898af399), (3, 0x81a946de223dd226), (4, 0x59911988a8991b0e), (5, 0x1c8c48d9f31351e0)]
    (fun e (t : State) => t.setReg .keySlot 0 e.1 (BitVec.ofNat 64 e.2)) owned).modTier fun t => { t with dram := (l.zipIdx.filter (·.1 != 0)).map fun e => (e.2, e.1) }
/-- FW_UPDATE from object 1, of `n` bytes. -/
def fwPkt (n : Nat) : Packet := packet 0xA0 3 (spanHdr 0xFF) (leBytes 4 1 ++ leBytes 4 n)

theorem hyp_FirmwareUpdateBegins_1 :
    (sourced fwImage).freeOp = some 0 ∧ (sourced fwImage).accepts 0xA0 0 (fwPkt 512) ∧ (sourced fwImage).diesIn ≠ [] ∧
    (sourced fwImage).jobObjStatus 0 ((fwPkt 512).fld 0 4) ((fwPkt 512).fld 4 4) false = none ∧
    (sourced fwImage).objRead 1 0 8 ≠ recordMagic ∧ fwHeader ≤ (fwPkt 512).fld 4 4 ∧ (fwPkt 512).fld 4 4 ≤ fwBytes ∧
    (sourced fwImage).fwHeaderOk ((sourced fwImage).objRead 1 0 fwHeader) = true ∧
    (fwPkt 512).fld 4 4 = fwHeader + FwHdr.payload ((sourced fwImage).objRead 1 0 fwHeader) :=
  ⟨by decide +kernel, accepted (by decide +kernel), by decide +kernel, by decide +kernel, by decide +kernel, by decide +kernel,
    by decide +kernel, by decide +kernel, by decide +kernel⟩

theorem hyp_FirmwareUpdateBegins_2 :
    (sourced recordMagic).freeOp = some 0 ∧ (sourced recordMagic).accepts 0xA0 0 (fwPkt recordBytes) ∧ (sourced recordMagic).diesIn ≠ [] ∧
    (sourced recordMagic).jobObjStatus 0 ((fwPkt recordBytes).fld 0 4) ((fwPkt recordBytes).fld 4 4) false = none ∧
    (sourced recordMagic).objRead 1 0 8 = recordMagic ∧ recordBytes ≤ (fwPkt recordBytes).fld 4 4 :=
  ⟨by decide +kernel, accepted (by decide +kernel), by decide +kernel, by decide +kernel, by decide +kernel, by decide +kernel⟩

/-! ### Ports and registers -/

/-- The last byte of the window is posted and not taken. -/
def posting : State :=
  (up.wr Fld.hptCmdHead_head (2 ^ 20 - 8) 0).modPort 0 fun h => { h with lastTail := 2 ^ 20 }

theorem hyp_CommandWindowTakesBytes :
    up.barOpen 0 = true ∧ (2 ^ 20 - 1) + [(1 : Byte)].length ≤ 2 ^ 20 ∧ up.posted 0 (2 ^ 20 - 1 + 0) = false ∧
    posting.barOpen 0 = true ∧ posting.posted 0 (2 ^ 20 - 1) = true := by decide +kernel

/-- A command waits in the queue of port 0. -/
def queued : State := up.modPort 0 fun h => { h with cmdQ := [⟨goodEcho, 5, 1, 3⟩] }

theorem hyp_PortCommandsReachTheirQueue :
    up.barOpen 0 = true ∧
    ((2 ^ 20 : BitVec 32).toNat % 2 ^ 21 % 8 = 0 ∧ up.fromHead 0 (up.port 0).lastTail ≤ up.fromHead 0 (2 ^ 20) ∧ up.fromHead 0 (2 ^ 20) ≤ 2 ^ 20) ∧
    ¬((2 ^ 20 + 8 : BitVec 32).toNat % 2 ^ 21 % 8 = 0 ∧ up.fromHead 0 (2 ^ 20 + 8) ≤ 2 ^ 20) ∧
    queued.nextCommand = some (0, ⟨goodEcho, 5, 1, 3⟩) ∧ queued.serves 0 = true ∧ up.portUp 0 = true ∧ up.running = true ∧
    (up.port 0).crs = true ∧ ((up.modPort 0 fun h => { h with crs := false }).port 0).crs = false ∧
    (up.modPort 0 fun h => { h with crs := false }).portUp 0 = true := by decide +kernel

theorem hyp_OtherAccessesAreFlagged :
    up.barOpen 0 = true ∧ (1 : Ident).toNat = portIdent 0 ∧ aligned 0x2000C 8 = false ∧ aligned 0x20008 8 = true ∧
    regAt 0 0x20008 = some ⟨.hptCtrl, 0, 0⟩ ∧ State.inMsix 0x20008 = false ∧ inKeystone 0x20008 = false ∧ State.inViews 0x20008 = false ∧
    State.hostWrites .hptCtrl = true := by decide +kernel

theorem hyp_RegisterWritesFollowTheCodes :
    inside 0x17 ∧ inside 0x20 ∧ aligned 0xB0008 4 = true ∧ inKeystone 0xB0008 = false ∧ State.inViews 0xB0008 = false ∧
    regAt 4 0xB0008 = some ⟨.mshLinkRetry, 4, 0⟩ ∧ Reg.mshLinkRetry.place.scope = .shared ∧
    regAt 4 0xB0000 = some ⟨.mshStatus, 4, 0⟩ ∧ regAt 4 0x70060 = some ⟨.tieScrub, 4, 0⟩ ∧
    (up.barOpen 0 = true ∧ State.inMsix 0xB0000 = false ∧ regAt 0 0xB0000 = some ⟨.mshStatus, 0, 0⟩ ∧ State.hostWrites .mshStatus = false ∧
      regAt 0 0x24008 = some ⟨.hptCtrl, 3, 0⟩ ∧ State.inViews 0x24008 = true) := by
  refine ⟨by simp [inside]; decide, by simp [inside]; decide, ?_⟩
  decide +kernel

theorem hyp_ReadsWithSideEffects :
    inside 0x10 ∧ (up.modFlash fun x => { x with done := [{ word := 5 }] }).flash.done = { word := 5 } :: [] ∧ (1 : Ident).toNat = portIdent 0 ∧
    up.barOpen 0 = true :=
  ⟨by simp [inside]; decide, by decide +kernel⟩

/-- Slot word 0 of key slot 15 is burned, and the lock is set. -/
def locked : State := (up.setReg .keySlot 0 120 1).wr Fld.keyLock_lock 1

theorem hyp_KeystoneBlockIsKeystones :
    (∀ off ∈ [0, 0x100, 0x13C0, 0x1030], inKeystone off = true ∧ off < 2 ^ 24) ∧
    regAt 4 0 = some ⟨.keyStatus, 4, 0⟩ ∧ regAt 4 0x100 = some ⟨.keyPerm, 4, 0⟩ ∧ regAt 4 0x13C0 = some ⟨.keySlot, 4, 120⟩ ∧
    (isKeystone (0x17 : Ident).toNat = false ∧ isPort (0x17 : Ident).toNat = false) ∧
    (isKeystone (0x04 : Ident).toNat = false ∧ isPort (0x01 : Ident).toNat = true ∧ up.barOpen ((0x01 : Ident).toNat - 1) = true) ∧
    isKeystone (0x20 : Ident).toNat = true ∧ locked.reg .keySlot 0 120 ≠ 0 ∧ fieldMask Reg.keyPerm.fields (· == .rwl) ≠ 0 ∧
    locked.flag Fld.keyLock_lock = true ∧ up.flag Fld.keyLock_lock = false ∧ fieldMask Reg.keyStatus.fields (· == .rwl) = 0 := by decide +kernel

/-- Port 0 is in D3hot. -/
def asleep : State := (up.wr Fld.hptStatus_linkUp 0 0).modPort 0 fun h => { h with d3 := true }

theorem hyp_PortsGoDownAndComeUp :
    (up.portUp 0 = true ∧ up.lull = false ∧ up.running = true ∧ (up.modKey fun k => { k with running := false }).running = false) ∧
    (up.portPresent 3 = true ∧ up.portUp 3 = false ∧ up.key.inReset = none ∧ up.pwr.seatOpen = false ∧ up.still = false) ∧
    ((up.port 0).d3 = false) ∧ (asleep.portPresent 0 = true ∧ (asleep.port 0).d3 = true ∧ asleep.still = false) := by decide +kernel

/-! ### Mailboxes -/

/-- Mailbox 4 holds a PING of port 0, mailbox 0 is locked by steward core 0 since period 0, and 20 periods have passed. -/
def mailed : State :=
  ((up.modBox 4 fun b => { b with full := true, sender := 1, msg := zeros 8 ++ [1, 2, 3, 4, 5, 6, 7, 8] ++ zeros 48 }).wr Fld.mbxLock_owner 0x10 0 0).wr
    Fld.cadNow_period 20

theorem hyp_MailboxSendAndTake :
    (up.receiver 0 ≠ 0 ∧ up.mayMail 0x10 0 = true ∧ (up.box 0).full = false ∧ up.lockOwner 0 = 0) ∧
    ¬(up.receiver 31 ≠ 0 ∧ up.mayMail 0x10 31 = true) ∧
    (mailed.receiver 4 ≠ 0 ∧ mailed.mayMail 1 4 = true ∧ (mailed.box 4).full = true) ∧
    (mailed.receiver 0 ≠ 0 ∧ mailed.mayMail 0x11 0 = true ∧ (mailed.box 0).full = false ∧ ¬(mailed.lockOwner 0 = 0 ∨ mailed.lockOwner 0 = 0x11)) ∧
    up.receiver 0 ≠ 0x10 ∧ (mailed.receiver 4 = (0x10 : Ident).toNat ∧ (mailed.box 4).full = true) := by decide +kernel

theorem hyp_MailboxLocks :
    up.lockOwner 31 = 0 ∧ mailed.lockOwner 0 ≠ 0 ∧ (mailed.lockOwner 0 = (0x10 : Ident).toNat ∧ (0x10 : BitVec 8).toNat = (0x10 : Ident).toNat) ∧
    ¬(mailed.lockOwner 0 = (0x11 : Ident).toNat ∧ (0x11 : BitVec 8).toNat = (0x11 : Ident).toNat) ∧
    mailed.rd Fld.mbxCfg_holdMax 0 0 ≠ 0 ∧ ((mailed.box 0).since + 1 + mailed.rd Fld.mbxCfg_holdMax 0 0 * 65536) / 65536 ≤ mailed.periods ∧
    (∀ i < 32, (up.rd Fld.mbxDbMask_mask 0).testBit i = true → (0 : BitVec 32).toNat.testBit i = false →
      (up.rd Fld.mbxDb_bits 0 ||| up.rd Fld.mbxTaken_bits 0).testBit i = false) ∧ mailed.mbx.owed = [] := by decide +kernel

theorem hyp_ManagementMessagesAreAnswered :
    mailed.mgmtMessage 0 = some (0x01, [1, 2, 3, 4, 5, 6, 7, 8] ++ zeros 48) ∧
    (mailed.modBox 4 fun b => { b with msg := zeros 8 ++ [2] }).mgmtMessage 0 = some (0x02, [2]) ∧
    (mailed.modBox 4 fun b => { b with msg := zeros 8 ++ [3] }).mgmtMessage 0 = some (0x03, [3]) := by decide +kernel

/-! ### Queues -/

/-- Entry `n` of a queue. -/
def entry (n : Nat) : Entry := { seq := n, prio := 1, bytes := zeros 32, share := none, lines := 1, refusal := false, signalled := false }
/-- Queue 17 of port 0 holds entry 1 in head slot 15 and entry 2 outside the head, is to be flushed, and has a coalescing window open. -/
def heads : State :=
  (up.modQueue 0 17 fun q => { q with seq := 2, head := [(15, entry 1)], outside := [entry 2], coal := true }).wr Fld.queStatus_flushing 1 0 17

theorem hyp_QueuesAreConsumedAndFlushed :
    (17 : QueueId).val ≠ 0 ∧ (heads.queue 0 17).head.find? (fun e => e.2.seq == (1 : BitVec 32).toNat) = some (15, entry 1) ∧
    (heads.queue 0 17).head.find? (fun e => e.2.seq == (2 : BitVec 32).toNat) = none ∧
    nbits (17 : BitVec 32).toNat 4 0 = (17 : QueueId).val ∧ nbits (1 : BitVec 32).toNat 4 0 = (1 : QueueId).val ∧
    heads.flag Fld.queStatus_flushing 0 17 = true ∧ (0 : QueueId).val = 0 ∧ nbits (0 : BitVec 32).toNat 4 0 = 0 := by decide +kernel

theorem hyp_HeadFillsAndWindowsClose :
    (heads.queue 0 17).firstOut = some (entry 2) ∧ (heads.queue 0 17).room (entry 2) = some (0, none) ∧ (heads.queue 0 17).coal = true := by
  decide +kernel

/-! ### Cells -/

/-- A handle's low word: memory, format, base line, lines (R106). -/
def handle (mem fmt base size : Nat) : Word := BitVec.ofNat 64 (1 + mem * 2 + fmt * 2 ^ 4 + base * 2 ^ 16 + size * 2 ^ 32)
/-- Cell 0 of span 0 runs a stream with handles 0 (pool, FP32), 1 (weights), 2 (activations), 3 (partial sums), 4 (pool, INT8). -/
def cell0 : State :=
  let s := (served.wr Fld.celStatus_running 1 0).wr Fld.celCtrl_run 1 0
  forEach [(0, handle 0 0 0 1024), (1, handle 1 8 0 4096), (2, handle 4 8 0 4096), (3, handle 5 0 0 4096), (4, handle 0 8 1024 1024)]
    (fun e t => t.setReg .hndLo 0 e.1 e.2) s
/-- Its sequencer idle. -/
def idle0 : State := cell0.wr Fld.celStatus_running 0 0

theorem ready0 : cell0.ready 0 := ⟨by decide +kernel, by decide +kernel⟩

theorem hyp_ControlInstructionsMoveTheSequencer :
    cell0.ready 0 ∧ (cell0.streamView 0 (64 % 64)).isSome = true ∧ cell0.streamView 0 (63 % 64) = none ∧
    (match (cell0.cell 0).loops.find? fun e => e.1 == cell0.rd Fld.celPc_offset 0 with | some e => e.2 | none => 1 - 1) = 0 ∧
    (match (cell0.cell 0).loops.find? fun e => e.1 == cell0.rd Fld.celPc_offset 0 with | some e => e.2 | none => 2 - 1) ≠ 0 :=
  ⟨ready0, by decide +kernel⟩

/-- A latch instruction on latch `l` with a value. -/
def latchWord (l v : Nat) : Inst256 := BitVec.ofNat 256 (l * 2 ^ 16 + v * 2 ^ 32)
/-- Latch 1023 stands one below the top of its range, below its target; latch 57344 is met. -/
def latched : State := (cell0.setLatch 1023 0xFFFFFFFE 0xFFFFFFFF).setLatch 57344 3 3
/-- A cycle is open at latch 65535: RESETs of cells 1 and 2, SIGNALs of 3 and 4, a REARM. -/
def joinedOps : State :=
  { latched with latchOps := [⟨65535, .signal, cellIdent 0, 3⟩, ⟨65535, .reset, cellIdent 2, 5⟩, ⟨65535, .rearm, cellIdent 3, 0⟩,
      ⟨65535, .reset, cellIdent 1, 6⟩, ⟨65535, .signal, cellIdent 4, 4⟩] }

theorem hyp_LatchInstructionsTakeEffect_1 :
    latched.ready 0 ∧ (reservedOp (bits (latchWord 1023 1) 7 0) = false ∧ reservedOp (bits (latchWord 1023 0) 7 0) = false ∧
      reservedOp (bits (latchWord 57344 0) 7 0) = false) ∧
    (bits (latchWord 1023 1) 15 8 = 0 ∧ bits (latchWord 1023 1) 255 64 = 0 ∧ bits (latchWord 1023 0) 15 8 = 0 ∧
      bits (latchWord 1023 0) 255 64 = 0 ∧ bits (latchWord 57344 0) 15 8 = 0 ∧ bits (latchWord 57344 0) 255 64 = 0) ∧
    (bits (latchWord 1023 1) 31 16 = 1023 ∧ bits (latchWord 1023 1) 63 32 = 1 ∧ bits (latchWord 57344 0) 31 16 = 57344) ∧
    latched.ownsLatch (latched.cellSpan 0) 1023 = true ∧ latched.ownsLatch (latched.cellSpan 0) 57344 = true ∧
    latched.latchOps = [] ∧
    latched.counter 1023 + 1 ≤ 0xFFFFFFFF ∧ latched.target 57344 ≤ latched.counter 57344 ∧ State.latchHome 1023 = 0 ∧
    cell0.met 1023 = true ∧ latched.met 1023 = false ∧ State.latchHome 57344 ≠ 0 := ⟨⟨by decide +kernel, by decide +kernel⟩, by decide +kernel⟩

theorem hyp_LatchInstructionsTakeEffect_2 :
    65535 < 65536 ∧
    (let mine := joinedOps.latchOps.filter fun o => o.latch == 65535
     let r : LatchOp := ⟨65535, .reset, cellIdent 2, 5⟩
     let rearms := (mine.filter fun o => o.kind == .rearm).length
     let sum := 0 + ((mine.filter fun o => o.kind == .signal).map fun o => o.value).sum
     r ∈ mine ∧ r.kind = .reset ∧ (∀ o ∈ mine, o.kind = .reset → o ≠ r → o.who < r.who) ∧ sum ≤ 0xFFFFFFFF ∧ rearms * (5 % 2 ^ 32) ≤ sum) ∧
    (∀ o ∈ latched.latchOps.filter (fun o => o.latch == 65535), o.kind ≠ .reset) := by decide +kernel

theorem hyp_LatchesHoldAtTheirLimits :
    latched.ready 0 ∧ reservedOp (bits (latchWord 1023 2) 7 0) = false ∧ bits (latchWord 1023 2) 15 8 = 0 ∧ bits (latchWord 1023 2) 255 64 = 0 ∧
    latched.ownsLatch (latched.cellSpan 0) (bits (latchWord 1023 2) 31 16) = true ∧
    (∀ o ∈ latched.latchOps, o.latch ≠ bits (latchWord 1023 2) 31 16) ∧
    0xFFFFFFFF < latched.counter 1023 + bits (latchWord 1023 2) 63 32 ∧ bits (latchWord 1023 0) 63 32 = 0 ∧
    latched.counter 1023 < latched.target 1023 := ⟨⟨by decide +kernel, by decide +kernel⟩, by decide +kernel⟩

theorem hyp_SetLatchReadsBack : (57343 < 65536 ∧ 57344 < 65536 ∧ 65535 < 65536) ∧ 57344 ≠ 57343 := by decide

/-- A matrix instruction of INT8 operands with handles `a`, `b` and 3, over one block of K (R85). -/
def matrixWord (op shape a b rows : Nat) : Inst256 :=
  BitVec.ofNat 256 (op + shape * 2 ^ 11 + 8 * 2 ^ 16 + 8 * 2 ^ 20 + rows * 2 ^ 40 + 1 * 2 ^ 48 + a * 2 ^ 64 + b * 2 ^ 72 + 3 * 2 ^ 80 + 9 * 2 ^ 88)
/-- The side path is enabled. -/
def side0 : State := (cell0.wr Fld.celCtrl_spEn 1 0).wr Fld.celCtrl_mode 1 0

theorem hyp_IllegalInstructionsHalt :
    cell0.ready 0 ∧ reservedOp (bits (0x4F : Inst256) 7 0) = true ∧ reservedOp (bits (0x100 : Inst256) 7 0) = false ∧
    bits (0x100 : Inst256) 15 8 ≠ 0 ∧ bits (BitVec.ofNat 256 (2 ^ 255)) 255 64 ≠ 0 ∧
    (bits (latchWord 60000 1) 15 8 = 0 ∧ bits (latchWord 60000 1) 255 64 = 0 ∧ cell0.ownsLatch (cell0.cellSpan 0) (bits (latchWord 60000 1) 31 16) = false) ∧
    (bits (latchWord 60000 0) 63 32 = 0 ∧ bits (latchWord 60000 1) 63 32 ≠ 0) ∧
    (let m := matrixWord 0x40 0 1 2 0
     reservedOp (bits m 7 0) = false ∧ cell0.matrixCause 0 (Mx.withOp m 0x40) false = some 4) ∧
    (let m := matrixWord 0x41 0 4 4 1
     reservedOp (bits m 7 0) = false ∧ cell0.matrixCause 0 (Mx.withOp m 0x41) true = some 8) ∧
    bits (0x8000 : Inst256) 15 14 ≠ 0 ∧ 64 < bits (BitVec.ofNat 256 (65 * 2 ^ 32)) 39 32 ∧ rndOf 7 = none := ⟨ready0, by decide +kernel⟩

/-- Cell 0 waits on latch 57344, whose home has notified it; its matrix instruction 5 has had its registration refused. -/
def remote0 : State :=
  cell0.modCell 0 fun c => { c with waitL := some 57344, waits := [⟨57344, .seq, .notified⟩, ⟨57345, .job 5, .refused⟩] }

theorem hyp_StreamsStartAndStop :
    inside 0x10 ∧ idle0.cellOn 0 = true ∧ idle0.flag Fld.celCtrl_run 0 = true ∧ idle0.flag Fld.celStatus_running 0 = false ∧
    (idle0.streamView 0 (nbits (0x2000 : BitVec 32).toNat 5 0)).isSome = true ∧ idle0.streamView 0 (nbits (63 : BitVec 32).toNat 5 0) = none ∧
    cell0.flag Fld.celStatus_running 0 = true ∧
    (cell0.flag Fld.celStatus_waiting 0 = false ∧ (cell0.cell 0).stall = none ∧ (cell0.cell 0).dual = none) ∧
    ((remote0.waitsOf 0)[0]? = some ⟨57344, .seq, .notified⟩ ∧ (remote0.cell 0).stopReq = false ∧ (remote0.cell 0).sideMet = none) ∧
    (remote0.waitsOf 0)[1]? = some ⟨57345, .job 5, .refused⟩ :=
  ⟨by simp [inside]; decide, by decide +kernel⟩

theorem hyp_HandlesInstallTogether :
    inside 0x10 ∧ cell0.cellOn 0 = true ∧ bit (0 : Word) 0 = false ∧ handleOk (handle 0 8 0 49152) 0 = true ∧
    (bit (handle 0 8 1 49152) 0 = true ∧ handleOk (handle 0 8 1 49152) 0 = false ∧ cell0.flag Fld.poolStatus_hndBad 0 = false ∧
      (cell0.wr Fld.poolStatus_hndBad 1 0).flag Fld.poolStatus_hndBad 0 = true) := ⟨by simp [inside]; decide, by decide +kernel⟩

theorem poison_free (c : Cell) (v : View) (off n : Nat) (h : c.poison = []) : c.poisoned v off n = none := by
  simp [Cell.poisoned, h]

theorem operand_free (s : State) (n : Nat) (w : Inst256) (p : Prep) (h : (s.cell n).poison = []) : s.operandUe n w p {} = none := by
  have : ∀ k, ((State.operandRegion w p k).bind fun x => (s.cell n).poisoned x.1 x.2.1 x.2.2) = none := by
    intro k
    cases State.operandRegion w p k with
    | none => rfl
    | some x => exact poison_free _ _ _ _ h
  simp [State.operandUe, this]

/-- The operands of a matrix instruction on handles 1, 2 and 3. -/
def prep0 : Prep :=
  let v : View := viewOf (handle 5 0 0 4096) 0
  { vw := viewOf (handle 1 8 0 4096) 0, va := viewOf (handle 4 8 0 4096) 0, vp := v, vo := v, vs := v, app := false, wOld := [], aOld := [],
    sOld := [] }
/-- A job of the array that has started. -/
def job0 : MatrixJob := { id := 0, w := matrixWord 0x40 0 1 2 64, pc := 0, errs := {}, waiting := false, prep := some prep0 }
/-- That job is on the array of cell 0. -/
def array0 : State := cell0.modCell 0 fun c => { c with jobs := [job0] }
/-- A dual instruction of the east half, one of the west half, and cell 0 with the first of them held. -/
def east0 : Inst256 := matrixWord 0x40 1 1 2 32
def west0 : Inst256 := matrixWord 0x40 1 1 2 32 ||| BitVec.ofNat 256 (2 ^ 14)
def dual0 : State := cell0.modCell 0 fun c => { c with dual := some (Mx.withOp east0 0x40, 0, {}) }
/-- EXP2 of one element of handle 0 into handle 0 (R94). -/
def vector0 : VectorInst := { op := .exp2, h0 := 0, h1 := 0, h2 := 0, hd := 0, len := 1, rnd := 0, sat := false, param := 0, list := [] }
/-- The view of handle 0. -/
def view0 : View := viewOf (handle 0 0 0 1024) 0

theorem hyp_EnginesCompleteTheirInstructions_1 :
    cell0.ready 0 ∧
    (let w := matrixWord 0x40 0 1 2 64
     let m := Mx.withOp w 0x40
     reservedOp (bits w 7 0) = false ∧ cell0.matrixCause 0 m false = none ∧ hazard (cell0.cell 0).jobs (Mx.reads m) (Mx.writes m) = false ∧
       Mx.shape m ≠ 1 ∧ (cell0.cell 0).jobs = [] ∧ bit m 224 = false ∧ (cell0.prepare 0 m false {}).isRight = true) ∧
    (let m := Mx.withOp east0 0x40
     reservedOp (bits east0 7 0) = false ∧ cell0.matrixCause 0 m false = none ∧ hazard (cell0.cell 0).jobs (Mx.reads m) (Mx.writes m) = false ∧
       Mx.shape m = 1 ∧ bit m 14 = false) ∧
    (let m := Mx.withOp west0 0x40
     let a := Mx.withOp east0 0x40
     reservedOp (bits west0 7 0) = false ∧ dual0.matrixCause 0 m false = none ∧ dual0.issues 0 = true ∧ (dual0.cell 0).dual = some (a, 0, {}) ∧
       Mx.dualAgree a m = true ∧ hazard (dual0.cell 0).jobs (Mx.reads a ++ Mx.reads m) (Mx.writes a ++ Mx.writes m) = false) :=
  ⟨ready0, by decide +kernel⟩

/-- Side-path instructions, without a wait and with one on latch 0 of the cell itself. -/
def sideW (wait : Bool) : Inst256 := matrixWord 0x41 0 4 4 1 ||| BitVec.ofNat 256 (if wait then 2 ^ 224 else 0)

theorem hyp_EnginesCompleteTheirInstructions_2 :
    side0.ready 0 ∧
    (∀ b, let w := sideW b
     let m := Mx.withOp w 0x41
     let u := side0.modCell 0 fun c => { c with sideMet := none }
     reservedOp (bits w 7 0) = false ∧ side0.matrixCause 0 m true = none ∧ hazard (side0.cell 0).jobs (Mx.reads m) (Mx.writes m) = false ∧
       (side0.cell 0).sideMet = none ∧ bit m 224 = b ∧ (State.latchHome (bits m 207 192) = 0 ∧ side0.met (bits m 207 192) = true ∧
         ∀ o ∈ side0.latchOps, o.latch ≠ bits m 207 192) ∧ (u.prepare 0 m true {}).isRight = true) ∧
    ∀ m p, (((side0.modCell 0 fun c => { c with sideMet := none }).corrected 0 0).operandUe 0 m p {}) = none :=
  ⟨⟨by decide +kernel, by decide +kernel⟩, by decide +kernel, fun m p => operand_free _ _ _ _ (by decide +kernel)⟩

theorem hyp_EnginesCompleteTheirInstructions_3 :
    ((array0.cell 0).jobs = job0 :: [] ∧ job0.prep = some prep0 ∧
      (array0.corrected 0 job0.errs.corrected).operandUe 0 job0.w prep0 job0.errs = none) ∧
    (cell0.ready 0 ∧ rndOf vector0.rnd = some .rne ∧ (∀ k, vector0.op = .topK k → k ≤ 256) ∧ vector0.op.reduces = false ∧
      hazard (cell0.cell 0).jobs (vector0.sources.map (· % 64)) [vector0.hd % 64] = false ∧
      (vector0.sources.map fun h => cell0.vectorSource 0 h vector0.len) = [view0].map some ∧
      cell0.vectorDest 0 vector0.hd vector0.outLen .rne = some view0 ∧ view0.fmt = 0 ∧
      (cell0.corrected 0 0).vectorUe 0 vector0 [view0] {} = none) := by
  refine ⟨⟨by decide +kernel, rfl, operand_free _ _ _ _ (by decide +kernel)⟩, ready0, by decide +kernel, ?_, by decide +kernel, by decide +kernel,
    by decide +kernel, by decide +kernel, by decide +kernel, by decide +kernel⟩
  intro k h
  cases h

/-- The scrubber of cell 0 stands at the last line of its partial-sum buffer, which is poisoned. -/
def scrubbed : State :=
  ((cell0.wr Fld.poolScrubPos_mem 5 0).wr Fld.poolScrubPos_line 4095 0).modCell 0 fun c => { c with poison := [5 * 2 ^ 18 + 4095] }
/-- The first line of handle 0 is poisoned. -/
def spoiled0 : State := cell0.modCell 0 fun c => { c with poison := [0] }

theorem hyp_ArrayAndMemoryFaults :
    ((array0.cell 0).jobs = job0 :: [] ∧ job0.prep.isSome = true) ∧ cell0.cellOn 0 = true ∧ cell0.flag Fld.poolCfg_scrubEn 0 = true ∧
    (cell0.cell 0).poison.contains 0 = false ∧ cell0.rd Fld.poolScrubPos_mem 0 * 2 ^ 18 + cell0.rd Fld.poolScrubPos_line 0 = 0 ∧
    scrubbed.cellOn 0 = true ∧ scrubbed.rd Fld.poolScrubPos_mem 0 = 5 ∧ scrubbed.rd Fld.poolScrubPos_line 0 = 4095 ∧
    (scrubbed.cell 0).poison.contains (5 * 2 ^ 18 + 4095) = true ∧
    (spoiled0.flag Fld.celStatus_running 0 = true ∧ rndOf vector0.rnd = some .rne ∧ vector0.op.reduces = false ∧
      hazard (spoiled0.cell 0).jobs (vector0.sources.map (· % 64)) [vector0.hd % 64] = false ∧
      (vector0.sources.map fun h => spoiled0.vectorSource 0 h vector0.len) = [view0].map some ∧
      spoiled0.vectorDest 0 vector0.hd vector0.outLen .rne = some view0 ∧
      (spoiled0.corrected 0 0).vectorUe 0 vector0 [view0] {} = some (0, 0, none)) := by decide +kernel

/-! ### Moves and tiers -/

/-- A MOVE of `k` descriptors from line `l` of handle 0 (R139). -/
def moveWord (l k : Nat) : Inst256 := BitVec.ofNat 256 (0x20 + l * 2 ^ 16 + k * 2 ^ 32)
/-- A move without data, of its own cell's issuing. -/
def move0 : Move :=
  { id := 0, who := 0x40, desc := 0, src := none, dst := none, recH := none, waiting := false, legs := 0, done := 0, fmtExc := 0, codErr := 0,
    poison := false, failed := false, held := none }
/-- A move of cell 0 in flight, without anything left to carry; a fetch leg of another that is next; a failed one; one whose writes the tier
engine has held; and a piece that a walker brings to cell 55. -/
def moving : State :=
  let d : BitVec 512 := BitVec.ofNat 512 (2 ^ 32)
  let s := (cell0.modCell 0 fun c => { c with moves := [move0, { move0 with id := 1, legs := 1, desc := d }, { move0 with id := 2, desc := d, failed := true },
      { move0 with id := 3, desc := BitVec.ofNat 512 (2 ^ 33), held := some 1 }] }).modTier fun t =>
    { t with legs := [⟨5, 0, 1, 1, 0, false, 2, 255, 0, false⟩, ⟨6, 59, 1, 2, 1, false, 3, 0, 0, false⟩] }
  s.modKv fun k => { k with pieces := [⟨0, 0, 0, 0, 0, 0, 55, viewOf (handle 0 3 0 1024) 0, 0, 57344, false, false, false⟩] }
/-- A descriptor that reads object 131071, and that object with all the pins that it can have. -/
def pinDesc : BitVec 512 := BitVec.ofNat 512 (2 + 131071 * 2 ^ 96)
def pinned : State := cell0.modObj 131071 fun x => { x with e := { x.e with pins := 65535 } }

theorem hyp_MovesIssueAndComplete_1 :
    cell0.ready 0 ∧
    (reservedOp (bits (moveWord 960 64) 7 0) = false ∧ bits (moveWord 960 64) 15 14 = 0 ∧ bits (moveWord 960 64) 255 40 = 0 ∧
      1 ≤ bits (moveWord 1008 1) 39 32 ∧ bits (moveWord 960 64) 39 32 ≤ 64 ∧ hazard (cell0.cell 0).jobs [bits (moveWord 960 64) 13 8] [] = false) ∧
    (∃ v, cell0.resolve 0 (bits (moveWord 960 64) 13 8) = some v ∧ v.mem = 0 ∧ v.rmode = 0 ∧
      v.holds (bits (moveWord 960 64) 31 16 * 64) (bits (moveWord 960 64) 39 32 * 64) = true) ∧
    ((0x10 ≤ (0x17 : Ident).toNat ∧ (0x17 : Ident).toNat ≤ 0x17) ∧ (0x30 ≤ (0x30 : Ident).toNat ∧ (0x30 : Ident).toNat ≤ 0x37) ∧
      cell0.moveRoom 56 pinDesc = true ∧ pinned.moveRoom 56 pinDesc = false) :=
  ⟨ready0, by decide +kernel, ⟨_, rfl, by decide +kernel, by decide +kernel, by decide +kernel⟩, by decide +kernel⟩

theorem hyp_MovesIssueAndComplete_2 :
    moving.cellFenced 0 = false ∧
    (∃ m, (moving.movesOf 0)[0]? = some m ∧ ((descObjs m.desc).any fun o => (moving.obj o).e.st == stLost) = false ∧ m.waiting = false ∧
      m.failed = false ∧ m.legs = 0 ∧ moving.behind 0 m = false ∧ moving.arrayHolds m = false ∧ m.held = none) ∧
    (∃ m, (moving.movesOf 0)[2]? = some m ∧ m.failed = true) ∧
    (∃ m, (moving.movesOf 0)[3]? = some m ∧ ((descObjs m.desc).any fun o => (moving.obj o).e.st == stLost) = false ∧ m.waiting = false ∧
      m.failed = false ∧ m.legs = 0 ∧ moving.behind 0 m = false ∧ moving.arrayHolds m = false ∧ m.held = some 1 ∧ moving.dstMoving m = false) ∧
    ((moving.movesOf 55)[0]? = none ∧ moving.cellFenced 55 = false ∧
      ∃ p, (moving.piecesTo 55)[0 - (moving.movesOf 55).length]? = some p ∧ p.leg = false ∧ State.inWeights p.view = false) ∧
    (∃ l, moving.tier.legs.find? (fun l => l.id == 5) = some l ∧ moving.legNext l = true) ∧
    SMap.get 0 cell0.meshRetry 4 + 1 < 16 ∧ 16 ≤ SMap.get 0 ({ cell0 with meshRetry := [(4, 15)] } : State).meshRetry 4 + 1 ∧
    cell0.flag Fld.mshStatus_linkDown = false :=
  ⟨by decide +kernel,
    ⟨_, rfl, by decide +kernel, by decide +kernel, by decide +kernel, by decide +kernel, by decide +kernel, by decide +kernel, by decide +kernel⟩,
    ⟨_, rfl, by decide +kernel⟩,
    ⟨_, rfl, by decide +kernel, by decide +kernel, by decide +kernel, by decide +kernel, by decide +kernel, by decide +kernel, by decide +kernel,
      by decide +kernel⟩,
    ⟨by decide +kernel, by decide +kernel, _, rfl, by decide +kernel, by decide +kernel⟩, ⟨_, rfl, by decide +kernel⟩, by decide +kernel⟩

/-- Object 7 moves from tier 3 to tier 1 with its tile delivered, 4 is an evictable tier-1 object of port 0 with a buffer, 5 the same with a pin, 6 the factor of an adapter load. -/
def tiered : State :=
  let e : DirEntry := { st := stResident, home := 1, fmt := 0x8, owner := 1, grant := 1, addr := 0, tiles := 1 }
  let s := (owned.modObj 2 fun x => { x with slot := true, got := 1 }).modObj 4 fun _ => { e, buffer := 4097 }
  let s := s.modObj 7 fun _ => { e := { e with st := stMoving, home := 3, dest := 1 }, slot := true, got := 1 }
  let s := s.modObj 5 fun _ => { e := { e with pins := 1 } }
  let s := s.modObj 6 fun _ => { e := { e with st := stMoving, dest := 1, owner := 0 }, load := 1, pack := some (4, 0) }
  (s.modOp 0 fun _ => { live := true, job := .adapter 0 1 false }).modTier fun t => { t with legs := [⟨6, 59, 1, 4, 1, false, 3, 0, 0, false⟩] }

theorem hyp_ObjectsMoveBetweenTiers :
    (∀ o ∈ [2, 7], (tiered.obj o).pack = none ∧ (tiered.obj o).e.st = stMoving ∧ (tiered.obj o).load = 0 ∧ (tiered.obj o).slot = true ∧
      ((tiered.obj o).byLegs = true → (tiered.obj o).e.tiles ≤ (tiered.obj o).got) ∧ tiered.readsOut o = false) ∧
    ((tiered.obj 2).e.home = 1 ∧ (tiered.obj 7).e.home ≠ 1) ∧
    ((tiered.obj 6).pack = some (4, 0) ∧ (tiered.obj 6).e.st = stMoving ∧ (tiered.op ((tiered.obj 6).load - 1)).st = 0 ∧
      (tiered.obj 4).e.st = stResident) ∧
    ((tiered.obj 5).e.st = stResident ∧ (tiered.obj 5).e.pins ≠ 0) ∧
    ((tiered.obj 4).e.pins = 0 ∧ tiered.evictable 4 3 = true ∧ (tiered.placeObj 4 3 0 none).isSome = true) ∧
    (tiered.tier.legs.find? fun l => l.id == 6 && l.tier == 3).isSome = true := by decide +kernel

/-- Channel 33 has reached its threshold of corrected errors; a copy to the spare of stack 0 and one of stack 1 run; the line at which its patrol
stands has been uncorrectable and rewritten, if it has an address. -/
def ceFull : State :=
  (up.wr Fld.tieCeThresh_count 0).modTier fun t => { t with copies := [(0, 15), (1, 0)], ueAt := (up.lineAddr 33 0).toList.map fun x => (x / 64, true) }

theorem hyp_DramErrorsAreHandled :
    up.flag Fld.tieScrub_en = true ∧
    (((SMap.get [] up.tier.ceWin 33) ++ [up.periods]).filter fun p => up.periods < p + max 1 (up.rd Fld.tieCeThresh_periods)).length ≤
      up.rd Fld.tieCeThresh_count ∧
    ceFull.rd Fld.tieCeThresh_count <
      (((SMap.get [] ceFull.tier.ceWin 33) ++ [ceFull.periods]).filter fun p => ceFull.periods < p + max 1 (ceFull.rd Fld.tieCeThresh_periods)).length ∧
    (∃ x, up.lineAddr 0 0 = some x) ∧ (∃ ch : Fin 34, up.lineAddr ch 0 = none) ∧
    ceFull.tier.copies = (0, 15) :: [(1, 0)] ∧ (ceFull.modTier fun t => { t with copies := [(1, 0)] }).tier.copies = (1, 0) :: [] :=
  ⟨by decide +kernel, by decide +kernel, by decide +kernel, ⟨_, rfl⟩, ⟨16, by decide +kernel⟩, by decide +kernel⟩

/-! ### Flash -/

/-- Sixty-four operations wait in the controller. -/
def flashFull : State := up.modFlash fun f => { f with ops := (List.range 64).map fun i =>
  { id := i, writer := 0x10, w := State.flashWord 1 0 0 0 1, left := [0], status := 0, badPl := 0, job := none, leg := none, opened := false,
    page := 0, target := 0 } }
/-- Image 5 is VALID in the last row. -/
def imaged : State := up.modLib 5 fun e => { e with st := 2, first := 447, units := 1 }
/-- A descriptor on planes 0 and 63 of row 447, and one on the plane 63 alone. -/
def flashW : Inst256 := State.flashWord 0 1 447 0 (2 ^ 63 + 1)
def oneW : Inst256 := State.flashWord 0 1 447 0 (2 ^ 63)
/-- A parameter descriptor on sector `s`. -/
def paramW (c s : Nat) : Inst256 := BitVec.ofNat 256 (c + s * 2 ^ 16)

theorem hyp_FlashDescriptorsAreSubmitted_1 :
    inside 0x10 ∧ up.flashQueued < 64 ∧ (selected flashW ≠ [] ∧ selected oneW ≠ []) ∧
    Fop.wellFormed (Fop.withCode flashW 0x01) Config.flashUnits = true ∧ Fop.wellFormed (Fop.withCode flashW 0x02) Config.flashUnits = true ∧
    Fop.wellFormed (Fop.withCode flashW 0x03) Config.flashUnits = true ∧ Fop.wellFormed (Fop.withCode flashW 0x10) Config.flashUnits = true ∧
    Fop.wellFormed (Fop.withCode flashW 0x20) Config.flashUnits = true ∧ Fop.wellFormed (Fop.withCode oneW 0x40) Config.flashUnits = true ∧ up.dieServes (Fop.die flashW) = true ∧
    up.rowValid (Fop.row flashW) = false ∧ imaged.rowValid (Fop.row flashW) = true ∧ 64 ≤ flashFull.flashQueued :=
  ⟨by simp [inside]; decide, by decide +kernel⟩

theorem hyp_FlashDescriptorsAreSubmitted_2 :
    (let w := Fop.withCode flashW 0x10
     let t := (forEach (List.range 4) (fun i (t : State) => t.setReg .flcOp 0 i (BitVec.ofNat 64 (bits w (64 * i + 63) (64 * i)))) up).modFlash
       fun f => { f with nextId := up.flash.nextId + 1, ops := f.ops ++ [{
         id := up.flash.nextId, writer := 0x10, w, left := selected w, status := 0, badPl := 0, job := none, leg := none, opened := false,
         page := 0, target := 0 }] }
     ∀ k ∈ selected flashW, t.programRefused (Fop.die flashW) k (Fop.row flashW) (Fop.page flashW) = false) ∧
    (Fop.wellFormed (Fop.withCode (paramW 0 12) 0x30) Config.flashUnits = true ∧ Fop.wellFormed (Fop.withCode (paramW 0 11) 0x31) Config.flashUnits = true ∧
      Fop.wellFormed (Fop.withCode (paramW 0 11) 0x32) Config.flashUnits = true ∧ sectorWriter up.key.active up.updating 0x10 (bits (paramW 0 11) 19 16) = true ∧
      sectorWriter up.key.active up.updating 0x10 (bits (paramW 0 8) 19 16) = false ∧
      up.flag Fld.flcStatus_sagHold = false ∧ Fop.wellFormed (Fop.withCode (0 : Inst256) 0x7F) Config.flashUnits = true ∧
      Fop.wellFormed (Fop.withCode (BitVec.ofNat 256 (511 * 2 ^ 16)) 0x20) Config.flashUnits = false) := by decide +kernel

/-- An operation of the controller on plane 0 of a row, page 0; and one of row 3. -/
def fopAt (row i code : Nat) : FlashOp :=
  { id := i, writer := 0x10, w := State.flashWord code 0 row 0 1, left := [0], status := 0, badPl := 0, job := none, leg := none, opened := false,
    page := 0, target := 0 }
def fop (i code : Nat) : FlashOp := fopAt 3 i code
/-- Plane 0 of die 0 in a given state, with a read (8), a program (9) and an erase (10) in the controller. -/
def planeIn (p : Plane) : State := (up.modFlash fun f => { f with ops := [fop 8 0x01, fop 9 0x10, fop 10 0x20] }).modPlane 0 0 fun _ => p

theorem hyp_FlashPlanesFollowTheirTable :
    (let s := planeIn { st := .progSuspended, prog := some 9, reads := [8] }
     s.flag Fld.flcClk_changing = false ∧ (s.plane 0 0).st = .progSuspended ∧ (s.plane 0 0).reads = 8 :: [] ∧
       ((s.modPlane 0 0 fun p => { p with reads := [] }).fillReads 0 0 2).flashOp 8 = some (fop 8 0x01)) ∧
    (let s := planeIn { st := .programming, prog := some 9, reads := [8] }
     (s.plane 0 0).st = .programming ∧ (s.plane 0 0).prog.isSome = true ∧ (s.plane 0 0).reads ≠ [] ∧
       (s.plane 0 0).pulses + 1 < s.rd Fld.keyFlashLim_progPulses) ∧
    (let s := (planeIn { st := .erasing, ers := some 10, waitP := [11] }).modFlash fun f =>
       { f with ops := f.ops ++ [fopAt 4 11 0x10] }
     (s.plane 0 0).st = .erasing ∧ (s.plane 0 0).prog = none ∧ s.otherProgram (s.plane 0 0) ≠ none ∧
       (s.plane 0 0).segs + 1 < 10 * s.rd Fld.keyFlashLim_erasePulses) ∧
    (let s := (planeIn { st := .erasing, ers := some 10, reads := [11] }).modFlash fun f =>
       { f with ops := f.ops ++ [fopAt 4 11 0x01] }
     (s.plane 0 0).st = .erasing ∧ (s.plane 0 0).prog = none ∧ s.otherRead (s.plane 0 0) = true) ∧
    (let s := planeIn { st := .progSuspended, prog := some 9 }; (s.plane 0 0).reads = [] ∧ (s.plane 0 0).st = .progSuspended) ∧
    (let s := planeIn { st := .eraseSuspended, ers := some 10 }
     (s.plane 0 0).reads = [] ∧ (s.plane 0 0).st = .eraseSuspended ∧ s.otherProgram (s.plane 0 0) = none) ∧
    (let s := planeIn { st := .programming, prog := some 9 }
     (s.plane 0 0).st = .programming ∧ (s.plane 0 0).prog = some 9 ∧ s.flashOp 9 = some (fop 9 0x10) ∧ Fop.code (fop 9 0x10).w = 0x10 ∧
       Fop.row (fop 9 0x10).w < Config.flashUnits ∧ (s.plane 0 0).pulses + 1 ≤ s.rd Fld.keyFlashLim_progPulses ∧
       (s.plane 0 0).ers = none ∧ (s.wr Fld.flcStatus_sagHold 1).flag Fld.flcStatus_sagHold = true) ∧
    (let s := (planeIn { st := .programming, prog := some 12 }).modFlash fun f => { f with ops := f.ops ++ [fop 12 0x40] }
     (s.plane 0 0).prog = some 12 ∧ s.flashOp 12 = some (fop 12 0x40) ∧ Fop.code (fop 12 0x40).w = 0x40) ∧
    (let s := planeIn { st := .erasing, ers := some 10 }
     (s.plane 0 0).st = .erasing ∧ (s.plane 0 0).prog = none ∧ (s.plane 0 0).ers = some 10 ∧ s.flashOp 10 = some (fop 10 0x20) ∧
       Fop.code (fop 10 0x20).w = 0x20 ∧ Fop.row (fop 10 0x20).w < Config.flashUnits ∧ ((s.plane 0 0).segs + 10) % 10 = 0 ∧
       (s.plane 0 0).segs + 10 ≤ 10 * s.rd Fld.keyFlashLim_erasePulses) := by
  decide +kernel

theorem hyp_FlashClockKeepsItsLimits :
    inside 0x10 ∧ (∀ m, minWait (nbits (0x16 : BitVec 32).toNat 2 0) (nbits (0x16 : BitVec 32).toNat 4 4) = some m →
      m ≤ (up.wr Fld.flcWait_rdCycles 20).rd Fld.flcWait_rdCycles) ∧
    (∀ m, minWait (nbits (0x07 : BitVec 32).toNat 2 0) (nbits (0x07 : BitVec 32).toNat 4 4) = some m → up.rd Fld.flcWait_rdCycles < m) ∧
    (∃ n, minWait (up.rd Fld.flcClk_freq) (up.rd Fld.flcClk_vccq) = some n ∧ n ≤ nbits (63 : BitVec 32).toNat 5 0 ∧
      nbits (0 : BitVec 32).toNat 5 0 < n) ∧
    (up.modFlash fun x => { x with clkTo := some (6, 1) }).flash.clkTo = some (6, 1) := by
  refine ⟨by simp [inside]; decide, ?_, ?_, ⟨_, rfl, by decide +kernel, by decide +kernel⟩, rfl⟩ <;> decide +kernel

/-! ### Steps, relays, releases -/

/-- A load of object 9 with a packet of role 0 in the relay buffer of role 0. -/
def loadA : LoadJob := { image := 0, swap := false, todo := [], legs := [], objs := [9], ready := false, hops := [(0, [⟨0, 9, 0, 0⟩])] }
/-- Span 0 runs a step of two rows of slot 0 on a model of two layers and two roles; slot 4095 is PACED with its final item due, and so is what
has left slot 5; a line of the page table is outstanding; operation 63 loads object 9: a module-level packet stands at
the tier engine, and one of role 0 in the relay buffer of role 0. -/
def stepping : State :=
  let c : ModelCopy := { copyA with hdr := { hdrA with layers := 2, roles := 2 } }
  let r : RowEntry := { seg := 0, slot := 0, pos := 16, first := true, verify := false, sample := false, token := 1 }
  let s := (served.wr Fld.cadNow_period 1).modSpan 0 fun x =>
    { x with cur := some c, building := some c,
             batch := some { rows := [r, { r with pos := 17 }], groups := [], adapted := [], chunk := 2, seqs := 1, old := false, start := 0, pins := [] } }
  let s := s.modSlot 4095 fun x =>
    { x with st := slParked, par := { x.par with cls := 1 }, held := [{ kind := 1, text := [], tokens := [], first := 0, made := 0 }] }
  let s : State := { s with leaving := [(5, s.slot 4095)] }
  let s := s.modKv fun k => { k with misses := [(0, [s.labLine 0 0 0])] }
  let s := s.modObj 9 fun _ => { e := { st := stMoving, home := 1, fmt := 0x8, tiles := 1, dest := 1 }, load := 64, role := some 0 }
  s.modOp 63 fun _ => { live := true, span := 0, job := .load { loadA with todo := [⟨noRole, 9, 0, 0⟩] } }
/-- The relay buffer of role 0 holds a packet for role 1. -/
def passing : State :=
  stepping.modOp 63 fun o => { o with job := .load { loadA with hops := [(0, [⟨1, 9, 0, 0⟩])] } }

theorem hyp_StepsRunAtTheirBoundaries_1 :
    (served.running = true ∧ served.lull = false ∧ (served.span 0).batch = none) ∧
    (let s := stepping.modSpan 0 fun x => { x with again := true }
     (∃ b, (s.span 0).batch = some b) ∧ s.abandoned 0 = true ∧ s.running = true ∧ s.lull = false) ∧
    ((∃ b, (stepping.span 0).batch = some b ∧ b.rows.length = 2 ∧ ∃ r, b.rows[1]? = some r) ∧ stepping.abandoned 0 = false ∧
      (stepping.span 0).faults = []) ∧
    ((∃ c, stepping.runningCopy 0 = some c ∧ 1 < c.hdr.layers) ∧ (stepping.span 0).appended.contains (1, 1) = false ∧
      (stepping.span 0).appended.contains (0, 1) = false ∧
      ((stepping.modSpan 0 fun x => { x with appended := [(0, 1)] }).span 0).appended.contains (0, 1) = true) := by
  refine ⟨by decide +kernel, ⟨⟨_, rfl⟩, by decide +kernel⟩, ⟨⟨_, rfl, by decide +kernel, _, rfl⟩, by decide +kernel, by decide +kernel⟩,
    ⟨_, rfl, by decide +kernel⟩, by decide +kernel⟩

/-- The packet of role `r`, object 9 and tile `t`. -/
def isPacket (r t : Nat) (h : RelayHdr) : Bool := h.role == r && h.obj == 9 && h.tile == t

theorem hyp_StepsRunAtTheirBoundaries_2 :
    ((SMap.get [] stepping.kv.misses 0).take 64).contains (stepping.labLine 0 0 0) = true ∧
    (∃ i j h, stepping.relayOwner 0 (isPacket noRole 0) = some (i, j, none, h)) ∧
    (∃ i j h, stepping.relayOwner 0 (isPacket 0 0) = some (i, j, some 0, h) ∧ h.role = 0) ∧
    (∃ i j h, passing.relayOwner 0 (isPacket 1 0) = some (i, j, some 0, h) ∧ h.role ≠ 0 ∧
      0 + 1 < ((passing.span 0).building.map (·.hdr.roles)).getD 0) ∧
    ((stepping.leaving.find? fun e => e.1 == 4095) = none ∧ (stepping.slot 4095).par.cls = 1 ∧ (stepping.slot 4095).st ≠ 0 ∧
      ∃ d, (stepping.slot 4095).releaseDue = some d ∧ d / 65536 ≤ stepping.periods) ∧
    (∃ k x d, (stepping.leaving.find? fun e => e.1 == 5) = some (k, x) ∧ x.releaseDue = some d ∧ d / 65536 ≤ stepping.periods) := by
  refine ⟨by decide +kernel, ⟨_, _, _, rfl⟩, ⟨_, _, _, rfl, by decide +kernel⟩, ⟨_, _, _, rfl, by decide +kernel, by decide +kernel⟩,
    ⟨by decide +kernel, by decide +kernel, by decide +kernel, 65536, by decide +kernel, by decide +kernel⟩,
    ⟨_, _, 65536, rfl, by decide +kernel, by decide +kernel⟩⟩

/-- Requests of port 0 under tags 7 (WAITING, its prompt complete) and 8 (PENDING) after 65,535 periods; slot 4095 is PARKED; die 5 has
not returned the epoch. -/
def waitingOn : State :=
  ((({ served with reqs := [{ reqA with kind := 0, ended := true }, { reqA with who := { port := 0, tag := 8 }, st := 1 }] } : State).wr
    Fld.cadNow_period 65535).modSlot 4095 fun x => { x with st := slParked }).wr Fld.keyDie_epoch 7 0 5

theorem hyp_WaitsOfRequestsAndJobsEnd :
    waitingOn.reqs.find? (fun r => r.who.port == 0 && r.who.tag == (7 : BitVec 16).toNat && r.st == 0 && r.ended && r.kind == 0) =
      some { reqA with kind := 0, ended := true } ∧
    (∃ r, waitingOn.reqByTag 0 (8 : BitVec 16).toNat = some r ∧ r.st = 1 ∧ (r.pendAt + max 1 r.par.admWait * 65536) / 65536 ≤ waitingOn.periods) ∧
    ((waitingOn.slot 4095).st = slParked ∧ (waitingOn.slot 4095).endDue = false ∧
      ((waitingOn.slot 4095).parkedAt + (if (waitingOn.slot 4095).par.parkLimit = 0 then 65535 else (waitingOn.slot 4095).par.parkLimit) * 65536) /
        65536 ≤ waitingOn.periods) ∧
    (waitingOn.dieServing 5 = true ∧ waitingOn.rd Fld.keyDie_epoch 0 5 ≠ waitingOn.rd Fld.srvCfgEpoch_epoch) ∧
    ((operating.op 63).live = true ∧ (operating.op 63).job = .train jobA ∧ (operating.op 63).st = 0 ∧
      (operating.span (operating.op 63).span).faults = []) := by
  refine ⟨by decide +kernel, ⟨_, rfl, by decide +kernel, by decide +kernel⟩, by decide +kernel, by decide +kernel, by decide +kernel⟩

/-! ### Cadence, power, resets, boot -/

/-- The cadence unit is locked to the cadence input since time 0 at 1 ms. -/
def lockedOn : State := ((up.wr Fld.cadStatus_state 1).wr Fld.cadPeriod_measNs 1000000).wr Fld.cadStatus_source 0

theorem hyp_CadenceFollowsItsTable :
    (lockedOn.cadState = 1 ∧ lockedOn.rd Fld.cadStatus_source = 0 ∧ (lockedOn.after 1062500).inWindow = true ∧
      (lockedOn.after 1062501).inWindow = false ∧ (lockedOn.after 937500).inWindow = true ∧ (lockedOn.after 937499).inWindow = false ∧
      lockedOn.flag Fld.cadStatus_aligning = false) ∧
    ((lockedOn.wr Fld.cadStatus_source 1).rd Fld.cadStatus_source = 1 ∧ lockedOn.cad.ptmFailed = false) ∧
    (let s := (lockedOn.wr Fld.cadStatus_state 0).modCad fun c => { c with tries := 16 }; s.cadState = 0 ∧ 16 ≤ s.cad.tries) ∧
    (let s := (lockedOn.wr Fld.cadStatus_state 2).modCad fun c => { c with held := 65535 }
     s.cadState = 2 ∧ s.rd Fld.cadCtrl_holdMax ≤ s.cad.held) := by decide +kernel

/-- GUST is allowed and its credit stands above half a second. -/
def gusty : State := (up.wr Fld.pwrProfile_gust 1).wr Fld.pwrGust_creditMs 1000

theorem hyp_PowerAndHeatAreManaged :
    (gusty.rd Fld.pwrStatus_state = 0 ∧ gusty.running = true ∧ gusty.gustOk = true ∧ gusty.flag Fld.pwrStatus_throttling = false) ∧
    (gusty.wr Fld.pwrStatus_state 3).inGust = true ∧
    (∀ e ∈ [((0 : Int), false, false), (16 * (up.rd Fld.keyTherm_throttle : Int), false, true), (16 * (up.rd Fld.keyTherm_trip : Int), true, true)],
      (let t := (forEach (([e.1] : List Int).take 64).zipIdx (fun e (t : State) => t.sense e.2 e.1) up).setHottest
       decide (16 * (t.rd Fld.keyTherm_trip : Int) ≤ t.hottest) = e.2.1 ∧ decide (16 * (t.rd Fld.keyTherm_throttle : Int) ≤ t.hottest) = e.2.2 ∧
       t.key.inReset = none ∧ t.active = true ∧ t.running = true ∧ t.flag Fld.pwrStatus_throttling = false)) ∧
    (let s := (up.wr Fld.pwrStatus_throttling 1).wr Fld.pwrTherm_temp (16 * up.rd Fld.keyTherm_throttle)
     s.flag Fld.pwrStatus_throttling = true ∧ 16 * (s.rd Fld.keyTherm_throttle : Int) ≤ s.hottest) := by decide +kernel

theorem hyp_SagsAndSleepTakeEffect :
    (up.flag Fld.pwrStatus_sagClamp = false ∧ up.key.inReset = none) ∧
    (let s := up.wr Fld.pwrStatus_sagClamp 1
     s.flag Fld.pwrStatus_sagClamp = true ∧ s.pwr.seatOpen = false ∧ s.rd Fld.keySag_warn * 100 + 200 < s.rd Fld.keySag_warn * 100 + 201) ∧
    (up.wr Fld.pwrLullDelay_ms 1).mayLull = true ∧ (up.wr Fld.pwrStatus_state 1).lull = true := by decide +kernel

/-- The watchdog runs and its last counted feed was 5. -/
def fed : State := up.modPwr fun x => { x with fed := some 5, wdogAt := some 0 }

theorem hyp_FatalFaultsAndResets :
    (isSteward (0x17 : Ident).toNat = true ∧ isSteward (0x01 : Ident).toNat = false ∧ fed.pwr.fed = some (5 : BitVec 32).toNat ∧
      fed.pwr.fed ≠ some (6 : BitVec 32).toNat ∧ fed.pwr.wdogAt = some 0 ∧ fed.key.inReset = none ∧ fed.running = true ∧ fed.pwr.seatOpen = false) ∧
    (let t := ((fed.requestReset .watchdog).cutAll).after 1100000; t.key.inReset = some .watchdog ∧ t.mayRelease .watchdog = true) := by
  decide +kernel

/-- A boot that finds nothing amiss on the dies, without and with good shipped firmware. -/
def clean (l : List Shipped) (b : Bool) : BootEnv :=
  { ms := 1000, linksBad := [], spareLanes := [], dieLevels := [], dieKinds := [], dieRevs := [], deafDies := [], badChannels := [], arrayFails := [],
    memFails := [], meshBad := false, badCopies := [], intactRows := [], badUnits := [], boots := b, refCount := 0, badRecords := [], shipped := l }
/-- Shipped firmware that verifies. -/
def goodFw : Shipped := { good := true, version := 1, svn := 1, levels := [] }

theorem hyp_BootBringsService :
    State.reset.awaitsBoot = true ∧
    (∀ e ∈ [(([] : List Shipped), (none : Option Nat)), ([goodFw, goodFw], some 0)],
      (((State.reset.bootKeystone (clean e.1 true)).modPwr fun x => { x with wdogAt := some State.reset.now }).showFw (clean e.1 true)).fwChoice
        (clean e.1 true) = e.2) ∧
    ((clean [goodFw] true).boots = true ∧ (clean [goodFw] false).boots = false) ∧
    (up.running = true ∧ up.linkBusy.contains (6 : Fin 7).val = false ∧ ({ up with linkBusy := [6] } : State).linkBusy.contains (6 : Fin 7).val = true) := by
  decide +kernel

theorem hyp_ManagementBusAndJtagAnswer :
    ((1 : Nat) ≤ 1 ∧ (1 : Byte) ≠ 0 ∧ (1 : Byte) ≠ 0xFF) ∧ ((1 : Nat) < 2 ∨ (0 : Byte) = 0 ∨ (0xFF : Byte) = 0xFF) ∧
    ((0x7F : Byte) = 0xFF ∨ (0x7F : Byte) = 0x00 ∨ (0x7F : Byte) = 0x7F) ∧ ((0x7E : Byte) ≠ 0xFF ∧ (0x7E : Byte) ≠ 0x00 ∧ (0x7E : Byte) ≠ 0x7F) ∧
    (1 : Byte) ≠ 0 := by decide

/-! ### Worked examples of the spec, and single commands

The expected values of this section are the spec's own examples, or follow from the cited rule by hand. -/

/-- The command that P1 posts in the example of R396. -/
theorem test_cancel_packet :
    (packet 0x22 0x0513 0x000002FF00030028 []).hdr0 = 0x0000000005130022 ∧ (packet 0x22 0x0513 0x000002FF00030028 []).target = 40 ∧
    (packet 0x22 0x0513 0x000002FF00030028 []).gen = 3 ∧ (packet 0x22 0x0513 0x000002FF00030028 []).span = 0xFF ∧
    (packet 0x22 0x0513 0x000002FF00030028 []).cls = 2 := by decide +kernel

/-- Trits +1, 0, −1, −1, +1 are byte 0xA7 (R39). -/
theorem test_ternary_byte : trits 0xA7 = [2, 1, 0, 0, 2] := by decide +kernel

/-- The E4M3 elements of the example block of 02: 4.0, −3.0, 2.5, 1.125, −6.5, 0.5, 0, −0.875. -/
def gustSource : List Nat := [0x48, 0xC4, 0x42, 0x39, 0xCD, 0x30, 0x00, 0xB6] ++ List.replicate 24 0
/-- Its bytes, as the example lists them. -/
def gustBlock : List Byte := [0x09, 0x92, 0, 0, 0, 0x94, 0xFC] ++ List.replicate 6 0xFF ++ [0xA0, 0x52] ++ zeros 10
theorem test_gust_encode : gustEncode 3 gustSource = gustBlock := by decide +kernel
theorem test_gust_decode :
    gustDecode 3 gustBlock = ([0x48, 0xC4, 0x42, 0x39, 0xCD, 0x00, 0x00, 0x80] ++ List.replicate 24 0, false) := by decide +kernel

/-- The strided view of the example of 04: lines 0 to 5 of handle 10, and its last line. -/
theorem test_strided_view :
    handleOk 0x000000800400B011 0x0000007800010002 = true ∧
    ((List.range 6).map fun l => (viewOf 0x000000800400B011 0x0000007800010002).byteOf (64 * l) / 64) = [1024, 1025, 1144, 1145, 1264, 1265] ∧
    (viewOf 0x000000800400B011 0x0000007800010002).byteOf (64 * 127) / 64 = 8585 := by decide +kernel

/-- Page 200 is an upper page whose partner is page 197 (R215). -/
theorem test_page_pairs : upperPage 200 = true ∧ partner 200 = 197 ∧ upperPage 197 = false ∧ partner 511 = 509 := by decide

/-- The journal record of the example of 07: F0, CUT, row 41, page 200, sequence number 0x2F12 (R217). -/
theorem test_journal_record :
    (recBytes 0 { type := 4, row := 41, page := 200, seq := 0x2F12, planes := 0 }).take 6 = [0x04, 0x52, 0x20, 0x03, 0x12, 0x2F] := by
  decide +kernel

/-- CRC-16/CCITT-FALSE of "123456789" is 0x29B1, the check value of that code (R217). -/
theorem test_crc16 : crc16 [0x31, 0x32, 0x33, 0x34, 0x35, 0x36, 0x37, 0x38, 0x39] = 0x29B1 := by decide +kernel

/-- Byte 0 of the second 16 KiB lies on die 1, and 2 MiB on, page 1 begins (R188). -/
theorem test_flash_address : flashAddr 16384 = ⟨1, 0, 0, 0, 0⟩ ∧ flashAddr (2 ^ 21) = ⟨0, 0, 0, 1, 0⟩ ∧ flashAddr (2 ^ 30 + 5) = ⟨0, 0, 1, 0, 5⟩ := by decide

/-- The FINAL reply of an ECHO: kind 0x03, status 0x00, its tag, 8 body bytes, which it returns (R397). -/
theorem test_echo_reply :
    ((after (.echo 0 goodEcho) up).queue 0 1).head.map (fun e => e.2.bytes.take 8 ++ e.2.bytes.drop 16) =
      [[0x03, 0x00, 0x07, 0x00, 0x08, 0x00, 0x00, 0x00] ++ [1, 2, 3, 4, 5, 6, 7, 8]] := by decide +kernel
/-- The same ECHO while steward firmware does not run posts nothing. -/
theorem test_echo_without_firmware : ((after (.echo 0 goodEcho) (up.modKey fun k => { k with running := false })).queue 0 1).head = [] := by decide +kernel
/-- An undefined flag is refused with status 0x20 (R393, R392). -/
theorem test_echo_bad_flag :
    ((after (.echo 0 badEcho) up).queue 0 1).head.map (fun e => (byteAt e.2.bytes 0, byteAt e.2.bytes 1)) = [(3, 0x20)] := by decide +kernel
/-- A load without the model-load permission is refused with status 0x41 (R402). -/
theorem test_load_permission :
    ((after (.modelLoad 0 (packet 0x10 1 (spanHdr 0) (zeros 8))) (conf.setReg .keyPerm 0 0 0)).queue 0 1).head.map (fun e => byteAt e.2.bytes 1) =
      [0x41] := by decide +kernel
/-- REQ_CREATE with MORE makes one WAITING request under its tag (R254, R404). -/
theorem test_create_waits : (after (.reqCreate 0 (createPkt 0 0 2)) served).reqs.map (fun r => (r.who.tag, r.st, r.span)) = [(7, 0, 0)] := by
  decide +kernel

/-- A NOP moves the pc by 32 bytes (R74, R87); STOP halts. -/
theorem test_nop : (after (.nop 0) cell0).rd Fld.celPc_offset 0 = cell0.rd Fld.celPc_offset 0 + 32 := by decide +kernel
theorem test_stop : (after (.stop 0) cell0).flag Fld.celStatus_running 0 = false ∧ (after (.stop 0) cell0).flag Fld.celStatus_halted 0 = true := by
  decide +kernel
/-- SIGNAL adds to the counter; RESET clears the counter and sets the target; REARM subtracts the target (R144, R145). -/
theorem test_signal : (after (.signal 0 ⟨(latchWord 57344 5), false⟩) latched).counter 57344 = 8 := by decide +kernel
theorem test_reset : (after (.reset 0 ⟨(latchWord 57344 9), false⟩) latched).counter 57344 = 0 ∧
    (after (.reset 0 ⟨(latchWord 57344 9), false⟩) latched).target 57344 = 9 := by
  decide +kernel
/-- Of one cycle's operations on a latch the RESET of the highest identity stands, then the SIGNALs add, then the REARM subtracts (R146). -/
theorem test_latch_cycle : (joinedOps.settleLatch 65535).counter 65535 = 2 ∧ (joinedOps.settleLatch 65535).target 65535 = 5 := by decide +kernel
theorem test_rearm : (after (.rearm 0 ⟨(latchWord 57344 0), false⟩) (latched.setLatch 57344 7 3)).counter 57344 = 4 := by decide +kernel
/-- A wait on a latch below its target leaves the cell waiting; one on a latch of the Abutment die that is met is notified (R147, R148). -/
theorem test_wait : (after (.wait 0 ⟨(latchWord 1023 0), false⟩) latched).flag Fld.celStatus_waiting 0 = true ∧
    ((after (.wait 0 ⟨(latchWord 57344 0), false⟩) latched).cell 0).waits = [⟨57344, .seq, .notified⟩] := by decide +kernel
theorem test_notification :
    (after (.waitNotification ⟨0, 0⟩) (after (.wait 0 ⟨(latchWord 57344 0), false⟩) latched)).flag Fld.celStatus_waiting 0 = false := by decide +kernel
/-- An instruction on a latch outside the span's range halts the cell before it (R77, R78). -/
theorem test_foreign_latch :
    (after (.signal 0 ⟨(latchWord 60000 1), false⟩) latched).flag Fld.celFlags_illegal 0 = true ∧
    (after (.signal 0 ⟨(latchWord 60000 1), false⟩) latched).rd Fld.celPc_offset 0 = latched.rd Fld.celPc_offset 0 := by decide +kernel

/-- A sent message fills the box, names its sender and rings the receiver (R420, R421); a second one finds it full. -/
theorem test_mail : ((after (.mbxSend 0x10 0) up).box 0).full = true ∧ ((after (.mbxSend 0x10 0) up).box 0).sender = 0x10 := by decide +kernel
theorem test_mail_full :
    ((after (.mbxSend 0x11 0) (after (.mbxSend 0x10 0) up)).box 0).sender = 0x10 := by decide +kernel
/-- A free lock goes to its reader; a release by another party changes nothing (R424, R425). -/
theorem test_lock : (after (.mbxLockRead 0x10 31) up).lockOwner 31 = 0x10 ∧ (after (.mbxLockRelease 0x11 0 0x11) mailed).lockOwner 0 = 0x10 := by
  decide +kernel

/-- A consume frees the slot of its number only (R437). -/
theorem test_consume : ((after (.queConsume 0 17 1) heads).queue 0 17).head = [] ∧ ((after (.queConsume 0 17 2) heads).queue 0 17).head.length = 1 := by
  decide +kernel
/-- A head fill puts the first entry outside the head into a free slot (R435). -/
theorem test_head_fill : ((after (.headFill 0 17 .clean) heads).queue 0 17).head.length = 2 ∧ ((after (.headFill 0 17 .clean) heads).queue 0 17).outside = [] := by
  decide +kernel

/-- A misaligned access only sets bad_access (R383). -/
theorem test_bad_access : (after (.badAccess 0 true) up).flag Fld.hptStatus_badAccess 0 = true := by decide +kernel
/-- A parked turn ends when its park limit has passed: ENDING with reason 10 (R257). -/
theorem test_park_expiry : ((after (.parkLimitExpiry 4095) waitingOn).slot 4095).endReason = 10 := by decide +kernel
/-- The cadence unit enters HOLDOVER from LOCKED (R294). -/
theorem test_holdover : (after .holdoverEntry lockedOn).rd Fld.cadStatus_state = 2 := by decide +kernel
/-- SAG_WARN holds the flash and clamps the clock to 400 MHz (R462). -/
theorem test_sag : (after (.sagWarn 10100) up).flag Fld.flcStatus_sagHold = true ∧ (after (.sagWarn 10100) up).rd Fld.pwrProfile_clock = 40 := by
  decide +kernel
/-- An erase that verifies leaves the block erased; the row reads 0xFF again (R208). -/
theorem test_erase :
    (let s := planeIn { st := .erasing, ers := some 10 }
     let t := after (.eraseVerifyPass 0 ⟨0, 10⟩) (s.pageWrite 0 0 (s.physOf 0 0 3) 0 [0x12])
     t.pageRead 0 0 (t.physOf 0 0 3) 0 0 1 = [0xFF] ∧ t.flashOp 10 = none) := by decide +kernel
/-- A steward's feed restarts the watchdog only when its value is new (R471). -/
theorem test_feed : (after (.watchdogFeed 0x10 6) fed).pwr.fed = some 6 ∧ (after (.watchdogFeed 0x01 6) fed).pwr.fed = some 5 := by decide +kernel
/-- The watchdog's expiry requests a reset with its own cause (R475, R491). -/
theorem test_watchdog : (after .watchdogExpiry fed).key.inReset = some .watchdog := by decide +kernel
/-- IDCODE shifts out 0x1864005D, its least significant bit first (R519). -/
theorem test_idcode : ((after .idcode up).mgmt.tdo.take 8) = [true, false, true, true, true, false, true, false] := by decide +kernel
/-- The module takes the identifier that Set Endpoint ID assigns. -/
theorem test_eid : (after (.setEndpointId 0 0x21) up).mgmt.eid = 0x21 ∧ (after (.setEndpointId 0 0xFF) up).mgmt.eid = up.mgmt.eid := by decide +kernel
/-- The reset state holds an empty queue, and a step there only moves time. -/
theorem test_idle : State.reset.pending = [] ∧ (match step State.reset with | .next t => t.now | _ => 0) = State.reset.now + 10 := by decide +kernel

end Sys2Proof.Tests
end

section
/-!
PROOFS. The registers as such: masks over words, the access codes, accesses by host and from inside, and the statements about them.
-/
namespace Sys2Proof.Machine

/-! ### Masks over numbers: sums and differences bit by bit -/

/-- Numbers without a common bit add without carries. -/
theorem add_eq_or_of_and_eq_zero {x y : Nat} (h : x &&& y = 0) : x + y = x ||| y := by
  have hx : x < 2 ^ (x + y) := Nat.lt_of_le_of_lt (Nat.le_add_right x y) Nat.lt_two_pow_self
  have hy : y < 2 ^ (x + y) := Nat.lt_of_le_of_lt (Nat.le_add_left y x) Nat.lt_two_pow_self
  have hsum : x + y < 2 ^ (x + y) := Nat.lt_two_pow_self
  have hbv := BitVec.add_eq_or_of_and_eq_zero (BitVec.ofNatLT x hx) (BitVec.ofNatLT y hy) (BitVec.eq_of_toNat_eq (by simpa using h))
  simpa [Nat.mod_eq_of_lt hsum] using congrArg BitVec.toNat hbv

/-- `a - (a &&& m)` is `a` without the bits of `m`. -/
theorem sub_and_eq_ldiff (a m : Nat) : a - (a &&& m) = Nat.ldiff a m := by
  have hdisj : Nat.ldiff a m &&& (a &&& m) = 0 :=
    Nat.eq_of_testBit_eq fun i => by
      rw [Nat.testBit_and, Nat.testBit_and, Nat.testBit_ldiff, Nat.zero_testBit]; cases m.testBit i <;> simp
  have hsplit : Nat.ldiff a m ||| (a &&& m) = a :=
    Nat.eq_of_testBit_eq fun i => by
      rw [Nat.testBit_or, Nat.testBit_and, Nat.testBit_ldiff]; cases m.testBit i <;> simp
  have hsum := (add_eq_or_of_and_eq_zero hdisj).trans hsplit
  omega

theorem testBit_sub_and (a m i : Nat) : (a - (a &&& m)).testBit i = (a.testBit i && !m.testBit i) := by
  rw [sub_and_eq_ldiff, Nat.testBit_ldiff]

theorem testBit_blend (a b m i : Nat) : (blend a b m).testBit i = if m.testBit i then b.testBit i else a.testBit i := by
  have hdisj : (a - (a &&& m)) &&& (b &&& m) = 0 :=
    Nat.eq_of_testBit_eq fun j => by
      rw [Nat.testBit_and, testBit_sub_and, Nat.testBit_and, Nat.zero_testBit]; cases m.testBit j <;> simp
  rw [blend, add_eq_or_of_and_eq_zero hdisj, Nat.testBit_or, testBit_sub_and, Nat.testBit_and]
  cases m.testBit i <;> simp

/-! ### The access codes (R6, R8) -/

/-- No bit of a register bears two of the codes RW, W1C and W1S. -/
theorem writeMasks_disjoint (r : Reg) :
    fieldMask r.fields (· == .rw) &&& fieldMask r.fields (· == .w1c) = 0 ∧
    fieldMask r.fields (· == .w1c) &&& fieldMask r.fields (· == .w1s) = 0 := by
  cases r <;> decide

theorem testBit_of_and_eq_zero {x y : Nat} (h : x &&& y = 0) (i : Nat) : (x.testBit i && y.testBit i) = false := by
  rw [← Nat.testBit_and, h, Nat.zero_testBit]

/-- A bit of a register's word after a write, by its code. -/
theorem testBit_written (r : Reg) (old v be i : Nat) :
    (r.written old v be).testBit i =
      if be.testBit i && (fieldMask r.fields (· == .rw)).testBit i then v.testBit i
      else if be.testBit i && (fieldMask r.fields (· == .w1c)).testBit i then old.testBit i && !v.testBit i
      else if be.testBit i && (fieldMask r.fields (· == .w1s)).testBit i then old.testBit i || v.testBit i
      else old.testBit i := by
  obtain ⟨hrw, hw1s⟩ := writeMasks_disjoint r
  replace hrw := testBit_of_and_eq_zero hrw i
  replace hw1s := testBit_of_and_eq_zero hw1s i
  simp only [Reg.written, Nat.testBit_or, testBit_sub_and, testBit_blend, Nat.testBit_and]
  cases be.testBit i
  case false => simp
  case true =>
    cases hc : (fieldMask r.fields (· == .w1c)).testBit i
    case false => cases (fieldMask r.fields (· == .rw)).testBit i <;> cases (fieldMask r.fields (· == .w1s)).testBit i <;> simp
    case true =>
      rw [hc, Bool.and_true] at hrw
      rw [hc, Bool.true_and] at hw1s
      simp [hrw, hw1s]

/-! ### Where an access lies in its slot (R383, R524) -/

/-- The bit of its 8-byte slot at which an access begins. -/
def lane (off size : Nat) : Nat := if size = 4 ∧ off % 8 = 4 then 32 else 0

theorem aligned_cases {off size : Nat} (h : aligned off size = true) :
    (size = 4 ∧ (off % 8 = 0 ∨ off % 8 = 4)) ∨ (size = 8 ∧ off % 8 = 0) := by
  simp only [aligned, Bool.or_eq_true, Bool.and_eq_true, beq_iff_eq] at h
  omega

theorem placed_eq_shiftLeft {off size : Nat} (h : aligned off size = true) (v : Nat) :
    placed off size v = (v % 2 ^ (8 * size)) <<< lane off size := by
  obtain ⟨rfl, ho⟩ | ⟨rfl, ho⟩ := aligned_cases h
  · simp [placed, lane]
  · simp [placed, lane]

/-- A written value loses the W1C bits of its register on which an event falls. -/
theorem unmet_eq {w off : Nat} {h : Hit} (hoff : off < 2 ^ 24) (hr : regAt (if isPort w then w - 1 else 4) off = some h) (size v meets : Nat) :
    State.unmet w off size v meets = v - (v &&& (meets &&& fieldMask h.reg.fields (· == .w1c)) >>> lane off size) := by
  simp only [State.unmet, if_pos hoff, hr, lane]

/-- The bits that a write places in its slot: those of the value, without the W1C bits on which an event of the cycle falls (R8). -/
theorem testBit_placed_unmet {w off size : Nat} {h : Hit} (ha : aligned off size = true) (hoff : off < 2 ^ 24)
    (hr : regAt (if isPort w then w - 1 else 4) off = some h) (v meets i : Nat) :
    (placed off size (State.unmet w off size v meets)).testBit i =
      ((placed off size v).testBit i && !(meets.testBit i && (fieldMask h.reg.fields (· == .w1c)).testBit i)) := by
  rw [unmet_eq hoff hr, placed_eq_shiftLeft ha, placed_eq_shiftLeft ha]
  simp only [Nat.testBit_shiftLeft, Nat.testBit_mod_two_pow, testBit_sub_and, Nat.testBit_shiftRight, Nat.testBit_and]
  by_cases hi : lane off size ≤ i
  · rw [Nat.add_sub_cancel' hi, Bool.and_assoc, Bool.and_assoc]
  · simp [hi]

/-! ### Accesses from inside the device (R384, R525) -/

theorem exec_registerWrite (w : Ident) (off size : Nat) (d : RegData) (s : State) :
    exec (.registerWrite w off size d) s =
      .next (s.regWrite w.toNat off size (State.unmet w.toNat off size d.value.toNat d.meets.toNat)) := (rfl)

theorem exec_readClear (w : Ident) (off size : Nat) (s : State) :
    exec (.readClear w off size) s = .next (s.regRead w.toNat off size) := (rfl)

theorem isPort_of_inside {w : Ident} (hw : inside w) : isPort w.toNat = false := by
  simp only [inside, isSteward, isKeystone, Bool.or_eq_true, Bool.and_eq_true, decide_eq_true_eq, beq_iff_eq] at hw
  simp only [isPort, Bool.and_eq_false_iff, decide_eq_false_iff_not]
  omega

/-- The shared registers on which an access has an effect of its own. -/
def effectRegs : List Reg :=
  [.mbxLock, .mbxSend, .mbxTake, .mbxLockBreak, .flcClk, .flcWait, .flcOpGo, .pwrWdogFeed, .flcDone, .cadNow, .mbxDb, .mbxTaken, .mbxPerr]

theorem insideWrite_of_plain {h : Hit} (hs : h.reg.place.scope = .shared) (hn : h.reg ∉ effectRegs) (s : State) (w v be : Nat) :
    s.insideWrite w h v be = s.plainWrite h v be := by
  unfold State.insideWrite
  split <;> simp_all [effectRegs]

theorem readEffect_of_plain {h : Hit} (hs : h.reg.place.scope = .shared) (hn : h.reg ∉ effectRegs) (s : State) (w off size : Nat) :
    (s.readEffect w h off size).2 = s.readClears h (byteMask off size) := by
  unfold State.readEffect
  split <;> simp_all [effectRegs]

/-- A write from inside the device reaches the register of its slot. -/
theorem regWrite_inside {w : Ident} {off size : Nat} {h : Hit} (hw : inside w) (ha : aligned off size = true) (hoff : off < 2 ^ 24)
    (hk : inKeystone off = false) (hv : State.inViews off = false) (hr : regAt 4 off = some h) (s : State) (v : Nat) :
    s.regWrite w.toNat off size v = s.insideWrite w.toNat h (placed off size v) (byteMask off size) := by
  have hi : (isSteward w.toNat || isKeystone w.toNat) = true := hw
  rw [State.regWrite, if_neg (by simp [isPort_of_inside hw]), if_neg (Nat.not_le.mpr hoff)]
  simp [isPort_of_inside hw, ha, hk, hi, hr, hv]

/-- A read from inside the device has the effect of the register of its slot, the port blocks of no port excepted. -/
theorem regRead_inside {w : Ident} {off size : Nat} {h : Hit} (hw : inside w) (ha : aligned off size = true) (hoff : off < 2 ^ 24)
    (hr : regAt 4 off = some h) (hs : h.n < 4 ∨ h.reg.place.scope ≠ .port) (s : State) :
    s.regRead w.toNat off size = (s.readEffect w.toNat h off size).2 := by
  rw [State.regRead, if_neg (by simp [isPort_of_inside hw]), if_neg (by simp [ha]; omega)]
  simp [hr, hs]

/-! ### Host writes (R384) -/

@[simp] theorem isPort_portIdent (p : PortId) : isPort (portIdent p) = true := by
  have hp : (p : Nat) < 4 := p.isLt
  have hle : 1 + (p : Nat) ≤ 4 := by omega
  simp [isPort, portIdent, hle]

@[simp] theorem portIdent_sub_one (p : Nat) : portIdent p - 1 = p := by simp [portIdent]

/-- A host's write to BAR0 through its open window. -/
theorem regWrite_host {p : PortId} {off : Nat} {s : State} (hb : s.barOpen p = true) (hoff : off < 2 ^ 24) (size v : Nat) :
    s.regWrite (portIdent p) off size v = s.hostWrite p off size v := by
  rw [State.regWrite, if_neg (by simp [hb]), if_neg (Nat.not_le.mpr hoff), if_pos (isPort_portIdent p),
    portIdent_sub_one]

/-- A host's write to a view, or to a register of no block of its own, is dropped and counted. -/
theorem hostWrite_denied {p off size : Nat} {h : Hit} (ha : aligned off size = true) (hm : State.inMsix off = false)
    (hk : inKeystone off = false) (hr : regAt p off = some h) (hd : State.inViews off = true ∨ State.hostWrites h.reg = false) (s : State)
    (v : Nat) : s.hostWrite p off size v = s.hostDeny (portIdent p) := by
  have hd : (State.inViews off || !State.hostWrites h.reg) = true := by simpa using hd
  simp [State.hostWrite, ha, hm, hk, hr, hd]

/-! ### Everything beside the registers -/

/-- A field write changes nothing but the table of registers. -/
theorem State.wr_frame (s : State) (f : FieldRef) (v n i : Nat) : { s.wr f v n i with regs := s.regs } = s := (rfl)

/-! ### The statements -/

/-- Settles O9: the four parts are the rules of `wr` on the field, on the rest of its register, on other registers, and on the rest of the
machine. -/
theorem fieldWriteReadsBack : Obligations.FieldWriteReadsBack := by
  intro s f v n i hle hlt
  refine ⟨State.rd_wr_same s f v n i hle hlt, fun hi lo hd h64 => ?_, fun r m j hk => ?_, State.wr_frame s f v n i⟩
  · rw [State.wr, State.reg_setReg_same, bits_setBits_other _ _ _ _ _ _ hle hd h64]
  · rw [State.wr, State.reg_setReg_other _ _ hk]

/-- Settles O29: both ways of access from inside come down to the access codes outside `effectRegs`, a host's denied write to `hostDeny`, and a
written word is read bit by bit. -/
theorem registerWritesFollowTheCodes : Obligations.RegisterWritesFollowTheCodes := by
  refine ⟨?_, ?_, fun r old v be _ _ _ i _ => testBit_written r old v be i⟩
  · intro w off size v meets h s hw ha hoff hk hv hr hs hn
    refine ⟨?_, fun i _ => ?_, ?_⟩
    · rw [exec_registerWrite, regWrite_inside hw ha hoff hk hv hr, insideWrite_of_plain hs hn]
    · exact testBit_placed_unmet ha hoff (by simpa [isPort_of_inside hw] using hr) _ _ i
    · rw [exec_readClear, regRead_inside hw ha hoff hr (.inr (by simp [hs])), readEffect_of_plain hs hn]
  · intro p w off size v meets h s hw hb hoff ha hm hk hr hd
    rw [exec_registerWrite, hw, regWrite_host hb hoff, hostWrite_denied ha hm hk hr hd]

/-- Settles O8: the table of registers and every other table of the reset state are empty, so each entry reads as its default. -/
theorem resetStateReadsResetValues : Obligations.ResetStateReadsResetValues :=
  ⟨fun _ _ _ => rfl, rfl, rfl, fun _ _ => rfl, fun _ => rfl, fun _ => rfl, fun _ => rfl, fun _ => rfl, fun _ => rfl⟩

end Sys2Proof.Machine
end

section
/-!
PROOFS. The latches: where each lies among the registers, what a latch that is set reads, and what it leaves of the others.
-/
namespace Sys2Proof.Machine

/-! ### The address of a latch (R21) -/

/-- Address of the register that holds latch `l`. -/
def latchKey (l : Nat) : Nat := (State.latchPlace l).1.key (State.latchPlace l).2.1 (State.latchPlace l).2.2

theorem latchKey_of_cell {l : Nat} (h : l < 57344) : latchKey l = 0x108000 + l / 1024 * 0x10000 + l % 1024 * 8 := by
  simp only [latchKey, State.latchPlace, if_pos h, Reg.key, Reg.place]
  omega

theorem latchKey_of_abutment {l : Nat} (h : 57344 ≤ l) : latchKey l = 0xC0000 + (l - 57344) * 8 := by
  simp only [latchKey, State.latchPlace, if_neg (Nat.not_lt.mpr h), Reg.key, Reg.place]
  omega

/-- Different latches have different registers: those of a cell lie within its block, those of the Abutment die below every cell block. -/
theorem latchKey_inj {k l : Nat} (hk : k < 65536) (hl : l < 65536) (h : latchKey k = latchKey l) : k = l := by
  obtain hkc | hka := Nat.lt_or_ge k 57344 <;> obtain hlc | hla := Nat.lt_or_ge l 57344
  · rw [latchKey_of_cell hkc, latchKey_of_cell hlc] at h
    omega
  · rw [latchKey_of_cell hkc, latchKey_of_abutment hla] at h
    omega
  · rw [latchKey_of_abutment hka, latchKey_of_cell hlc] at h
    omega
  · rw [latchKey_of_abutment hka, latchKey_of_abutment hla] at h
    omega

/-! ### A latch that is set (R144) -/

/-- The low half of a word made of two halves. -/
theorem bits_low_of_halves {c : Nat} (hc : c < 2 ^ 32) (t : Nat) : bits (BitVec.ofNat 64 (t * 2 ^ 32 + c)) 31 0 = c := by
  simp only [bits, nbits, BitVec.toNat_ofNat, Nat.shiftRight_zero]
  omega

/-- The high half of a word made of two halves. -/
theorem bits_high_of_halves {c t : Nat} (hc : c < 2 ^ 32) (ht : t < 2 ^ 32) : bits (BitVec.ofNat 64 (t * 2 ^ 32 + c)) 63 32 = t := by
  simp only [bits, nbits, BitVec.toNat_ofNat, Nat.shiftRight_eq_div_pow]
  omega

@[simp] theorem State.counter_setLatch_same (s : State) (l c t : Nat) : (s.setLatch l c t).counter l = c % 2 ^ 32 := by
  rw [State.counter, State.setLatch, State.reg_setReg_same, bits_low_of_halves (Nat.mod_lt _ (Nat.two_pow_pos _))]

@[simp] theorem State.target_setLatch_same (s : State) (l c t : Nat) : (s.setLatch l c t).target l = t % 2 ^ 32 := by
  rw [State.target, State.setLatch, State.reg_setReg_same,
    bits_high_of_halves (Nat.mod_lt _ (Nat.two_pow_pos _)) (Nat.mod_lt _ (Nat.two_pow_pos _))]

theorem State.counter_setLatch_other (s : State) {k l : Nat} (h : latchKey k ≠ latchKey l) (c t : Nat) :
    (s.setLatch l c t).counter k = s.counter k := by
  rw [State.counter, State.setLatch, State.reg_setReg_other _ _ h, State.counter]

theorem State.target_setLatch_other (s : State) {k l : Nat} (h : latchKey k ≠ latchKey l) (c t : Nat) :
    (s.setLatch l c t).target k = s.target k := by
  rw [State.target, State.setLatch, State.reg_setReg_other _ _ h, State.target]

/-! ### The statement -/

/-- Settles O41: a latch reads the two halves of the word it was set to, and other latches lie at other addresses. -/
theorem setLatchReadsBack : Obligations.SetLatchReadsBack := by
  intro s l k c t hl hk
  refine ⟨s.counter_setLatch_same l c t, s.target_setLatch_same l c t, fun hne => ?_⟩
  have hkey : latchKey k ≠ latchKey l := fun h => hne (latchKey_inj hk hl h)
  exact ⟨s.counter_setLatch_other hkey c t, s.target_setLatch_other hkey c t⟩

end Sys2Proof.Machine
end

section
/-!
PROOFS. The cell sequencer: what an instruction that it can issue does, how an illegal one halts it, and how streams and waits begin and end.
-/
namespace Sys2Proof.Machine

/-- The same next state is the same outcome. -/
theorem next_of_eq {t u : State} (h : t = u) : (Host.Outcome.next t : Out) = .next u := congrArg _ h

/-! ### Instructions of a sequencer that stands ready (R73, R76) -/

theorem exec_nop_ready {n : CellId} {s : State} (h : s.ready n) : exec (.nop n) s = .next (s.advance n) :=
  next_of_eq (issue_ready (fun s => s.advance n) h)

theorem exec_stop_ready {n : CellId} {s : State} (h : s.ready n) : exec (.stop n) s = .next ((s.advance n).halt n) :=
  next_of_eq (issue_ready (fun s => (s.advance n).halt n) h)

/-- A branch through a linear pool handle takes its stream and offset (R110). -/
theorem exec_branch_stream {n : CellId} {s : State} {hd : Nat} {v : View} (h : s.ready n) (hv : s.streamView n (hd % 64) = some v) (off : Nat) :
    exec (.branch n hd off) s = .next ((s.modCell n fun c => { c with stream := some v }).setReg .celPc n 0
      (BitVec.ofNat 64 (State.streamOff off * 256 + hd % 64))) :=
  next_of_eq ((issue_ready _ h).trans (by rw [hv]))

/-- A branch through any other handle is illegal (R110). -/
theorem exec_branch_illegal {n : CellId} {s : State} {hd : Nat} (h : s.ready n) (hv : s.streamView n (hd % 64) = none) (off : Nat) :
    exec (.branch n hd off) s = .next (s.illegal n (s.pc n) 0x06) :=
  next_of_eq ((issue_ready _ h).trans (by rw [hv]))

/-- The runs of its body that the counted loop at the sequencer's place has left (log entry 19). -/
def runsLeft (s : State) (n count : Nat) : Nat :=
  match (s.cell n).loops.find? fun e => e.1 == s.rd Fld.celPc_offset n with
  | some e => e.2
  | none => count - 1

/-- The counted loops of cell `n` at other places than the sequencer's. -/
def otherLoops (s : State) (n : Nat) : List (Nat × Nat) := (s.cell n).loops.filter fun e => !(e.1 == s.rd Fld.celPc_offset n)

theorem exec_countedLoop_ready {n : CellId} {s : State} (h : s.ready n) (start count : Nat) :
    exec (.countedLoop n start count) s = .next (
      if runsLeft s n count = 0 then (s.modCell n fun c => { c with loops := otherLoops s n }).advance n
      else (s.modCell n fun c => { c with loops := (s.rd Fld.celPc_offset n, runsLeft s n count - 1) :: otherLoops s n }).wr
        Fld.celPc_offset (State.streamOff start) n) := by
  refine (next_of_eq (issue_ready _ h)).trans ?_
  simp only [State.modCell_modCell]
  rfl

/-- Settles O38: each instruction by what it does to a sequencer that stands ready. -/
theorem controlInstructionsMoveTheSequencer : Obligations.ControlInstructionsMoveTheSequencer := by
  intro n s h
  refine ⟨exec_nop_ready h, exec_stop_ready h, fun hd off v hv => exec_branch_stream h hv off, fun hd off hv => exec_branch_illegal h hv off,
    fun start count => ⟨fun hl => ?_, fun hl => ?_⟩⟩
  · exact (exec_countedLoop_ready h start count).trans (congrArg _ (if_pos hl))
  · exact (exec_countedLoop_ready h start count).trans (congrArg _ (if_neg hl))

/-! ### Illegal instructions (R77, R78) -/

/-- The first illegal instruction is recorded (R78). -/
theorem recordIllegal_eq (s : State) (n : Nat) (pc : Word) (cause : Nat) :
    s.recordIllegal n pc cause =
      (if s.flag Fld.celFlags_illegal n then s else (s.setReg .celFaultPc n 0 pc).wr Fld.celFaultCause_cause cause n).wr
        Fld.celFlags_illegal 1 n := by
  rw [State.recordIllegal]
  cases s.flag Fld.celFlags_illegal n <;> rfl

/-- What an illegal instruction at `pc` leaves: the sequencer halted there, its flags, the first one recorded, and the notice to firmware. -/
theorem illegal_eq (s : State) (n : Nat) (pc : Word) (cause : Nat) :
    s.illegal n pc cause =
      (let t := if cause = 7 then s.wr Fld.celFlags_latchRange 1 n else s
       let t := if t.flag Fld.celFlags_illegal n then t else (t.setReg .celFaultPc n 0 pc).wr Fld.celFaultCause_cause cause n
       let t := (((t.wr Fld.celFlags_illegal 1 n).setReg .celPc n 0 pc).wr Fld.celStatus_running 0 n).wr Fld.celStatus_halted 1 n
       { t with notes := t.notes ++ [(1, n)] }) := by
  simp only [State.illegal, recordIllegal_eq, onlyIf, beq_iff_eq, State.halt, State.noteFw]

section
variable {n : Nat} {w : Inst256} {s : State} {noValue noZero : Bool}

theorem latchInst_reserved (h : s.ready n) (hop : reservedOp (bits w 7 0) = true) (f : Nat → Nat → State → State) :
    s.latchInst n w noValue noZero f = s.illegal n (s.pc n) 0x01 := by
  rw [State.latchInst, issue_ready _ h, if_pos hop]

theorem latchInst_reservedBits (h : s.ready n) (hop : reservedOp (bits w 7 0) = false) (hbad : bits w 15 8 ≠ 0 ∨ bits w 255 64 ≠ 0)
    (f : Nat → Nat → State → State) : s.latchInst n w noValue noZero f = s.illegal n (s.pc n) 0x02 := by
  rw [State.latchInst, issue_ready _ h, if_neg (by simp [hop]), if_pos (hbad.imp_right .inl)]

/-- The unused value of a WAIT or REARM is set. -/
theorem latchInst_unusedValue (h : s.ready n) (hop : reservedOp (bits w 7 0) = false) (hv : bits w 63 32 ≠ 0)
    (f : Nat → Nat → State → State) : s.latchInst n w true noZero f = s.illegal n (s.pc n) 0x02 := by
  rw [State.latchInst, issue_ready _ h, if_neg (by simp [hop]), if_pos (.inr (.inr (.inl ⟨rfl, hv⟩)))]

/-- The value of a SIGNAL is 0. -/
theorem latchInst_zeroValue (h : s.ready n) (hop : reservedOp (bits w 7 0) = false) (hv : bits w 63 32 = 0)
    (f : Nat → Nat → State → State) : s.latchInst n w noValue true f = s.illegal n (s.pc n) 0x02 := by
  rw [State.latchInst, issue_ready _ h, if_neg (by simp [hop]), if_pos (.inr (.inr (.inr ⟨rfl, hv⟩)))]

/-- The latch lies outside the ranges of the cell's span (R77). -/
theorem latchInst_foreign (h : s.ready n) (hop : reservedOp (bits w 7 0) = false) (hz : bits w 15 8 = 0) (hhi : bits w 255 64 = 0)
    (hval : noValue = true → bits w 63 32 = 0) (hnz : noZero = true → bits w 63 32 ≠ 0)
    (hown : s.ownsLatch (s.cellSpan n) (bits w 31 16) = false) (f : Nat → Nat → State → State) :
    s.latchInst n w noValue noZero f = s.illegal n (s.pc n) 0x07 := by
  rw [State.latchInst, issue_ready _ h, if_neg (by simp [hop]), if_neg (by simpa [hz, hhi] using ⟨hval, hnz⟩),
    if_pos (by simp [hown])]

end

/-- A reserved opcode in a matrix instruction is illegal (R73; log entry 62). -/
theorem exec_matrix_reserved {n : CellId} {w : Inst256} {s : State} (h : s.ready n) (hop : reservedOp (bits w 7 0) = true) (errs : ReadErrs) :
    exec (.matrixInstruction n ⟨w, errs⟩) s = .next (s.illegal n (s.pc n) 0x01) :=
  next_of_eq ((if_pos hop).trans (issue_ready _ h))

/-- With no reserved opcode, a matrix instruction is the array's (log entry 62). -/
theorem exec_matrix {n : CellId} {w : Inst256} (hop : reservedOp (bits w 7 0) = false) (errs : ReadErrs) (s : State) :
    exec (.matrixInstruction n ⟨w, errs⟩) s = .next (s.matrix n (Mx.withOp w 0x40) errs) :=
  next_of_eq (if_neg (by simp [hop]))

/-- A matrix instruction that a cause of R86 makes illegal. -/
theorem matrix_illegal {n cause : Nat} {m : Inst256} {s : State} (h : s.ready n) (hc : s.matrixCause n m false = some cause) (errs : ReadErrs) :
    s.matrix n m errs = s.illegal n (s.pc n) cause := by
  obtain ⟨hi, hd⟩ := h
  simp [State.matrix, hi, hd, hc]

theorem sidePath_reserved {n : Nat} {w : Inst256} {s : State} (h : s.ready n) (hop : reservedOp (bits w 7 0) = true) (errs : ReadErrs) :
    s.sidePath n w errs = s.illegal n (s.pc n) 0x01 := by
  rw [State.sidePath, issue_ready _ h, if_pos hop]

theorem sidePath_illegal {n cause : Nat} {w : Inst256} {s : State} (h : s.ready n) (hop : reservedOp (bits w 7 0) = false)
    (hc : s.matrixCause n (Mx.withOp w 0x41) true = some cause) (errs : ReadErrs) :
    s.sidePath n w errs = s.illegal n (s.pc n) cause := by
  rw [State.sidePath, issue_ready _ h, if_neg (by simp [hop])]
  simp only [hc]

theorem moveInst_reserved {n : Nat} {w : Inst256} {s : State} (h : s.ready n) (hop : reservedOp (bits w 7 0) = true) (errs : ReadErrs) :
    s.moveInst n w errs = s.illegal n (s.pc n) 0x01 := by
  rw [State.moveInst, issue_ready _ h, if_pos hop]

theorem moveInst_badWord {n : Nat} {w : Inst256} {s : State} (h : s.ready n) (hop : reservedOp (bits w 7 0) = false)
    (hbad : bits w 15 14 ≠ 0 ∨ bits w 255 40 ≠ 0 ∨ bits w 39 32 = 0 ∨ 64 < bits w 39 32) (errs : ReadErrs) :
    s.moveInst n w errs = s.illegal n (s.pc n) 0x02 := by
  rw [State.moveInst, issue_ready _ h, if_neg (by simp [hop]), if_pos hbad]

theorem vector_badRounding {n : Nat} {v : VectorInst} {s : State} (h : s.ready n) (hr : rndOf v.rnd = none) (errs : ReadErrs) :
    s.vector n v errs = s.illegal n (s.pc n) 0x02 := by
  rw [State.vector, issue_ready _ h]
  simp only [hr]

/-- Settles O42: each kind of illegal instruction comes down to `State.illegal` with its cause, which halts as `illegal_eq` says. -/
theorem illegalInstructionsHalt : Obligations.IllegalInstructionsHalt := by
  intro n w more errs s h halted known l v
  have halts : ∀ {c : Instr} {cause : Nat}, exec c s = .next (s.illegal n (s.pc n) cause) →
      exec c s = .next (halted cause) := fun he => he.trans (congrArg _ (illegal_eq s n _ _))
  refine ⟨fun hop => ?_, fun hop hbad => ?_, fun hop => ⟨fun hv => ?_, fun hv => ?_⟩, fun hop hz hhi hown => ?_, fun cause hop hc => ?_,
    fun cause hop hc => ?_, fun hop hbad => ?_, fun u hr => ?_⟩
  · exact ⟨halts (next_of_eq (latchInst_reserved h hop _)), halts (next_of_eq (latchInst_reserved h hop _)),
      halts (next_of_eq (latchInst_reserved h hop _)), halts (next_of_eq (latchInst_reserved h hop _)),
      halts (next_of_eq (moveInst_reserved h hop _)), halts (exec_matrix_reserved h hop _),
      halts (next_of_eq (sidePath_reserved h hop _))⟩
  · exact ⟨halts (next_of_eq (latchInst_reservedBits h hop hbad _)), halts (next_of_eq (latchInst_reservedBits h hop hbad _)),
      halts (next_of_eq (latchInst_reservedBits h hop hbad _)), halts (next_of_eq (latchInst_reservedBits h hop hbad _))⟩
  · exact halts (next_of_eq (latchInst_zeroValue h hop hv _))
  · exact ⟨halts (next_of_eq (latchInst_unusedValue h hop hv _)), halts (next_of_eq (latchInst_unusedValue h hop hv _))⟩
  · exact ⟨halts (next_of_eq (latchInst_foreign h hop hz hhi (by simp) (by simp) hown _)),
      fun hv => halts (next_of_eq (latchInst_foreign h hop hz hhi (by simp) (fun _ => hv) hown _)),
      fun hv => ⟨halts (next_of_eq (latchInst_foreign h hop hz hhi (fun _ => hv) (by simp) hown _)),
        halts (next_of_eq (latchInst_foreign h hop hz hhi (fun _ => hv) (by simp) hown _))⟩⟩
  · exact halts ((exec_matrix hop errs s).trans (next_of_eq (matrix_illegal h hc errs)))
  · exact halts (next_of_eq (sidePath_illegal h hop hc errs))
  · exact halts (next_of_eq (moveInst_badWord h hop hbad errs))
  · exact halts (next_of_eq (vector_badRounding h hr errs))

/-! ### Streams and waits (R76, R110, R148) -/

/-- A write that only firmware and keystone may make takes effect from inside (R384). -/
theorem byFirmware_inside {w : Ident} (hw : inside w) (s : State) (f : State → State) : s.byFirmware w.toNat f = f s := if_pos hw

/-- A write to a powered cell from inside the device takes effect. -/
theorem byFirmware_cellOn {w : Ident} {n : Nat} {s : State} (hw : inside w) (hon : s.cellOn n = true) (f : State → State) :
    s.byFirmware w.toNat (fun s => onlyIf (s.cellOn n) f s) = f s :=
  (byFirmware_inside hw s _).trans (if_pos hon)

section
variable {n : Nat} {s : State}

theorem startStream_busy (h : s.flag Fld.celCtrl_run n = false ∨ s.flag Fld.celStatus_running n = true) (v : Nat) :
    s.startStream n v = s.wr Fld.celFlags_startBusy 1 n :=
  if_pos (by simpa using h)

/-- The word of `CEL_PC` that a write of `CEL_START` names. -/
def startPc (v : Nat) : Word := BitVec.ofNat 64 (State.streamOff (nbits v 31 8) * 256 + nbits v 5 0)

theorem startStream_view {v : Nat} {view : View} (hrun : s.flag Fld.celCtrl_run n = true) (hidle : s.flag Fld.celStatus_running n = false)
    (hv : s.streamView n (nbits v 5 0) = some view) :
    s.startStream n v =
      (((s.modCell n fun c => { c with stream := some view, loops := [], dual := none, stopReq := false }).setReg .celPc n 0 (startPc v)).wr
        Fld.celStatus_running 1 n).wr Fld.celStatus_halted 0 n := by
  rw [State.startStream, if_neg (by simp [hrun, hidle])]
  simp only [hv, startPc]

theorem startStream_noView {v : Nat} (hrun : s.flag Fld.celCtrl_run n = true) (hidle : s.flag Fld.celStatus_running n = false)
    (hv : s.streamView n (nbits v 5 0) = none) : s.startStream n v = s.recordIllegal n (startPc v) 0x06 := by
  rw [State.startStream, if_neg (by simp [hrun, hidle])]
  simp only [hv, startPc]

theorem requestStop_running (hrun : s.flag Fld.celStatus_running n = true) (hwait : s.flag Fld.celStatus_waiting n = false)
    (hstall : (s.cell n).stall = none) (hdual : (s.cell n).dual = none) : s.requestStop n = s.halt n := by
  rw [State.requestStop, if_neg (by simp [hrun]), if_neg (by simp [hwait, hstall])]
  simp only [hdual]

/-- A change of a cell rests on what it makes of that cell alone. -/
theorem modCell_congr {f g : Cell → Cell} (h : f (s.cell n) = g (s.cell n)) : s.modCell n f = s.modCell n g := by
  rw [State.modCell, State.modCell, h]

/-- A wait ends without a stop requested, and without a side-path instruction that waits. -/
theorem endWait_plain (hstop : (s.cell n).stopReq = false) (hside : (s.cell n).sideMet = none) :
    s.endWait n = ((s.modCell n fun c => { c with waitL := none }).wr Fld.celStatus_waiting 0 n).wr Fld.celStatus_waitLatch 0 n := by
  have hcell : (s.modCell n fun c => { c with waitL := none, sideMet := c.sideMet.map fun _ => true }) =
      s.modCell n fun c => { c with waitL := none } := modCell_congr (by simp [hside])
  simp only [State.endWait, hcell, State.boundary, State.wr_cell, State.modCell_cell_same, hstop]
  rfl

end

/-- The notification of a remote wait ends it (R148). -/
theorem exec_waitNotification {e : Fin 57} {i : Nat} {x : RemoteWait} {s : State} (hx : (s.waitsOf e)[i]? = some x) (hst : x.st = .notified) :
    exec (.waitNotification ⟨e, i⟩) s = .next ((s.modWaits e fun l => l.filter fun y => !(y == x)).wake e x.by_) := by
  show execWaitNotification ⟨e, i⟩ s = _
  simp only [execWaitNotification, hx, if_pos hst]

/-- A refused registration is repeated (R148). -/
theorem exec_waiterRegistrationRetry {e : Fin 57} {i : Nat} {x : RemoteWait} {s : State} (hx : (s.waitsOf e)[i]? = some x)
    (hst : x.st = .refused) : exec (.waiterRegistrationRetry ⟨e, i⟩) s = .next (s.register e x.latch x.by_) := by
  show execWaiterRegistrationRetry ⟨e, i⟩ s = _
  simp only [execWaiterRegistrationRetry, hx, if_pos hst]

/-- A change of a cell's remote waits leaves the rest of the cell. -/
theorem modWaits_of_cell {e : Nat} (he : e < 56) (s : State) (f : List RemoteWait → List RemoteWait) :
    s.modWaits e f = s.modCell e fun c => { c with waits := f c.waits } := if_pos he

/-- Settles O43: the writes from inside by what they do to a powered cell, the waits by what their notification does. -/
theorem streamsStartAndStop : Obligations.StreamsStartAndStop := by
  refine ⟨fun w n s hw hon => ⟨fun v hrun hidle => ⟨fun view hv => ?_, fun hv => ?_⟩, fun v hbusy => ?_, fun hrun hwait hstall hdual => ?_,
    fun v => ?_⟩, fun e i x s hx => ⟨fun hst => ⟨?_, fun hby he hstop hside => ?_⟩, fun hst => ?_⟩⟩
  · exact next_of_eq ((byFirmware_cellOn hw hon _).trans (startStream_view hrun hidle hv))
  · exact next_of_eq ((byFirmware_cellOn hw hon _).trans ((startStream_noView hrun hidle hv).trans (recordIllegal_eq s n _ _)))
  · exact next_of_eq ((byFirmware_cellOn hw hon _).trans (startStream_busy hbusy _))
  · exact next_of_eq ((byFirmware_cellOn hw hon _).trans (requestStop_running hrun hwait hstall hdual))
  · exact next_of_eq (byFirmware_cellOn hw hon _)
  · exact exec_waitNotification hx hst
  · rw [exec_waitNotification hx hst, hby]
    exact next_of_eq (endWait_plain (by simp [modWaits_of_cell he, hstop]) (by simp [modWaits_of_cell he, hside]))
  · exact exec_waiterRegistrationRetry hx hst

end Sys2Proof.Machine
end

section
/-!
PROOFS. The engines of a cell: when matrix and side-path instructions go to the array, what the preparation of an instruction rests on, and what
a completed instruction leaves.
-/
namespace Sys2Proof.Machine

/-! ### Matrix instructions at issue (R74, R85, R90) -/

section
variable {n : Nat} {m : Inst256} {s : State}

/-- A legal instruction of a single shape joins the array. -/
theorem matrix_single (h : s.ready n) (hc : s.matrixCause n m false = none) (hz : hazard (s.cell n).jobs (Mx.reads m) (Mx.writes m) = false)
    (hs : Mx.shape m ≠ 1) (errs : ReadErrs) : s.matrix n m errs = ((s.putJob n m (s.pc n) errs).advance n).arrayGo n := by
  obtain ⟨hi, hd⟩ := h
  simp [State.matrix, hi, hd, hc, hz, hs]

/-- The first half of a dual pair is held. -/
theorem matrix_firstHalf (h : s.ready n) (hc : s.matrixCause n m false = none)
    (hz : hazard (s.cell n).jobs (Mx.reads m) (Mx.writes m) = false) (hs : Mx.shape m = 1) (h14 : bit m 14 = false) (errs : ReadErrs) :
    s.matrix n m errs = (s.modCell n fun c => { c with dual := some (m, s.pc n, errs) }).advance n := by
  obtain ⟨hi, hd⟩ := h
  simp [State.matrix, hi, hd, hc, hz, hs, h14]

/-- A second half that agrees with the one held joins the array with it. -/
theorem matrix_secondHalf {a : Inst256} {apc : Word} {aerrs : ReadErrs} (hi : s.issues n = true) (hd : (s.cell n).dual = some (a, apc, aerrs))
    (ha : Mx.dualAgree a m = true) (hc : s.matrixCause n m false = none)
    (hz : hazard (s.cell n).jobs (Mx.reads a ++ Mx.reads m) (Mx.writes a ++ Mx.writes m) = false) (errs : ReadErrs) :
    s.matrix n m errs =
      ((((s.modCell n fun c => { c with dual := none }).putJob n a apc aerrs).putJob n m (s.pc n) errs).advance n).arrayGo n := by
  simp [State.matrix, hi, hd, ha, hc, hz]

end

/-! ### What a preparation rests on (R89, R109; log entry 60) -/

/-- The registers of a cell other than its program counter stay when the sequencer goes on. -/
theorem advance_reg {q : Reg} {m j n : Nat} (h : q.key m j ≠ Reg.celPc.key n 0) (s : State) : (s.advance n).reg q m j = s.reg q m j :=
  State.reg_setReg_other s _ h

@[simp] theorem advance_cell (s : State) (n m : Nat) : (s.advance n).cell m = s.cell m := State.wr_cell s _ _ n 0 m
@[simp] theorem advance_span (s : State) (n i : Nat) : (s.advance n).span i = s.span i := State.wr_span s _ _ n 0 i

theorem celPc_key (n : Nat) : Reg.celPc.key n 0 = 0x100000 + n * 0x10000 + 0x20 := (rfl)

@[simp] theorem advance_cellSpan (s : State) (n m : Nat) : (s.advance n).cellSpan m = s.cellSpan m := by
  have hkey : Reg.celId.key m 0 ≠ Reg.celPc.key n 0 := by
    rw [celPc_key, show Reg.celId.key m 0 = 0x100000 + m * 0x10000 from rfl]; omega
  simp only [State.cellSpan, State.rd, Fld.celId_span, advance_reg hkey]

@[simp] theorem advance_resolve (s : State) (n h : Nat) : (s.advance n).resolve n h = s.resolve n h := by
  have hlo : Reg.hndLo.key n h ≠ Reg.celPc.key n 0 := by
    rw [celPc_key, show Reg.hndLo.key n h = 0x100000 + n * 0x10000 + 0x400 + 0x10 * h from rfl]; omega
  have hhi : Reg.hndHi.key n h ≠ Reg.celPc.key n 0 := by
    rw [celPc_key, show Reg.hndHi.key n h = 0x100000 + n * 0x10000 + 0x408 + 0x10 * h from rfl]; omega
  simp only [State.resolve, advance_reg hlo, advance_reg hhi]

theorem cellSpan_lt (s : State) (n : Nat) : s.cellSpan n < 16 := nbits_lt _ 19 16

/-- The append handle of the cell's span stays when the sequencer goes on. -/
theorem advance_appHandle (s : State) (n : Nat) :
    (s.advance n).rd Fld.kvwCfg_appHandle 0 (s.cellSpan n) = s.rd Fld.kvwCfg_appHandle 0 (s.cellSpan n) := by
  have hkey : Reg.kvwCfg.key 0 (s.cellSpan n) ≠ Reg.celPc.key n 0 := by
    have := cellSpan_lt s n
    rw [celPc_key, show Reg.kvwCfg.key 0 (s.cellSpan n) = 0xA0100 + 0x40 * s.cellSpan n from rfl]; omega
  simp only [State.rd, Fld.kvwCfg_appHandle, advance_reg hkey]

/-- A preparation rests on the cell's span with its append handle and model, the handle table and the bytes of the cell's memory. -/
theorem prepare_congr {s t : State} {n : Nat} (hspan : t.cellSpan n = s.cellSpan n)
    (happ : t.rd Fld.kvwCfg_appHandle 0 (s.cellSpan n) = s.rd Fld.kvwCfg_appHandle 0 (s.cellSpan n))
    (hsp : ∀ i, t.span i = s.span i) (hres : ∀ h, t.resolve n h = s.resolve n h) (hmem : (t.cell n).mem = (s.cell n).mem)
    (w : Inst256) (side : Bool) (errs : ReadErrs) : t.prepare n w side errs = s.prepare n w side errs := by
  have happends : t.appends n w = s.appends n w := by rw [State.appends, State.appends, hspan, happ]
  have hviews : t.matrixViews n w side = s.matrixViews n w side := by
    rw [State.matrixViews, State.matrixViews, happends, show t.resolve n = s.resolve n from funext hres]
  have hcopy : t.runningCopy (s.cellSpan n) = s.runningCopy (s.cellSpan n) := by rw [State.runningCopy, State.runningCopy, hsp]
  have hpiece : t.pieceOk n w = s.pieceOk n w := by rw [State.pieceOk, State.pieceOk, hspan, hcopy]
  have hform : t.appendForm n w = s.appendForm n w := by rw [State.appendForm, State.appendForm, hspan, hcopy]
  have hbytes : t.operandBytes n w = s.operandBytes n w := by
    funext p
    simp only [State.operandBytes, View.bytes, hmem]
  rw [State.prepare, State.prepare, hviews, hpiece, hform, hbytes]

/-- The sequencer that goes on changes nothing that a preparation rests on. -/
theorem prepare_advance (s : State) (n : Nat) (w : Inst256) (side : Bool) (errs : ReadErrs) :
    (s.advance n).prepare n w side errs = s.prepare n w side errs :=
  prepare_congr (advance_cellSpan s n n) (advance_appHandle s n) (advance_span s n) (advance_resolve s n) (by rw [advance_cell]) w side errs

/-- A change of a cell beside its memory changes nothing that a preparation rests on. -/
theorem prepare_modCell {s : State} {n : Nat} {f : Cell → Cell} (hf : (f (s.cell n)).mem = (s.cell n).mem) (w : Inst256) (side : Bool)
    (errs : ReadErrs) : (s.modCell n f).prepare n w side errs = s.prepare n w side errs :=
  prepare_congr (s := s) (t := s.modCell n f) rfl rfl (fun _ => rfl) (fun _ => rfl) (by rw [State.modCell_cell_same, hf]) w side errs

/-! ### A single instruction on an empty array (R89) -/

theorem groupLen_single (j : MatrixJob) : State.groupLen [j] = 1 := by simp [State.groupLen]

/-- One instruction that waits on no latch is prepared. -/
theorem prepareGroup_single {s : State} {n : Nat} {j : MatrixJob} {p : Prep} (hj : (s.cell n).jobs = [j]) (hw : j.waiting = false)
    (hnone : j.prep = none) (hp : s.prepare n j.w false j.errs = .inr p) :
    s.prepareGroup n 0 = s.modCell n fun c => { c with jobs := [{ j with prep := some p }] } := by
  have hall : s.prepareAll n [j] = .inr [{ j with prep := some p }] := by simp only [State.prepareAll, hp]
  have hgroup : s.prepareGroup n 0 = s.modCell n fun c => { c with jobs := { j with prep := some p } :: c.jobs.tail } := by
    simp [State.prepareGroup, hj, groupLen_single, hw, hnone, hall, State.pairBroken]
  exact hgroup.trans (modCell_congr (by simp [hj]))

/-- Behind the last instruction there is nothing to prepare. -/
theorem prepareGroup_end {s : State} {n k : Nat} (h : (s.cell n).jobs.length ≤ k) : s.prepareGroup n k = s := by
  simp [State.prepareGroup, List.drop_eq_nil_of_le h]

theorem arrayGo_single_jobs {s : State} {n : Nat} {j : MatrixJob} {p : Prep} (hj : (s.cell n).jobs = [j]) (hw : j.waiting = false)
    (hnone : j.prep = none) (hp : s.prepare n j.w false j.errs = .inr p) :
    ((s.arrayGo n).cell n).jobs = [{ j with prep := some p }] := by
  simp [State.arrayGo, prepareGroup_single hj hw hnone hp, groupLen_single, prepareGroup_end]

theorem putJob_noWait {m : Inst256} (h : bit m 224 = false) (s : State) (n : Nat) (pc : Word) (errs : ReadErrs) :
    s.putJob n m pc errs = s.modCell n fun c =>
      { c with nextJob := (s.cell n).nextJob + 1,
               jobs := c.jobs ++ [{ id := (s.cell n).nextJob, w := m, pc, errs, waiting := false, prep := none }] } := by
  simp [State.putJob, h]

/-- The instruction that finds the array empty and waits on no latch is prepared, with its operands as they stand (log entry 60). -/
theorem putJob_empty_prepared {s : State} {n : Nat} {m : Inst256} {errs : ReadErrs} {p : Prep} (hempty : (s.cell n).jobs = [])
    (hwait : bit m 224 = false) (hp : s.prepare n m false errs = .inr p) (pc : Word) :
    ((((s.putJob n m pc errs).advance n).arrayGo n).cell n).jobs =
      [{ id := (s.cell n).nextJob, w := m, pc, errs, waiting := false, prep := some p }] := by
  rw [putJob_noWait hwait]
  exact arrayGo_single_jobs (j := { id := (s.cell n).nextJob, w := m, pc, errs, waiting := false, prep := none }) (by simp [hempty]) rfl rfl
    ((prepare_advance _ n m false errs).trans ((prepare_modCell rfl m false errs).trans hp))

/-! ### Completion (R85, R97, R120) -/

/-- A latch of the cell's own that is met holds a side-path instruction up no longer, and one that it does not name never did (R97). -/
theorem sideWait_met {s : State} {n : Nat} {m : Inst256}
    (h : bit m 224 = true →
      State.latchHome (bits m 207 192) = n ∧ s.met (bits m 207 192) = true ∧ ∀ o ∈ s.latchOps, o.latch ≠ bits m 207 192) :
    s.sideWait n m = s := by
  cases hb : bit m 224 with
  | false => simp [State.sideWait, hb]
  | true =>
    obtain ⟨hhome, hmet, hops⟩ := h hb
    have hopen : s.closeOpen (bits m 207 192) = s := if_neg (by simpa using hops)
    simp [State.sideWait, hopen, hhome, hmet]

/-- A side-path instruction with sound operands writes its result, goes on and signals (R97 to R99). -/
theorem sidePath_done {s : State} {n : Nat} {w : Inst256} {errs : ReadErrs} {p : Prep} (h : s.ready n) (hop : reservedOp (bits w 7 0) = false)
    (hc : s.matrixCause n (Mx.withOp w 0x41) true = none)
    (hz : hazard (s.cell n).jobs (Mx.reads (Mx.withOp w 0x41)) (Mx.writes (Mx.withOp w 0x41)) = false) (hm : (s.cell n).sideMet = none)
    (hw : s.sideWait n (Mx.withOp w 0x41) = s)
    (hp : (s.modCell n fun c => { c with sideMet := none }).prepare n (Mx.withOp w 0x41) true errs = .inr p)
    (hue : ((s.modCell n fun c => { c with sideMet := none }).corrected n errs.corrected).operandUe n (Mx.withOp w 0x41) p errs = none) :
    s.sidePath n w errs =
      ((((s.modCell n fun c => { c with sideMet := none }).corrected n errs.corrected).writeResult n (Mx.withOp w 0x41) p).advance n).signalDone n
        (Mx.withOp w 0x41) := by
  rw [State.sidePath, issue_ready _ h, if_neg (by simp [hop])]
  simp only [hc, hz, hw, hm, hp, hue]
  rfl

/-- The oldest prepared instruction of the array with sound operands ends (R85). -/
theorem completeMatrix_done {s : State} {n : Nat} {j : MatrixJob} {rest : List MatrixJob} {p : Prep} (hj : (s.cell n).jobs = j :: rest)
    (hp : j.prep = some p) (hue : (s.corrected n j.errs.corrected).operandUe n j.w p j.errs = none) :
    s.completeMatrix n =
      (let t := (((s.corrected n j.errs.corrected).writeResult n j.w p).leaveArray n).bump64 Fld.arrInstr_count n
       (if bit j.w 14 then t else t.bump64 Fld.arrBusy_count n 0 (State.streamCycles j.w)).signalDone n j.w) := by
  simp only [State.completeMatrix, hj, hp, hue]

/-! ### Vector instructions (R94, R110) -/

/-- The checks that a vector instruction passes before it reads: rounding mode `r`, its length, no conflict with the array, sources `vs`, and
destination `d` (log entry 89). -/
structure VectorLegal (s : State) (n : Nat) (v : VectorInst) (errs : ReadErrs) (r : Rounding) (vs : List View) (d : View) : Prop where
  rounding : rndOf v.rnd = some r
  notSr : v.op ∈ [VectorOp.add, .mul, .fma, .div] → r ≠ .sr
  count : ∀ k, v.op = .topK k → k ≤ 256
  length : v.op.reduces = true → v.len ≤ 262144
  free : hazard (s.cell n).jobs (v.sources.map (· % 64)) [v.hd % 64] = false
  parity : errs.parity = none
  sources : (v.sources.map fun h => s.vectorSource n h v.len) = vs.map some
  dest : s.vectorDest n v.hd v.outLen r = some d

/-- A legal vector instruction meets an uncorrectable word of its sources, or has its result written (R94, R120). -/
theorem vector_legal {s : State} {n : Nat} {v : VectorInst} {errs : ReadErrs} {r : Rounding} {vs : List View} {d : View} (h : s.ready n)
    (hl : VectorLegal s n v errs r vs d) :
    s.vector n v errs =
      (let t := s.corrected n errs.corrected
       (t.vectorUe n v vs errs).elim ((t.vectorRun n v r vs d).advance n) fun e => (t.advance n).readFault n e) := by
  rw [State.vector, issue_ready _ h]
  simp only [hl.rounding]
  rw [if_neg, if_neg (by simp [hl.free]), if_neg (by simp [hl.parity])]
  · have hall : (vs.map some).all Option.isSome = true := by simp
    have hviews : (vs.map some).filterMap id = vs := by simp
    simp only [hl.sources, hl.dest, hall, hviews]
    cases (s.corrected n errs.corrected).vectorUe n v vs errs <;> rfl
  · simp only [Bool.or_eq_true, Bool.and_eq_true, beq_iff_eq, decide_eq_true_eq]
    rintro ((⟨harith, hsr⟩ | hk) | ⟨hred, hlen⟩)
    · exact hl.notSr (by split at harith <;> simp_all) hsr
    · split at hk
      case h_1 k hop => exact Nat.not_lt.mpr (hl.count k hop) (of_decide_eq_true hk)
      case h_2 => cases hk
    · exact Nat.not_lt.mpr (hl.length hred) hlen

/-- Rounding to nearest even draws nothing from the generator. -/
theorem draws_rne (k : Nat) (x : BitVec 32) : (draws .rne k x).2 = x := by
  induction k with
  | zero => rfl
  | succ k ih => simpa [draws] using ih

/-- EXP2 into an FP32 destination writes the powers of two of its source, and draws nothing. -/
theorem vectorRun_exp2 {v : VectorInst} {d : View} (hop : v.op = .exp2) (hd : d.fmt = 0) (t : State) (n : Nat) (r : Rounding) (a : View) :
    t.vectorRun n v r [a] d =
      (let q := t.vectorRead n a v.len
       q.2.modCell n fun c => { c.store d 0 (pack 0 ((q.1.map exp2F32).map (·.toNat))) with rng := (q.2.cell n).rng }) := by
  simp [State.vectorRun, hop, hd, vectorResult, VectorOp.makesIndices, State.sendMasses, draws_rne, onlyIf, Function.comp_def]

/-! ### The statement -/

/-- Settles O45: the array, the side path and the vector unit, each by what it does with a legal instruction. -/
theorem enginesCompleteTheirInstructions : Obligations.EnginesCompleteTheirInstructions := by
  intro n s
  refine ⟨fun w errs hop => ⟨?_, ?_⟩, fun j rest p hj hp hue => next_of_eq (completeMatrix_done hj hp hue),
    fun v errs r vs d h hr hsr hk hlen hz hpar hsrc hdest hue => ?_⟩
  · intro m hc
    refine ⟨fun h hz => ⟨fun hs => ⟨?_, fun p hempty hwait hp => putJob_empty_prepared hempty hwait hp (s.pc n)⟩, fun hs h14 => ?_⟩,
      fun a apc aerrs hi hd ha hz => ?_⟩
    · exact (exec_matrix hop errs s).trans (next_of_eq (matrix_single h hc hz hs errs))
    · exact (exec_matrix hop errs s).trans (next_of_eq (matrix_firstHalf h hc hz hs h14 errs))
    · exact (exec_matrix hop errs s).trans (next_of_eq (matrix_secondHalf hi hd ha hc hz errs))
  · intro m u t l p h hc hz hm hmet hp hue
    exact next_of_eq (sidePath_done h hop hc hz hm (sideWait_met hmet) hp hue)
  · have hrun := vector_legal h ⟨hr, hsr, hk, hlen, hz, hpar, hsrc, hdest⟩
    simp only [hue, Option.elim_none] at hrun
    refine ⟨next_of_eq hrun, fun a hexp hvs hfmt => next_of_eq (hrun.trans ?_)⟩
    rw [hvs, vectorRun_exp2 hexp hfmt]

end Sys2Proof.Machine
end

section
/-!
PROOFS. Faults of a cell's array and memory: the parity error of the array, the reads of the scrubber, and a vector instruction that meets an
uncorrectable word.
-/
namespace Sys2Proof.Machine

/-! ### A parity error in the array (R100; log entries 63 and 71) -/

/-- The first fault of a cell is recorded with the address of its instruction, unless an illegal instruction or an earlier parity error was. -/
def recordParity (s : State) (n : Nat) (pc : Word) : State :=
  if !s.flag Fld.celFlags_illegal n && !s.flag Fld.celFlags_arrayPar n then (s.setReg .celFaultPc n 0 pc).wr Fld.celFaultCause_cause 0x10 n
  else s

@[simp] theorem recordParity_cell (s : State) (n : Nat) (pc : Word) (m : Nat) : (recordParity s n pc).cell m = s.cell m := by
  unfold recordParity
  split <;> simp

/-- What a parity error does to an array whose oldest instruction has started. -/
theorem arrayParity_prepared {s : State} {n : Nat} {j : MatrixJob} {r : List MatrixJob} (hj : (s.cell n).jobs = j :: r)
    (hp : j.prep.isSome = true) :
    s.arrayParity n =
      (let t := forEach ((s.cell n).jobs.take (State.groupLen (s.cell n).jobs)) (fun j t => t.spoil n j)
         ((recordParity s n j.pc).wr Fld.celFlags_arrayPar 1 n)
       ((((t.dropJobs n 0).drainLanding n).wr Fld.celStatus_arrayBusy 0 n).halt n).cellFault n 0x01 false) := by
  have hnone : j.prep.isNone = false := by simpa using hp
  have hrecord : onlyIf (!s.flag Fld.celFlags_illegal n && !s.flag Fld.celFlags_arrayPar n)
      (fun s => (s.setReg .celFaultPc n 0 j.pc).wr Fld.celFaultCause_cause 0x10 n) s = recordParity s n j.pc := rfl
  rw [State.arrayParity, hj]
  simp only [hnone, hrecord, recordParity_cell, hj]
  rfl

/-! ### The scrubber (R119, R120, R122) -/

/-- The key of the line at which the scrubber of cell `n` stands. -/
def scrubKey (s : State) (n : Nat) : Nat :=
  if s.rd Fld.poolScrubPos_mem n = 2 then 1 * 2 ^ 18 + 4096 + s.rd Fld.poolScrubPos_line n
  else s.rd Fld.poolScrubPos_mem n * 2 ^ 18 + s.rd Fld.poolScrubPos_line n

/-- The scrubber of cell `n` moved on to the next line. -/
def scrubNext (s : State) (n : Nat) : State :=
  let nx := State.nextScrub (s.rd Fld.poolScrubPos_mem n) (s.rd Fld.poolScrubPos_line n)
  (s.wr Fld.poolScrubPos_mem nx.1 n).wr Fld.poolScrubPos_line nx.2 n

@[simp] theorem scrubNext_cell (s : State) (n m : Nat) : (scrubNext s n).cell m = s.cell m := by rw [scrubNext, State.wr_cell, State.wr_cell]

section
variable {s : State} {n : CellId} (hon : s.cellOn n = true) (hen : s.flag Fld.poolCfg_scrubEn n = true)
include hon hen

/-- A line that was poisoned is met as a memory fault, whatever its read would have found. -/
theorem poolScrubRead_poisoned (hk : (s.cell n).poison.contains (scrubKey s n) = true) (e : EccOutcome) :
    exec (.poolScrubRead n e) s = .next (((scrubNext s n).poolUe n (scrubKey s n) 0 none).memFault n (scrubKey s n)) := by
  rw [← scrubNext_cell s n] at hk
  exact (if_neg (by simp [hon, hen])).trans (if_pos hk)

/-- Any other line is met as its read finds it. -/
theorem poolScrubRead_sound (hk : (s.cell n).poison.contains (scrubKey s n) = false) :
    exec (.poolScrubRead n .clean) s = .next (scrubNext s n) ∧
    exec (.poolScrubRead n .corrected) s = .next ((scrubNext s n).bump Fld.poolEccCe_count n) ∧
    ∀ wd syn, exec (.poolScrubRead n (.uncorrectable wd syn)) s =
      .next (((scrubNext s n).meetUe n (scrubKey s n) wd syn).memFault n (scrubKey s n)) := by
  rw [← scrubNext_cell s n] at hk
  have hskip : ¬((!(s.cellOn n && s.flag Fld.poolCfg_scrubEn n)) = true) := by simp [hon, hen]
  have hline : ¬(((scrubNext s n).cell n).poison.contains (scrubKey s n) = true) := ne_true_of_eq_false hk
  exact ⟨(if_neg hskip).trans (if_neg hline), (if_neg hskip).trans (if_neg hline), fun _ _ => (if_neg hskip).trans (if_neg hline)⟩

end

/-- Settles O46: the array's parity error, the scrubber's line poisoned or not, and a legal vector instruction that meets an uncorrectable word. -/
theorem arrayAndMemoryFaults : Obligations.ArrayAndMemoryFaults := by
  intro n s
  refine ⟨fun j r hj hp => next_of_eq (arrayParity_prepared hj hp),
    fun hon hen => ⟨poolScrubRead_sound hon hen, poolScrubRead_poisoned hon hen⟩,
    fun v errs vs d e h hr htop hred hz hpar hsrc hdest hue => ?_⟩
  have hl : VectorLegal s n v errs .rne vs d :=
    ⟨hr, nofun, fun k hk => absurd hk (htop k), fun hlen => by simp [hred] at hlen, hz, hpar, hsrc, hdest⟩
  have hrun := vector_legal h hl
  simp only [hue, Option.elim_some] at hrun
  exact next_of_eq hrun

end Sys2Proof.Machine
end

section
/-!
PROOFS. Power and heat: a measurement of the inputs, GUST, the sensors' readings, throttling, and the clock of the cells.
-/
namespace Sys2Proof.Machine

/-! ### A measurement of the inputs (R455, R458) -/

/-- The readings of a measurement shown, and its energy added. -/
def measured (s : State) (main aux w avg : Nat) : State :=
  let t := (((s.wr Fld.pwrInput_mainMv (min 65535 main)).wr Fld.pwrInput_auxMv (min 65535 aux)).wr Fld.pwrInput_avgDw (min 65535 avg)).wr
    Fld.pwrInput_nowDw (min 65535 w)
  (t.bump64 Fld.pwrEnergy_mj 0 0 ((s.pwr.energyUj + w) / 1000)).modPwr fun x => { x with energyUj := (s.pwr.energyUj + w) % 1000 }

/-- A measurement changes the registers of the inputs and of the energy alone. -/
theorem measured_rd {g : FieldRef} {m j : Nat} (hi : g.reg.key m j ≠ Reg.pwrInput.key 0 0) (he : g.reg.key m j ≠ Reg.pwrEnergy.key 0 0)
    (s : State) (main aux w avg : Nat) : (measured s main aux w avg).rd g m j = s.rd g m j := by
  rw [measured, State.modPwr_rd, State.bump64, State.rd_wr_other _ he, State.rd_wr_other _ hi, State.rd_wr_other _ hi, State.rd_wr_other _ hi,
    State.rd_wr_other _ hi]

/-- The credit of GUST lies in its own register and count. -/
theorem setCredit_rd {g : FieldRef} {m j : Nat} (h : g.reg.key m j ≠ Reg.pwrGust.key 0 0) (s : State) (c : Nat) :
    (s.setCredit c).rd g m j = s.rd g m j := by
  rw [State.setCredit, State.modPwr_rd, State.rd_wr_other _ h]

section
variable (s : State) (main aux w avg c : Nat)

theorem measured_inGust : (measured s main aux w avg).inGust = s.inGust := by
  rw [State.inGust, State.inGust, measured_rd (by decide) (by decide)]

theorem measured_credit : (measured s main aux w avg).credit = s.credit := by
  rw [State.credit, State.credit, measured_rd (by decide) (by decide)]; rfl

theorem measured_setCredit_rd {g : FieldRef} (hi : g.reg.key 0 0 ≠ Reg.pwrInput.key 0 0) (he : g.reg.key 0 0 ≠ Reg.pwrEnergy.key 0 0)
    (hg : g.reg.key 0 0 ≠ Reg.pwrGust.key 0 0) : ((measured s main aux w avg).setCredit c).rd g = s.rd g := by
  rw [setCredit_rd hg, measured_rd hi he]

theorem measured_setCredit_inGust : ((measured s main aux w avg).setCredit c).inGust = s.inGust := by
  rw [State.inGust, State.inGust, measured_setCredit_rd s main aux w avg c (by decide) (by decide) (by decide)]

theorem measured_setCredit_active : ((measured s main aux w avg).setCredit c).active = s.active := by
  rw [State.active, State.active, measured_setCredit_rd s main aux w avg c (by decide) (by decide) (by decide)]

theorem measured_setCredit_overLimit (tenMs : Nat) : ((measured s main aux w avg).setCredit c).overLimit tenMs avg = s.overLimit tenMs avg := by
  rw [State.overLimit, State.overLimit, measured_setCredit_inGust,
    measured_setCredit_rd s main aux w avg c (by decide) (by decide) (by decide)]

theorem measured_setCredit_clamp : ((measured s main aux w avg).setCredit c).pwr.clamp = s.pwr.clamp := (rfl)

/-- The conditions of a measurement are those of the state that it meets. -/
theorem measure_eq (tenMs aim : Nat) :
    s.measure main aux w tenMs avg aim =
      (let t := (measured s main aux w avg).setCredit (if s.inGust then s.credit - 6 else s.credit + 1)
       let t := if s.overLimit tenMs avg ∧ s.rd Fld.pwrProfile_clock ≤ s.rd Fld.pwrProfile_floor ∧ s.active = true ∧ s.pwr.clamp = false then
           (t.wr Fld.pwrStatus_overLimit 1).bump Fld.pwrOverCnt_count else t
       t.setClock aim (s.overLimit tenMs avg)) := by
  have hmeasure : s.measure main aux w tenMs avg aim =
      (let u := measured s main aux w avg
       let t := u.setCredit (if u.inGust then u.credit - 6 else u.credit + 1)
       let miss := t.overLimit tenMs avg
       (if miss && decide (t.rd Fld.pwrProfile_clock ≤ t.rd Fld.pwrProfile_floor) && t.active && !t.pwr.clamp then
          (t.wr Fld.pwrStatus_overLimit 1).bump Fld.pwrOverCnt_count else t).setClock aim miss) := rfl
  rw [hmeasure]
  simp only [measured_inGust, measured_credit, measured_setCredit_overLimit, measured_setCredit_active, measured_setCredit_clamp,
    measured_setCredit_rd s main aux w avg _ (g := Fld.pwrProfile_clock) (by decide) (by decide) (by decide),
    measured_setCredit_rd s main aux w avg _ (g := Fld.pwrProfile_floor) (by decide) (by decide) (by decide),
    Bool.and_eq_true, decide_eq_true_eq, Bool.not_eq_true', and_assoc]

end

/-! ### The clock (R102, R454) -/

/-- The listed cells keep clock `old` until their next boundary. -/
theorem forEach_keepClock (l : List Nat) (old n : Nat) (s : State) :
    ((forEach l (fun n (t : State) => t.modCell n fun x => { x with clock := some old }) s).cell n).clock =
      if n ∈ l then some old else (s.cell n).clock := by
  induction l generalizing s with
  | nil => rfl
  | cons k l ih =>
    rw [show forEach (k :: l) (fun n (t : State) => t.modCell n fun x => { x with clock := some old }) s =
      forEach l _ (s.modCell k fun x => { x with clock := some old }) from rfl, ih]
    by_cases hk : n = k
    · simp [hk]
    · simp [hk, State.modCell_cell_other]

/-- Changes of cells leave the registers. -/
theorem forEach_modCell_rd (l : List Nat) (f : Cell → Cell) (g : FieldRef) (s : State) :
    (forEach l (fun n (t : State) => t.modCell n f) s).rd g = s.rd g := by
  induction l generalizing s with
  | nil => rfl
  | cons k l ih => exact ih (s.modCell k f)

theorem changeClock_rd (s : State) {c : Nat} (hc : c < 256) : (s.changeClock c).rd Fld.pwrProfile_clock = c := by
  have hwr : (s.wr Fld.pwrProfile_clock c).rd Fld.pwrProfile_clock = c :=
    (State.rd_wr_same s Fld.pwrProfile_clock c 0 0 (by decide) (by decide)).trans (Nat.mod_eq_of_lt hc)
  rw [State.changeClock]
  split
  · exact hwr
  · exact (forEach_modCell_rd _ _ _ _).trans hwr

/-- A cell whose array runs keeps the clock that stood before the change (R102). -/
theorem changeClock_cell (s : State) (c : Nat) {n : Nat} (hn : n < 56) :
    ((s.changeClock c).cell n).clock =
      if c ≠ s.rd Fld.pwrProfile_clock ∧ (s.cell n).clock = none ∧ (s.cell n).jobs.any (fun j => j.prep.isSome) = true
      then some (s.rd Fld.pwrProfile_clock) else (s.cell n).clock := by
  by_cases hc : c = s.rd Fld.pwrProfile_clock
  · rw [State.changeClock, if_pos hc, if_neg (fun h => h.1 hc), State.wr_cell]
  · rw [State.changeClock, if_neg hc, forEach_keepClock]
    simp [hn, hc]

/-! ### Heat (R459 to R461) -/

/-- The readings of the sensors taken in order, and the hottest set. -/
def sensed (s : State) (l : List Int) : State := (forEach (l.take 64).zipIdx (fun e (t : State) => t.sense e.2 e.1) s).setHottest

section
variable {s : State} {l : List Int}

theorem sensors_cool (htrip : (sensed s l).hottest < 16 * ((sensed s l).rd Fld.keyTherm_trip : Int))
    (hthr : (sensed s l).hottest < 16 * ((sensed s l).rd Fld.keyTherm_throttle : Int)) : s.sensors l = sensed s l :=
  (if_neg fun h => (not_le.mpr htrip) h.1).trans (if_neg fun h => (not_le.mpr hthr) h.1)

theorem sensors_trip (htrip : 16 * ((sensed s l).rd Fld.keyTherm_trip : Int) ≤ (sensed s l).hottest)
    (hreset : (sensed s l).key.inReset = none) : s.sensors l = (sensed s l).thermalTrip :=
  if_pos ⟨htrip, by rw [← sensed, hreset]; rfl⟩

theorem sensors_throttle (htrip : (sensed s l).hottest < 16 * ((sensed s l).rd Fld.keyTherm_trip : Int))
    (hthr : 16 * ((sensed s l).rd Fld.keyTherm_throttle : Int) ≤ (sensed s l).hottest) (hactive : (sensed s l).active = true)
    (hrun : (sensed s l).running = true) (hoff : (sensed s l).flag Fld.pwrStatus_throttling = false) :
    s.sensors l = (sensed s l).throttleEntry :=
  (if_neg fun h => (not_le.mpr htrip) h.1).trans (if_pos ⟨hthr, hactive, hrun, by rw [← sensed, hoff]; rfl⟩)

/-- A throttling millisecond at or above the threshold lowers the clock (R460). -/
theorem throttleStep_hot (hthr : s.flag Fld.pwrStatus_throttling = true) (hhot : 16 * (s.rd Fld.keyTherm_throttle : Int) ≤ s.hottest) :
    s.throttleStep = (s.after 1000000).stepDown :=
  (if_neg (by simp [hthr])).trans (if_pos hhot)

end

/-! ### The statement -/

/-- Settles O56: a measurement, GUST, the sensors by where the hottest stands to the two thresholds, throttling, and a clock that is set. -/
theorem powerAndHeatAreManaged : Obligations.PowerAndHeatAreManaged := by
  intro s
  refine ⟨fun main aux w tenMs avg aim => next_of_eq (measure_eq s main aux w avg tenMs aim),
    fun hst hrun hok hthr => if_pos ⟨hst, hrun, hok, by simp [hthr]⟩, fun hgust => if_pos hgust, fun l => ?_,
    fun hthr hhot => next_of_eq (throttleStep_hot hthr hhot), fun c n hc hn => ⟨changeClock_rd s hc, changeClock_cell s c hn⟩⟩
  exact ⟨fun htrip hthr => next_of_eq (sensors_cool htrip hthr), fun htrip hreset => next_of_eq (sensors_trip htrip hreset),
    fun htrip hthr hactive hrun hoff => next_of_eq (sensors_throttle htrip hthr hactive hrun hoff)⟩

end Sys2Proof.Machine
end

section
/-!
PROOFS. The handle table of a cell: a staged high word, and the install of both words of an entry with its check.
-/
namespace Sys2Proof.Machine

/-! ### The words of an entry (R106, R107) -/

/-- The high word that an install puts into entry `h`: the staged one, or the one that stands when none is staged. -/
def stagedHi (s : State) (n h : Nat) : Word := (SMap.get none (s.cell n).hiStage h).getD (s.reg .hndHi n h)

/-- Entry `h` with the staged high word and `lo`. -/
def withEntry (s : State) (n h : Nat) (lo : Word) : State := (s.setReg .hndHi n h (stagedHi s n h)).setReg .hndLo n h lo

/-- The handle table lies above `POOL_STATUS` in the block of its cell. -/
theorem withEntry_hndBad (s : State) (n h : Nat) (lo : Word) :
    (withEntry s n h lo).flag Fld.poolStatus_hndBad n = s.flag Fld.poolStatus_hndBad n := by
  have hstatus : Reg.poolStatus.key n 0 = 0x100000 + n * 0x10000 + 0x208 := rfl
  have hlo : Reg.poolStatus.key n 0 ≠ Reg.hndLo.key n h := by
    rw [hstatus, show Reg.hndLo.key n h = 0x100000 + n * 0x10000 + 0x400 + 0x10 * h from rfl]; omega
  have hhi : Reg.poolStatus.key n 0 ≠ Reg.hndHi.key n h := by
    rw [hstatus, show Reg.hndHi.key n h = 0x100000 + n * 0x10000 + 0x408 + 0x10 * h from rfl]; omega
  have hreg : (withEntry s n h lo).reg .poolStatus n 0 = s.reg .poolStatus n 0 :=
    (State.reg_setReg_other _ _ hlo).trans (State.reg_setReg_other _ _ hhi)
  exact congrArg (fun w => bits w 1 1 == 1) hreg

/-! ### The install and its check (R107, R108) -/

/-- The entry is installed as written or as invalid, by its check; a failed check is recorded. -/
theorem installHandle_eq (s : State) (n h : Nat) (lo : Word) :
    s.installHandle n h lo =
      let ok := !bit lo 0 || handleOk lo (stagedHi s n h)
      let t := withEntry s n h (if ok then lo else setBits lo 0 0 0)
      if ok then t
      else if t.flag Fld.poolStatus_hndBad n then t
      else (t.wr Fld.poolStatus_hndBad 1 n).wr Fld.poolStatus_hndIdx h n := (rfl)

section
variable {s : State} {n h : Nat} {lo : Word}

/-- An invalid entry, and a valid one that passes the check, is installed as written. -/
theorem installHandle_passed (hok : bit lo 0 = false ∨ handleOk lo (stagedHi s n h) = true) :
    s.installHandle n h lo = withEntry s n h lo := by
  have hcheck : (!bit lo 0 || handleOk lo (stagedHi s n h)) = true := by simpa using hok
  simp only [installHandle_eq, hcheck, if_true]

/-- An entry that fails the check is installed as invalid; its number is kept unless an earlier failure is on record. -/
theorem installHandle_failed (hvalid : bit lo 0 = true) (hfail : handleOk lo (stagedHi s n h) = false) :
    s.installHandle n h lo =
      if s.flag Fld.poolStatus_hndBad n then withEntry s n h (setBits lo 0 0 0)
      else ((withEntry s n h (setBits lo 0 0 0)).wr Fld.poolStatus_hndBad 1 n).wr Fld.poolStatus_hndIdx h n := by
  have hcheck : (!bit lo 0 || handleOk lo (stagedHi s n h)) = false := by simp [hvalid, hfail]
  simp only [installHandle_eq, hcheck, Bool.false_eq_true, if_false, withEntry_hndBad]

end

/-! ### The statement -/

/-- Settles O44: both writes reach a powered cell from inside, and an install goes by its check and by whether a failure is on record. -/
theorem handlesInstallTogether : Obligations.HandlesInstallTogether := by
  intro w n h v s hw hon
  have hinstall : exec (.hndLoWrite w n h v) s = .next (s.installHandle n h v) := next_of_eq (byFirmware_cellOn hw hon _)
  refine ⟨next_of_eq (byFirmware_cellOn hw hon _), fun hok => ?_, fun hvalid hfail hclear => ?_, fun hvalid hfail hset => ?_⟩
  · exact hinstall.trans (next_of_eq (installHandle_passed hok))
  · exact hinstall.trans (next_of_eq ((installHandle_failed hvalid hfail).trans (if_neg (by simp [hclear]))))
  · exact hinstall.trans (next_of_eq ((installHandle_failed hvalid hfail).trans (if_pos hset)))

end Sys2Proof.Machine
end

section
/-!
PROOFS. Latch instructions: what each does to a latch that its span owns, alone in its cycle or joined to one, and how a cycle's operations combine.
-/
namespace Sys2Proof.Machine

/-! ### Registers that a latch leaves alone, and that leave it (R21) -/

theorem State.counter_lt (s : State) (l : Nat) : s.counter l < 2 ^ 32 := nbits_lt _ 31 0

theorem State.target_lt (s : State) (l : Nat) : s.target l < 2 ^ 32 := nbits_lt _ 63 32

theorem latchOf_lt (w : Inst256) : bits w 31 16 < 65536 := nbits_lt _ 31 16

/-- The program counter of a cell lies below the latches of its block, and above those of the Abutment die. -/
theorem latchKey_ne_celPc {l : Nat} (hl : l < 65536) (n : Nat) : latchKey l ≠ Reg.celPc.key n 0 := by
  rw [show Reg.celPc.key n 0 = 0x100000 + n * 0x10000 + 0x20 from rfl]
  obtain hcell | habut := Nat.lt_or_ge l 57344
  · rw [latchKey_of_cell hcell]
    omega
  · rw [latchKey_of_abutment habut]
    omega

section
variable {s : State} {n l : Nat}

/-- The latch registers stay as the sequencer goes on. -/
theorem counter_advance (hl : l < 65536) : (s.advance n).counter l = s.counter l :=
  by rw [State.counter, advance_reg (latchKey_ne_celPc hl n), State.counter]

theorem target_advance (hl : l < 65536) : (s.advance n).target l = s.target l :=
  by rw [State.target, advance_reg (latchKey_ne_celPc hl n), State.target]

theorem met_advance (hl : l < 65536) : (s.advance n).met l = s.met l := by
  rw [State.met, State.met, counter_advance hl, target_advance hl]

@[simp] theorem latchOps_advance : (s.advance n).latchOps = s.latchOps := State.wr_latchOps s _ _ n 0

end

/-! ### One operation (R144, R145) -/

section
variable {s : State} {l v : Nat}

theorem applyLatch_fits_signal (h : s.counter l + v ≤ 0xFFFFFFFF) (who : Nat) :
    s.applyLatch l .signal who v = s.setLatch l (s.counter l + v) (s.target l) := by
  simp only [State.applyLatch, if_neg (Nat.not_lt.mpr h)]

theorem applyLatch_past_signal (h : 0xFFFFFFFF < s.counter l + v) (who : Nat) :
    s.applyLatch l .signal who v = (s.setLatch l 0xFFFFFFFF (s.target l)).latchError l 1 who := by
  simp only [State.applyLatch, if_pos h]

theorem applyLatch_fits_rearm (h : s.target l ≤ s.counter l) (who : Nat) :
    s.applyLatch l .rearm who v = s.setLatch l (s.counter l - s.target l) (s.target l) := by
  simp only [State.applyLatch, if_neg (Nat.not_lt.mpr h)]

theorem applyLatch_below_rearm (h : s.counter l < s.target l) (who : Nat) :
    s.applyLatch l .rearm who v = (s.setLatch l 0 (s.target l)).latchError l 2 who := by
  simp only [State.applyLatch, if_pos h]

theorem applyLatch_reset (who : Nat) : s.applyLatch l .reset who v = s.setLatch l 0 v := (rfl)

@[simp] theorem latchOps_latchError (cause who : Nat) : (s.latchError l cause who).latchOps = s.latchOps := by
  rw [State.latchError, State.logFirst, State.bump_latchOps]
  split
  · exact State.setReg_latchOps _ _ _ _ _
  · rfl

/-- An operation on a latch leaves the cycles that are open. -/
@[simp] theorem latchOps_applyLatch (k : LatchOpKind) (who : Nat) : (s.applyLatch l k who v).latchOps = s.latchOps := by
  cases k with
  | reset => rw [applyLatch_reset, State.setLatch, State.setReg_latchOps]
  | signal =>
    obtain hpast | hfits := Nat.lt_or_ge 0xFFFFFFFF (s.counter l + v)
    · rw [applyLatch_past_signal hpast, latchOps_latchError, State.setLatch, State.setReg_latchOps]
    · rw [applyLatch_fits_signal hfits, State.setLatch, State.setReg_latchOps]
  | rearm =>
    obtain hbelow | hfits := Nat.lt_or_ge (s.counter l) (s.target l)
    · rw [applyLatch_below_rearm hbelow, latchOps_latchError, State.setLatch, State.setReg_latchOps]
    · rw [applyLatch_fits_rearm hfits, State.setLatch, State.setReg_latchOps]

end

/-! ### The operations of a cycle by kind (R146) -/

/-- The later of two RESETs of a cycle: the one of the higher identity. -/
def laterReset : Option LatchOp → LatchOp → Option LatchOp
  | some x, o => if o.who < x.who then some x else some o
  | none, o => some o

theorem topReset_eq_foldl (ops : List LatchOp) : State.topReset ops = ops.foldl laterReset none := by
  rw [State.topReset]
  congr 1
  funext a o
  cases a <;> rfl

theorem mem_laterReset {a : Option LatchOp} {o y : LatchOp} (h : y ∈ laterReset a o) : y ∈ a ∨ y = o := by
  cases a with
  | none => exact .inr (Option.mem_some.mp h).symm
  | some z =>
    rw [laterReset] at h
    split at h
    · exact .inl h
    · exact .inr (Option.mem_some.mp h).symm

/-- A RESET of a higher identity than every other stands at the end. -/
theorem foldl_laterReset {x : LatchOp} {ops : List LatchOp} {a : Option LatchOp} (ha : ∀ y ∈ a, y ≠ x → y.who < x.who)
    (hops : ∀ y ∈ ops, y ≠ x → y.who < x.who) (hx : x ∈ a ∨ x ∈ ops) : ops.foldl laterReset a = some x := by
  induction ops generalizing a with
  | nil => simpa using hx
  | cons o ops ih =>
    have ho : o ≠ x → o.who < x.who := hops o (by simp)
    refine ih (fun y hy => ?_) (fun y hy => hops y (by simp [hy])) ?_
    · obtain hya | rfl := mem_laterReset hy
      · exact ha y hya
      · exact ho
    · by_cases hox : o = x
      · subst hox
        cases a with
        | none => exact .inl rfl
        | some z =>
          by_cases hz : z = o
          · simp [laterReset, hz]
          · simp [laterReset, Nat.le_of_lt (ha z rfl hz)]
      · refine hx.imp (fun hxa => ?_) (fun hxo => ?_)
        · rw [Option.mem_def.mp hxa]
          simp [laterReset, ho hox]
        · simpa [Ne.symm hox] using hxo

theorem topReset_of_highest {x : LatchOp} {ops : List LatchOp} (hx : x ∈ ops) (htop : ∀ y ∈ ops, y ≠ x → y.who < x.who) :
    State.topReset ops = some x :=
  (topReset_eq_foldl ops).trans (foldl_laterReset (by simp) htop (.inr hx))

/-- The operations of kind `k` among `ops`. -/
def ofKind (k : LatchOpKind) (ops : List LatchOp) : List LatchOp := ops.filter fun o => o.kind == k

theorem mem_ofKind {k : LatchOpKind} {ops : List LatchOp} {o : LatchOp} : o ∈ ofKind k ops ↔ o ∈ ops ∧ o.kind = k := by
  simp [ofKind]

/-- The machine with no operation of an open cycle of latch `l`. -/
def closedAt (s : State) (l : Nat) : State := { s with latchOps := s.latchOps.filter fun o => !(o.latch == l) }

/-- The RESET of a cycle that stands, applied. -/
def applyReset (s : State) (l : Nat) (r : Option LatchOp) : State :=
  match r with
  | some o => s.applyLatch l .reset o.who o.value
  | none => s

/-- The SIGNALs of a cycle, applied as one. -/
def applySignals (s : State) (l : Nat) (ops : List LatchOp) : State :=
  match ops.getLast? with
  | some o => s.applyLatch l .signal o.who (ops.map fun o => o.value).sum
  | none => s

/-- The REARMs of a cycle, applied in turn. -/
def applyRearms (s : State) (l : Nat) (ops : List LatchOp) : State := forEach ops (fun o t => t.applyLatch l .rearm o.who 0) s

/-- A cycle's operations `mine`: the RESET that stands, then the SIGNALs, then the REARMs. -/
theorem settleLatch_eq {s : State} {l : Nat} {mine : List LatchOp} (hmine : s.latchOps.filter (fun o => o.latch == l) = mine) :
    s.settleLatch l =
      applyRearms (applySignals (applyReset (closedAt s l) l (State.topReset (ofKind .reset mine))) l (ofKind .signal mine)) l
        (ofKind .rearm mine) := by
  subst hmine
  rfl

section
variable {s : State} {l : Nat}

theorem closedAt_counter : (closedAt s l).counter l = s.counter l := (rfl)

theorem closedAt_target : (closedAt s l).target l = s.target l := (rfl)

@[simp] theorem latchOps_applyReset (r : Option LatchOp) : (applyReset s l r).latchOps = s.latchOps := by
  cases r with
  | none => rfl
  | some o => exact latchOps_applyLatch .reset o.who

@[simp] theorem latchOps_applySignals (ops : List LatchOp) : (applySignals s l ops).latchOps = s.latchOps := by
  rw [applySignals]
  split
  · exact latchOps_applyLatch _ _
  · rfl

@[simp] theorem latchOps_applyRearms (ops : List LatchOp) : (applyRearms s l ops).latchOps = s.latchOps := by
  induction ops generalizing s with
  | nil => rfl
  | cons o ops ih => exact ih.trans (latchOps_applyLatch _ _)

theorem counter_applyReset (r : Option LatchOp) : (applyReset s l r).counter l = r.elim (s.counter l) fun _ => 0 := by
  cases r with
  | none => rfl
  | some o => exact s.counter_setLatch_same l 0 o.value

theorem target_applyReset (r : Option LatchOp) : (applyReset s l r).target l = r.elim (s.target l) fun o => o.value % 2 ^ 32 := by
  cases r with
  | none => rfl
  | some o => exact s.target_setLatch_same l 0 o.value

theorem applySignals_fits {ops : List LatchOp} (h : s.counter l + (ops.map fun o => o.value).sum ≤ 0xFFFFFFFF) :
    (applySignals s l ops).counter l = s.counter l + (ops.map fun o => o.value).sum ∧ (applySignals s l ops).target l = s.target l := by
  cases hlast : ops.getLast? with
  | none => simp [applySignals, List.getLast?_eq_none_iff.mp hlast]
  | some o =>
    simp only [applySignals, hlast]
    rw [applyLatch_fits_signal h, State.counter_setLatch_same, State.target_setLatch_same]
    exact ⟨Nat.mod_eq_of_lt (by omega), Nat.mod_eq_of_lt (s.target_lt l)⟩

theorem applyRearms_fits {ops : List LatchOp} (h : ops.length * s.target l ≤ s.counter l) :
    (applyRearms s l ops).counter l = s.counter l - ops.length * s.target l ∧ (applyRearms s l ops).target l = s.target l := by
  induction ops generalizing s with
  | nil => simp [applyRearms, forEach]
  | cons o ops ih =>
    rw [List.length_cons, Nat.add_one_mul] at h ⊢
    have hfirst := applyLatch_fits_rearm (s := s) (l := l) (v := 0) (by omega) o.who
    have htgt : (s.applyLatch l .rearm o.who 0).target l = s.target l := by
      rw [hfirst, State.target_setLatch_same, Nat.mod_eq_of_lt (s.target_lt l)]
    have hcnt : (s.applyLatch l .rearm o.who 0).counter l = s.counter l - s.target l := by
      have hlt := s.counter_lt l
      rw [hfirst, State.counter_setLatch_same, Nat.mod_eq_of_lt (by omega)]
    obtain ⟨hc, ht⟩ := ih (s := s.applyLatch l .rearm o.who 0) (by rw [htgt, hcnt]; omega)
    refine ⟨hc.trans ?_, ht.trans htgt⟩
    rw [htgt, hcnt]
    omega

/-- A cycle whose counts pass no limit: RESET `r` stands, the SIGNALs add up, the REARMs subtract. -/
theorem settleLatch_fits {r : Option LatchOp} {mine : List LatchOp} (hmine : s.latchOps.filter (fun o => o.latch == l) = mine)
    (hr : State.topReset (ofKind .reset mine) = r)
    (hsum : (r.elim (s.counter l) fun _ => 0) + ((ofKind .signal mine).map fun o => o.value).sum ≤ 0xFFFFFFFF)
    (hrearm : (ofKind .rearm mine).length * (r.elim (s.target l) fun o => o.value % 2 ^ 32) ≤
      (r.elim (s.counter l) fun _ => 0) + ((ofKind .signal mine).map fun o => o.value).sum) :
    (s.settleLatch l).counter l = (r.elim (s.counter l) fun _ => 0) + ((ofKind .signal mine).map fun o => o.value).sum -
      (ofKind .rearm mine).length * (r.elim (s.target l) fun o => o.value % 2 ^ 32) ∧
    (s.settleLatch l).target l = r.elim (s.target l) fun o => o.value % 2 ^ 32 := by
  rw [settleLatch_eq hmine, hr]
  have hc := counter_applyReset (s := closedAt s l) (l := l) r
  have ht := target_applyReset (s := closedAt s l) (l := l) r
  generalize applyReset (closedAt s l) l r = u at *
  rw [closedAt_counter] at hc
  rw [closedAt_target] at ht
  rw [← hc] at hsum
  obtain ⟨hsc, hst⟩ := applySignals_fits hsum
  rw [← hc, ← ht, ← hsc, ← hst] at hrearm ⊢
  exact applyRearms_fits hrearm

end

/-! ### An operation that reaches its latch (R146; log entry 59) -/

/-- The machine once operation `o` has joined the cycle of its latch. -/
def joinCycle (s : State) (o : LatchOp) : State := { s with latchOps := s.latchOps ++ [o] }

section
variable {s : State} {l : Nat}

theorem filter_joinCycle (h : ∀ o ∈ s.latchOps, o.latch ≠ l) (k : LatchOpKind) (who v : Nat) :
    (joinCycle s { latch := l, kind := k, who, value := v }).latchOps.filter (fun o => o.latch == l) =
      [{ latch := l, kind := k, who, value := v }] := by
  have hnone : s.latchOps.filter (fun o => o.latch == l) = [] := List.filter_eq_nil_iff.mpr (by simpa using h)
  simp [joinCycle, hnone]

theorem closedAt_joinCycle (h : ∀ o ∈ s.latchOps, o.latch ≠ l) (k : LatchOpKind) (who v : Nat) :
    closedAt (joinCycle s { latch := l, kind := k, who, value := v }) l = s := by
  have hall : s.latchOps.filter (fun o => !(o.latch == l)) = s.latchOps := List.filter_eq_self.mpr (by simpa using h)
  simp [closedAt, joinCycle, hall]

/-- An operation that no other joins is the whole of its cycle. -/
theorem latchOp_alone (h : ∀ o ∈ s.latchOps, o.latch ≠ l) (k : LatchOpKind) (who v : Nat) :
    s.latchOp l k who v false = (s.applyLatch l k who v).evalLatch l := by
  have hsettle := settleLatch_eq (filter_joinCycle h k who v)
  rw [closedAt_joinCycle h] at hsettle
  refine congrArg (State.evalLatch · l) (hsettle.trans ?_)
  cases k with
  | reset => rfl
  | signal => simp [ofKind, applyRearms, applySignals, applyReset, forEach, State.topReset]
  | rearm => rfl

/-- An operation marked with more of its cycle only joins it, as the sequencer goes on. -/
theorem latchOp_more (n : Nat) (k : LatchOpKind) (who v : Nat) :
    (s.advance n).latchOp l k who v true =
      { s.advance n with latchOps := s.latchOps ++ [{ latch := l, kind := k, who, value := v }] } := by
  rw [← latchOps_advance (s := s) (n := n)]
  rfl

/-- No cycle of the latch is open, so none is closed. -/
theorem closeOpen_none (h : ∀ o ∈ s.latchOps, o.latch ≠ l) : s.closeOpen l = s := if_neg (by simpa using h)

end

/-! ### Latch instructions of a sequencer that stands ready (R73, R77) -/

section
variable {n : Nat} {w : Inst256} {s : State} {noValue noZero : Bool}

/-- A latch instruction without a fault of R78, on a latch in the ranges of its span, goes on and has its effect. -/
theorem latchInst_owned (h : s.ready n) (hop : reservedOp (bits w 7 0) = false) (hz : bits w 15 8 = 0) (hhi : bits w 255 64 = 0)
    (hval : noValue = true → bits w 63 32 = 0) (hnz : noZero = true → bits w 63 32 ≠ 0)
    (hown : s.ownsLatch (s.cellSpan n) (bits w 31 16) = true) (f : Nat → Nat → State → State) :
    s.latchInst n w noValue noZero f = f (bits w 31 16) (bits w 63 32) (s.advance n) := by
  rw [State.latchInst, issue_ready _ h, if_neg (by simp [hop]), if_neg (by simpa [hz, hhi] using ⟨hval, hnz⟩),
    if_neg (by simp [hown])]

end

section
variable {n : CellId} {w : Inst256} {s : State} (h : s.ready n) (hop : reservedOp (bits w 7 0) = false) (hz : bits w 15 8 = 0)
  (hhi : bits w 255 64 = 0) (hown : s.ownsLatch (s.cellSpan n) (bits w 31 16) = true)
include h hop hz hhi hown

theorem exec_owned_signal (hv : bits w 63 32 ≠ 0) (more : Bool) :
    exec (.signal n ⟨w, more⟩) s = .next ((s.advance n).latchOp (bits w 31 16) .signal (cellIdent n) (bits w 63 32) more) :=
  next_of_eq (latchInst_owned h hop hz hhi (by simp) (fun _ => hv) hown _)

theorem exec_owned_reset (more : Bool) :
    exec (.reset n ⟨w, more⟩) s = .next ((s.advance n).latchOp (bits w 31 16) .reset (cellIdent n) (bits w 63 32) more) :=
  next_of_eq (latchInst_owned h hop hz hhi (by simp) (by simp) hown _)

theorem exec_owned_rearm (hv : bits w 63 32 = 0) (more : Bool) :
    exec (.rearm n ⟨w, more⟩) s = .next ((s.advance n).latchOp (bits w 31 16) .rearm (cellIdent n) 0 more) :=
  next_of_eq (latchInst_owned h hop hz hhi (fun _ => hv) (by simp) hown _)

theorem exec_owned_wait (hv : bits w 63 32 = 0) (more : Bool) :
    exec (.wait n ⟨w, more⟩) s = .next ((s.advance n).waitOn n (bits w 31 16) more) :=
  next_of_eq (latchInst_owned h hop hz hhi (fun _ => hv) (by simp) hown _)

end

/-! ### WAIT (R147, R148) -/

section
variable {s : State} {n l : Nat}

theorem waitOn_met (hops : ∀ o ∈ s.latchOps, o.latch ≠ l) (hhome : State.latchHome l = n) (hmet : s.met l = true) :
    s.waitOn n l false = s := by
  simp [State.waitOn, closeOpen_none hops, hhome, hmet]

theorem waitOn_unmet (hops : ∀ o ∈ s.latchOps, o.latch ≠ l) (hhome : State.latchHome l = n) (hmet : s.met l = false) :
    s.waitOn n l false = s.seqWaits n l := by
  simp [State.waitOn, closeOpen_none hops, hhome, hmet]

theorem waitOn_remote (hops : ∀ o ∈ s.latchOps, o.latch ≠ l) (hhome : State.latchHome l ≠ n) :
    s.waitOn n l false = (s.seqWaits n l).register n l .seq := by
  simp [State.waitOn, closeOpen_none hops, hhome]

end

/-! ### The statements -/

/-- Settles O39: an instruction alone in its cycle comes down to one operation on its latch, one marked with more joins the cycle, and a cycle
that ends is `settleLatch_fits`. -/
theorem latchInstructionsTakeEffect : Obligations.LatchInstructionsTakeEffect := by
  constructor
  · intro n w s h hop hz hhi l v t shown hown
    refine ⟨fun hops => ?_, ?_⟩
    · have hl : l < 65536 := latchOf_lt w
      have hcnt : t.counter l = s.counter l := counter_advance hl
      have htgt : t.target l = s.target l := target_advance hl
      have hmet : t.met l = s.met l := met_advance hl
      have hops : ∀ o ∈ t.latchOps, o.latch ≠ l := by rwa [latchOps_advance]
      refine ⟨fun hv hfits => ?_, ?_, fun hv hfits => ?_, fun hv hhome hm => ?_, fun hv hhome hm => ?_, fun hv hhome => ?_⟩
      · rw [exec_owned_signal h hop hz hhi hown hv, latchOp_alone hops, applyLatch_fits_signal (by rw [hcnt]; exact hfits), hcnt, htgt]
      · rw [exec_owned_reset h hop hz hhi hown, latchOp_alone hops, applyLatch_reset]
      · rw [exec_owned_rearm h hop hz hhi hown hv, latchOp_alone hops, applyLatch_fits_rearm (by rw [hcnt, htgt]; exact hfits), hcnt, htgt]
      · rw [exec_owned_wait h hop hz hhi hown hv, waitOn_met hops hhome (hmet.trans hm)]
      · rw [exec_owned_wait h hop hz hhi hown hv, waitOn_unmet hops hhome (hmet.trans hm)]
        rfl
      · rw [exec_owned_wait h hop hz hhi hown hv, waitOn_remote hops hhome]
        rfl
    · exact ⟨fun hv => (exec_owned_signal h hop hz hhi hown hv true).trans (next_of_eq (latchOp_more n _ _ _)),
        (exec_owned_reset h hop hz hhi hown true).trans (next_of_eq (latchOp_more n _ _ _)),
        fun hv => (exec_owned_rearm h hop hz hhi hown hv true).trans (next_of_eq (latchOp_more n _ _ _))⟩
  · intro s l r _ mine rearms top sum tgt htop hsum hrearm
    have htopReset : State.topReset (ofKind .reset mine) = r := by
      cases r with
      | none =>
        have hnone : ofKind .reset mine = [] := List.filter_eq_nil_iff.mpr (by simpa using htop)
        rw [hnone]
        rfl
      | some x =>
        obtain ⟨hx, hkind, hhigh⟩ := htop
        exact topReset_of_highest (mem_ofKind.mpr ⟨hx, hkind⟩) fun y hy => hhigh y (mem_ofKind.mp hy).1 (mem_ofKind.mp hy).2
    obtain ⟨hc, ht⟩ := settleLatch_fits rfl htopReset hsum hrearm
    exact ⟨hc, ht, by simp [settleLatch_eq rfl, closedAt]⟩

/-- Settles O40: past its limits an operation holds its count and logs the error, alone in its cycle. -/
theorem latchesHoldAtTheirLimits : Obligations.LatchesHoldAtTheirLimits := by
  intro n w s h hop hz hhi l v t logged hown hops
  have hl : l < 65536 := latchOf_lt w
  have hcnt : t.counter l = s.counter l := counter_advance hl
  have htgt : t.target l = s.target l := target_advance hl
  have hops : ∀ o ∈ t.latchOps, o.latch ≠ l := by rwa [latchOps_advance]
  have hlogged : ∀ (u : State) (cause : Nat), u.latchError l cause (cellIdent n) = logged u cause := fun _ _ => rfl
  refine ⟨fun hv hpast => ?_, fun hv hbelow => ?_⟩
  · rw [exec_owned_signal h hop hz hhi hown hv, latchOp_alone hops, applyLatch_past_signal (by rw [hcnt]; exact hpast), htgt, hlogged]
  · rw [exec_owned_rearm h hop hz hhi hown hv, latchOp_alone hops, applyLatch_below_rearm (by rw [hcnt, htgt]; exact hbelow), htgt, hlogged]

end Sys2Proof.Machine
end

section
/-!
PROOFS. Tile moves: how MOVE and pushed descriptors are issued, when a move completes and with what status, legs that deliver, and flit replays.
-/
namespace Sys2Proof.Machine

/-! ### Descriptors issued (R139, R142) -/

/-- A MOVE through a linear pool handle that holds its descriptors issues them in order (R110, R139). -/
theorem moveInst_issues {s : State} {n : Nat} {w : Inst256} {v : View} {errs : ReadErrs} (h : s.ready n)
    (hop : reservedOp (bits w 7 0) = false) (hz : bits w 15 14 = 0) (hhi : bits w 255 40 = 0) (hmin : 1 ≤ bits w 39 32)
    (hmax : bits w 39 32 ≤ 64) (hhaz : hazard (s.cell n).jobs [bits w 13 8] [] = false) (hpar : errs.parity = none)
    (hv : s.resolve n (bits w 13 8) = some v) (hmem : v.mem = 0) (hmode : v.rmode = 0)
    (hholds : v.holds (bits w 31 16 * 64) (bits w 39 32 * 64) = true) :
    s.moveInst n w errs = ((s.advance n).corrected n errs.corrected).issueMoves n v
      { errs with bad := errs.bad.map fun e => (e.1, bits w 31 16 + e.2.1, e.2.2) } (bits w 31 16) (bits w 39 32) := by
  have hword : ¬(bits w 15 14 ≠ 0 ∨ bits w 255 40 ≠ 0 ∨ bits w 39 32 = 0 ∨ 64 < bits w 39 32) := by omega
  rw [State.moveInst, issue_ready _ h, if_neg (by simp [hop]), if_neg hword, if_neg (by simp [hhaz]), if_neg (by simp [hpar])]
  simp only [hv]
  rw [if_pos ⟨hmem, hmode, hholds⟩]

/-- A descriptor of steward firmware or of a step sequencer goes to the tier engine (R142; log entry 67). -/
theorem exec_move_pushed {who : Ident} (hwho : (0x10 ≤ who.toNat ∧ who.toNat ≤ 0x17) ∨ (0x30 ≤ who.toNat ∧ who.toNat ≤ 0x37)) (n : CellId)
    (w : Inst256) (errs : ReadErrs) (d : BitVec 512) (s : State) :
    exec (.move n ⟨w, errs, some (who, d)⟩) s = .next (s.pushMove who.toNat d) := if_pos hwho

/-! ### When a move can complete (R136, R143) -/

section
variable {s : State} {e : Nat} {m : Move}

/-- Whether an object that a move names is lost. -/
def lostObj (s : State) (m : Move) : Bool := (descObjs m.desc).any fun o => (s.obj o).e.st == stLost

theorem canComplete_failed (h : m.failed = true ∨ lostObj s m = true) : s.canComplete e m = true := by
  obtain hfail | hlost := h
  · simp [State.canComplete, hfail]
  · rw [lostObj] at hlost
    simp [State.canComplete, hlost]

/-- Nothing holds a move back that waits on no latch, leg, earlier move or dual pair, and whose held writes, if any, are done. -/
theorem canComplete_free (hwait : m.waiting = false) (hlegs : m.legs = 0) (hbehind : s.behind e m = false) (harr : s.arrayHolds m = false)
    (hheld : m.held = none ∨ s.dstMoving m = false) : s.canComplete e m = true := by
  have hwrites : (m.held.isSome && s.dstMoving m) = false := by
    obtain hnone | hstill := hheld
    · simp [hnone]
    · simp [hstill]
  simp [State.canComplete, hwait, hlegs, hbehind, harr, hwrites]

/-! ### How it completes (R136, R137, R165) -/

theorem completeMove_failed (h : m.failed = true ∨ lostObj s m = true) (errs : List (Nat × EccOutcome)) :
    s.completeMove e m errs = s.endMove e m 0x11 := if_pos (by simpa [lostObj] using h)

theorem completeMove_held {st : Nat} (hfail : m.failed = false) (hlost : lostObj s m = false) (hheld : m.held = some st)
    (errs : List (Nat × EccOutcome)) : s.completeMove e m errs = s.endMove e m st := by
  rw [lostObj] at hlost
  simp [State.completeMove, hfail, hlost, hheld]

/-- The status of a move whose data have been carried over (R138). -/
def carriedStatus (m : Move) : Nat := if m.poison then 0x02 else if m.fmtExc + m.codErr ≠ 0 then 0x01 else 0x00

theorem completeMove_carries (hfail : m.failed = false) (hlost : lostObj s m = false) (hheld : m.held = none)
    (errs : List (Nat × EccOutcome)) :
    s.completeMove e m errs =
      (let r := s.carryAll e m false errs (Desc.count m.desc - m.done)
       if r.2.dstMoving r.1 then r.2.putMove e { r.1 with held := some (carriedStatus r.1) } else r.2.endMove e r.1 (carriedStatus r.1)) := by
  rw [lostObj] at hlost
  simp only [State.completeMove, hfail, hlost, Bool.or_self, Bool.false_eq_true, if_false, hheld, carriedStatus]

/-- A move whose reads meet no error just completes. -/
theorem finishMove_clean (s : State) (e : Nat) (m : Move) : s.finishMove e m [] = s.completeMove e m [] := (rfl)

end

/-! ### MOVE_COMPLETE (R136) -/

section
variable {s : State} {n : Fin 57} {i : Nat} (hfence : n.val < 56 → s.cellFenced n = false)
include hfence

theorem not_fenced : ¬((decide (n.val < 56) && s.cellFenced n) = true) := by simpa using hfence

/-- A move in flight that can complete does so, with the replay counts of its links afresh (log entry 40). -/
theorem exec_moveComplete_move {m : Move} (hm : (s.movesOf n)[i]? = some m) (hcan : s.canComplete n m = true)
    (errs : List (Nat × EccOutcome)) : exec (.moveComplete n ⟨i, errs⟩) s = .next ((s.linksFresh n).finishMove n m errs) := by
  show execMoveComplete n ⟨i, errs⟩ s = _
  simp only [execMoveComplete, if_neg (not_fenced hfence), hm, hcan, if_true]

/-- A piece that a walker has delivered completes like a move (R342). -/
theorem exec_moveComplete_piece {p : PieceMove} (hm : (s.movesOf n)[i]? = none)
    (hp : (s.piecesTo n)[i - (s.movesOf n).length]? = some p) (hleg : p.leg = false)
    (hdual : State.inWeights p.view = true → s.dualRuns n = false) (errs : List (Nat × EccOutcome)) :
    exec (.moveComplete n ⟨i, errs⟩) s = .next ((s.linksFresh n).finishPiece p errs) := by
  have hfree : ¬((p.leg || (State.inWeights p.view && s.dualRuns n)) = true) := by simpa [hleg] using hdual
  show execMoveComplete n ⟨i, errs⟩ s = _
  simp only [execMoveComplete, if_neg (not_fenced hfence), hm, hp, if_neg hfree]

end

/-! ### Legs and flits (R129, R168) -/

/-- The next leg of its move delivers (R168). -/
theorem exec_fetchLegComplete_next {s : State} {leg : Nat} {l : Leg} (hl : s.tier.legs.find? (fun l => l.id == leg) = some l)
    (hnext : s.legNext l = true) (ns : Nat) (bad : Bool) :
    exec (.fetchLegComplete leg ns bad) s = .next ((s.legDone l ns (bad || l.bad)).runJobs) := by
  show execFetchLegComplete leg ns bad s = _
  simp only [execFetchLegComplete, hl, hnext, if_true]

/-- Number of the link of router `n` in direction `dir` (log entry 70). -/
def linkOf (n : CellId) (dir : Fin 5) : Nat := n.val * 5 + dir.val

/-- A replay counted and flagged, one more in a row on link `k` (R129). -/
def replayed (s : State) (k : Nat) : State :=
  { (s.bump Fld.mshLinkRetry_count).wr Fld.mshStatus_linkRetry 1 with meshRetry := SMap.put 0 s.meshRetry k (SMap.get 0 s.meshRetry k + 1) }

/-- The count and the flag of replays leave the flag of a link that is down. -/
theorem linkDown_replayed (s : State) (k : Nat) :
    (replayed s k).flag Fld.mshStatus_linkDown = s.flag Fld.mshStatus_linkDown := by
  have hfield : ((s.bump Fld.mshLinkRetry_count).wr Fld.mshStatus_linkRetry 1).rd Fld.mshStatus_linkDown =
      (s.bump Fld.mshLinkRetry_count).rd Fld.mshStatus_linkDown := State.rd_wr_field _ rfl (by decide) (by decide) (by decide)
  have hreg : (s.bump Fld.mshLinkRetry_count).rd Fld.mshStatus_linkDown = s.rd Fld.mshStatus_linkDown :=
    State.rd_wr_other _ (by decide)
  exact congrArg (· == 1) (hfield.trans hreg)

theorem exec_flitCrcFail (n : CellId) (dir : Fin 5) (s : State) :
    exec (.flitCrcFail n dir) s =
      if SMap.get 0 s.meshRetry (linkOf n dir) + 1 < 16 || (replayed s (linkOf n dir)).flag Fld.mshStatus_linkDown then
        .next (replayed s (linkOf n dir))
      else .next ((((replayed s (linkOf n dir)).wr Fld.mshStatus_linkDown 1).keyFault 0x06 0 (linkOf n dir)).requestReset .meshLink) := (rfl)

/-! ### The statement -/

/-- Settles O47: MOVE and pushes by how they are issued, MOVE_COMPLETE by whether the move has failed, has its data to carry or its writes held,
legs and flits as they come. -/
theorem movesIssueAndComplete : Obligations.MovesIssueAndComplete := by
  intro s
  refine ⟨?_, ?_, ?_, ?_, ?_, ?_⟩
  · intro n w v errs h hop hz hhi hmin hmax hhaz hpar hv hmem hmode hholds
    exact next_of_eq (moveInst_issues h hop hz hhi hmin hmax hhaz hpar hv hmem hmode hholds)
  · intro n w errs who d hwho
    exact ⟨fun hroom => (exec_move_pushed hwho n w errs d s).trans (next_of_eq (if_pos hroom)),
      fun hfull => (exec_move_pushed hwho n w errs d s).trans (next_of_eq (if_neg (by simp [hfull])))⟩
  · intro n i m errs hm hfence t lost
    refine ⟨fun hdead => ?_, fun hfail hlost hwait hlegs hbehind harr hheld => ?_, fun st hfail hlost hwait hlegs hbehind harr hheld hstill => ?_⟩
    · exact (exec_moveComplete_move hfence hm (canComplete_failed hdead) []).trans (next_of_eq (completeMove_failed (s := t) hdead []))
    · have hdone := exec_moveComplete_move hfence hm (canComplete_free hwait hlegs hbehind harr (.inl hheld))
      exact ⟨(hdone []).trans (next_of_eq (completeMove_carries (s := t) hfail hlost hheld [])), hdone errs⟩
    · have hdone := exec_moveComplete_move hfence hm (canComplete_free hwait hlegs hbehind harr (.inr hstill)) []
      exact hdone.trans (next_of_eq (completeMove_held (s := t) hfail hlost hheld []))
  · intro n i p hm hp hfence hleg hdual
    exact exec_moveComplete_piece hfence hm hp hleg hdual []
  · intro leg ns bad l hl hnext
    exact exec_fetchLegComplete_next hl hnext ns bad
  · intro n dir k c t
    refine ⟨fun hfew => ?_, fun hmany hup => ?_⟩
    · exact (exec_flitCrcFail n dir s).trans (if_pos (by simpa using .inl hfew))
    · have hmany : ¬(SMap.get 0 s.meshRetry (linkOf n dir) + 1 < 16) := Nat.not_lt.mpr hmany
      exact (exec_flitCrcFail n dir s).trans (if_neg (by simpa [linkDown_replayed, hup] using hmany))

end Sys2Proof.Machine
end

section
/-!
PROOFS. Objects between the tiers: the end of an object's move, evictions, and completion timeouts of T3 legs.
-/
namespace Sys2Proof.Machine

/-! ### The end of a move that the tier engine carries (R142, R164) -/

section
variable {s : State} {o : Nat}

/-- With its slot, its tiles and no read against its old home, the move ends at the new home. -/
theorem moveEnd_arrives (hst : (s.obj o).e.st = stMoving) (hload : (s.obj o).load = 0) (hslot : (s.obj o).slot = true)
    (hgot : (s.obj o).byLegs = true → (s.obj o).e.tiles ≤ (s.obj o).got) (hreads : s.readsOut o = false) :
    s.moveEnd o = (s.copyHome o).arrive o := by
  have hdone : ¬((s.obj o).byLegs = true ∧ (s.obj o).got < (s.obj o).e.tiles) := fun ⟨hlegs, hlt⟩ => Nat.not_lt.mpr (hgot hlegs) hlt
  refine if_neg ?_
  simp only [hst, hload, hslot, hreads, hdone]
  simp

/-- Poisoned lines of T1 change no object. -/
@[simp] theorem obj_poisonT1 (s : State) (a : Nat) (js : List Nat) (o : Nat) : (s.poisonT1 a js).obj o = s.obj o := by
  rw [State.poisonT1]
  split <;> rfl

/-- Poisoned lines of T1 change no read of an object. -/
@[simp] theorem readsOut_poisonT1 (s : State) (a : Nat) (js : List Nat) (o : Nat) : (s.poisonT1 a js).readsOut o = s.readsOut o := by
  rw [State.poisonT1]
  split <;> rfl

/-- The lines of an object's reads that are uncorrectable. -/
def badLines (errs : List (Nat × EccOutcome)) : List Nat := errs.filterMap fun e => match e.2 with | .uncorrectable _ _ => some e.1 | _ => none

/-- From any home but T1 the end of a move reads no line of T1. -/
theorem finishObj_remote (h : (s.obj o).e.home ≠ 1) (errs : List (Nat × EccOutcome)) : s.finishObj o errs = s.moveEnd o := if_pos h

/-- From T1, lines that are uncorrectable are poisoned first, and what the reads meet is told to its channel at the end (R180, R181). -/
theorem finishObj_T1 (h : (s.obj o).e.home = 1) (errs : List (Nat × EccOutcome)) :
    s.finishObj o errs =
      forEach errs (fun e t => t.dramRead ((s.obj o).e.addr + e.1 * 64) e.2) ((s.poisonT1 (s.obj o).e.addr (badLines errs)).moveEnd o) := by
  refine (if_neg (by simp [h])).trans ?_
  rfl

theorem finishObj_clean : s.finishObj o [] = s.moveEnd o := by
  by_cases h : (s.obj o).e.home = 1
  · exact finishObj_T1 h []
  · exact finishObj_remote h []

/-- An object that no adapter load carries ends its move by itself. -/
theorem objectMoveEnd_plain (h : (s.obj o).pack = none) (errs : List (Nat × EccOutcome)) :
    s.objectMoveEnd o errs = (s.finishObj o errs).drainArrivals o := by
  rw [State.objectMoveEnd]
  simp only [h]

/-- A factor of a running adapter load takes its bytes from the pack (R366). -/
theorem objectMoveEnd_factor {src off : Nat} (h : (s.obj o).pack = some (src, off)) (hst : (s.obj o).e.st = stMoving)
    (hop : (s.op ((s.obj o).load - 1)).st = 0) (hsrc : (s.obj src).e.st = stResident ∨ (s.obj src).e.st = stMoving)
    (errs : List (Nat × EccOutcome)) :
    s.objectMoveEnd o errs =
      (let n := (s.obj o).e.bytes
       let t := (s.dramWrite (s.obj o).destAddr (s.objRead src off n)).poisonT1 (s.obj o).destAddr (s.objPoison src off n)
       ((t.arrive o).modOp ((s.obj o).load - 1) fun q => { q with done := q.done + n }).adapterLoaded ((s.obj o).load - 1)) := by
  rw [State.objectMoveEnd]
  simp only [h]
  rw [if_neg (by simp [hst, hop]), if_neg (by simpa [or_iff_not_imp_left] using hsrc)]

/-! ### Evictions (R165, R173) -/

theorem evict_moving (h : (s.obj o).e.st = stMoving) (tier : Nat) :
    s.evict o tier = (s.modObj o fun x => { x with e := { x.e with defer := true }, deferTo := tier }).bump Fld.tieDeferCnt_count := if_pos h

theorem resident_not_moving (h : (s.obj o).e.st = stResident) : (s.obj o).e.st ≠ stMoving := by rw [h]; decide

/-- A pinned object stays where it is. -/
theorem evict_pinned (h : (s.obj o).e.st = stResident) (hpins : (s.obj o).e.pins ≠ 0) (tier : Nat) : s.evict o tier = s := by
  rw [State.evict, if_neg (resident_not_moving h), if_neg (fun ⟨_, hfree, _⟩ => hpins hfree)]

theorem evict_placed {tier : Nat} {t : State} (h : (s.obj o).e.st = stResident) (hpins : (s.obj o).e.pins = 0)
    (hev : s.evictable o tier = true) (ht : s.placeObj o tier 0 none = some t) : s.evict o tier = t := by
  rw [State.evict, if_neg (resident_not_moving h), if_pos ⟨h, hpins, hev⟩, ht, Option.getD_some]

end

/-! ### Completion timeouts (R502) -/

theorem exec_t3CompletionTimeout {s : State} {leg : Nat} {l : Leg} (hl : s.tier.legs.find? (fun l => l.id == leg && l.tier == 3) = some l) :
    exec (.t3CompletionTimeout leg) s = .next (s.t3Timeout l) := by
  show execT3CompletionTimeout leg s = _
  simp only [execT3CompletionTimeout, hl]

/-! ### The statement -/

/-- Settles O48: the end of a move by what carries the object and where its reads lie, an eviction by the object's state and pins, a timeout by
its leg. -/
theorem objectsMoveBetweenTiers : Obligations.ObjectsMoveBetweenTiers := by
  intro s o
  refine ⟨fun hpack hst hload hslot hgot hreads => ?_, ?_, ?_, ?_, ?_, ?_⟩
  · have hend : ∀ a js, (s.poisonT1 a js).moveEnd o = ((s.poisonT1 a js).copyHome o).arrive o := fun a js =>
      moveEnd_arrives (by simpa using hst) (by simpa using hload) (by simpa using hslot) (by simpa using hgot) (by simpa using hreads)
    have harrive := moveEnd_arrives hst hload hslot hgot hreads
    refine ⟨next_of_eq ?_, fun errs => ?_⟩
    · rw [objectMoveEnd_plain hpack, finishObj_clean, harrive]
    · refine ⟨fun hhome => next_of_eq ?_, fun hhome => next_of_eq ?_⟩
      · rw [objectMoveEnd_plain hpack, finishObj_remote hhome, harrive]
      · rw [objectMoveEnd_plain hpack, finishObj_T1 hhome, hend]
        rfl
  · intro src off errs hpack hst hop hsrc
    exact next_of_eq (objectMoveEnd_factor hpack hst hop hsrc errs)
  · exact fun tier hst => next_of_eq (evict_moving hst tier)
  · exact fun tier hst hpins => next_of_eq (evict_pinned hst hpins tier)
  · exact fun tier t hst hpins hev ht => next_of_eq (evict_placed hst hpins hev ht)
  · exact fun leg l hl => exec_t3CompletionTimeout hl

end Sys2Proof.Machine
end

section
/-!
PROOFS. The object commands: a window or buffer registered, an object queried or placed, a buffer revoked.
-/
namespace Sys2Proof.Machine

/-- The object that OBJ_PLACE or OBJ_REVOKE names. -/
abbrev namedObj (s : State) (pkt : Packet) : Obj := s.obj (pkt.fld 0 4)

/-- An entry of the directory that is not FREE may be named (R158). -/
theorem namedObj_exists {s : State} {pkt : Packet} (ho : pkt.fld 0 4 < 131072) (hst : (namedObj s pkt).e.st ≠ 0) :
    ¬(131072 ≤ pkt.fld 0 4 ∨ (namedObj s pkt).e.st = 0) := not_or.mpr ⟨Nat.not_le.mpr ho, hst⟩

/-! ### OBJ_REGISTER (R158, R159, R174) -/

/-- The kind of an OBJ_REGISTER: 0 a window, 1 a data object. -/
def regKind (pkt : Packet) : Nat := pkt.fld 0x11 1

/-- Tile bytes of the format, MX flag and Gust variant of an OBJ_REGISTER (R159). -/
def regTile (pkt : Packet) : Nat := tileBytes (pkt.fld 0x12 1) ((pkt.fld 0x13 1).testBit 0) (pkt.fld 0x13 1 / 2 % 8)

/-- What the tiles field of the entry of an OBJ_REGISTER counts: tiles, or the pages of a window (R174). -/
def regUnit (pkt : Packet) : Nat := if regKind pkt = 1 then regTile pkt else 4096

/-- The entry that an OBJ_REGISTER of port `p` makes. -/
def registered (p : Nat) (pkt : Packet) : Obj where
  e := { st := stResident, home := 3, window := regKind pkt == 0, fmt := if regKind pkt = 1 then pkt.fld 0x12 1 else 0,
         mx := regKind pkt == 1 && (pkt.fld 0x13 1).testBit 0, gust := if regKind pkt = 1 then pkt.fld 0x13 1 / 2 % 8 else 0,
         grant := pkt.fld 0x10 1, owner := portIdent p, ro := regKind pkt == 1 && (pkt.fld 0x13 1).testBit 4, addr := pkt.fld 0 8,
         tiles := pkt.fld 8 8 / regUnit pkt }
  buffer := if regKind pkt = 1 then pkt.fld 0 8 + 1 else 0

/-- The kind, format and Gust variant of an OBJ_REGISTER stand in their tables, and a data object has a tile size. -/
structure RegFormed (pkt : Packet) : Prop where
  kind : regKind pkt ≤ 1
  flags : pkt.fld 0x13 1 < 32
  fmt : fmtOk (pkt.fld 0x12 1) = true
  gust : pkt.fld 0x13 1 / 2 % 8 ≤ 4
  tile : regKind pkt = 1 → regTile pkt ≠ 0

/-- The address and length of an OBJ_REGISTER keep the rules of R174 and fit their fields. -/
structure RegInRange (pkt : Packet) : Prop where
  addr : pkt.fld 0 8 % 4096 = 0
  pages : pkt.fld 8 8 % 4096 = 0
  nonempty : pkt.fld 8 8 ≠ 0
  top : pkt.fld 0 8 + pkt.fld 8 8 ≤ 2 ^ 64
  tiles : regKind pkt = 1 → pkt.fld 8 8 % regTile pkt = 0
  count : pkt.fld 8 8 / regUnit pkt < 2 ^ 32

theorem objRegister_allocates {s t : State} {c : Caller} {pkt : Packet} {n : Nat} (hf : RegFormed pkt) (hr : RegInRange pkt)
    (halloc : s.allocObj (registered c.port pkt) = some (n, t)) :
    s.objRegister c pkt = t.final c 0x00 0 (leBytes 4 n ++ leBytes 4 0) := by
  have hformed : ¬(1 < regKind pkt ∨ 32 ≤ pkt.fld 0x13 1 ∨ (!fmtOk (pkt.fld 0x12 1)) = true ∨ 4 < pkt.fld 0x13 1 / 2 % 8 ∨
      (regKind pkt = 1 ∧ regTile pkt = 0)) := by
    rintro (h | h | h | h | ⟨hk, h⟩)
    · exact absurd hf.kind (Nat.not_le.mpr h)
    · exact absurd hf.flags (Nat.not_lt.mpr h)
    · simp [hf.fmt] at h
    · exact absurd hf.gust (Nat.not_le.mpr h)
    · exact hf.tile hk h
  have hrange : ¬(pkt.fld 0 8 % 4096 ≠ 0 ∨ pkt.fld 8 8 % 4096 ≠ 0 ∨ pkt.fld 8 8 = 0 ∨ 2 ^ 64 < pkt.fld 0 8 + pkt.fld 8 8 ∨
      (regKind pkt = 1 ∧ pkt.fld 8 8 % regTile pkt ≠ 0) ∨ 2 ^ 32 ≤ pkt.fld 8 8 / regUnit pkt) := by
    rintro (h | h | h | h | ⟨hk, h⟩ | h)
    · exact h hr.addr
    · exact h hr.pages
    · exact hr.nonempty h
    · exact absurd hr.top (Nat.not_le.mpr h)
    · exact h (hr.tiles hk)
    · exact absurd hr.count (Nat.not_lt.mpr h)
  refine (if_neg hformed).trans ((if_neg hrange).trans ?_)
  show (match s.allocObj (registered c.port pkt) with
    | none => s.fin c 0x34
    | some (n, t) => t.final c 0x00 0 (leBytes 4 n ++ leBytes 4 0)) = _
  rw [halloc]

/-! ### OBJ_PLACE (R164, R175) -/

section
variable {s : State} {c : Caller} {pkt : Packet} (ho : pkt.fld 0 4 < 131072) (hst : (namedObj s pkt).e.st ≠ 0)
  (hmay : s.mayPlace c.port (namedObj s pkt).e = true) (htier : pkt.fld 4 1 ≤ 3)
include ho hst hmay htier

/-- A query reports the entry, whatever its state. -/
theorem objPlace_query (hq : pkt.query = true) : s.objPlace c pkt = s.final c 0x00 0 (namedObj s pkt).e.encode := by
  rw [State.objPlace, if_neg (namedObj_exists ho hst), if_neg (by simp [hmay]), if_neg (Nat.not_lt.mpr htier), if_pos hq]

/-- A place of an object that may go to its target is held while the object moves, and applied otherwise. -/
theorem objPlace_place (hq : pkt.query = false) (hpos : 1 ≤ pkt.fld 4 1)
    (hlive : (namedObj s pkt).e.st = stResident ∨ (namedObj s pkt).e.st = stMoving) (hcol : pkt.fld 4 1 = 1 → pkt.fld 5 1 < 8)
    (hwin : (namedObj s pkt).e.window = false)
    (horigin : pkt.fld 4 1 = 2 → (namedObj s pkt).e.originEn = true ∧ (namedObj s pkt).e.ro = true) :
    s.objPlace c pkt =
      if (namedObj s pkt).e.st = stMoving then
        (s.finHeld (namedObj s pkt).place 0x00).modObj (pkt.fld 0 4) fun x =>
          { x with place := some ⟨c, pkt.fld 4 1, pkt.fld 5 1, false⟩ }
      else s.applyPlace (pkt.fld 0 4) ⟨c, pkt.fld 4 1, pkt.fld 5 1, false⟩ := by
  have hlost : (namedObj s pkt).e.st ≠ stLost := by obtain h | h := hlive <;> rw [h] <;> decide
  have hrevoking : (namedObj s pkt).e.st ≠ stRevoking := by obtain h | h := hlive <;> rw [h] <;> decide
  have hcolumn : ¬(pkt.fld 4 1 = 1 ∧ 8 ≤ pkt.fld 5 1) := fun ⟨h, h'⟩ => Nat.not_lt.mpr h' (hcol h)
  have htarget : ¬((namedObj s pkt).e.window = true ∨
      (pkt.fld 4 1 = 2 ∧ (!((namedObj s pkt).e.originEn && (namedObj s pkt).e.ro)) = true)) := by
    rintro (h | ⟨h, h'⟩)
    · simp [hwin] at h
    · simp [horigin h] at h'
  rw [State.objPlace, if_neg (namedObj_exists ho hst), if_neg (by simp [hmay]), if_neg (Nat.not_lt.mpr htier), if_neg (by simp [hq]),
    if_neg (Nat.ne_of_gt hpos), if_neg hlost, if_neg hrevoking, if_neg hcolumn, if_neg htarget]

end

/-! ### OBJ_REVOKE (R164, R176) -/

/-- A RESIDENT buffer of the port enters REVOKING at once. -/
theorem objRevoke_starts {s : State} {c : Caller} {pkt : Packet} (ho : pkt.fld 0 4 < 131072)
    (hst : (namedObj s pkt).e.st = stResident) (hown : (namedObj s pkt).e.owner = portIdent c.port)
    (hwin : (namedObj s pkt).e.window = false) (hbuf : (namedObj s pkt).buffer ≠ 0) (hrev : (namedObj s pkt).revoke = none) :
    s.objRevoke c pkt = s.startRevoke (pkt.fld 0 4) ⟨c, 0, 0, pkt.force⟩ := by
  have hbusy : ¬((namedObj s pkt).e.st = stRevoking ∨ (namedObj s pkt).revoke.isSome = true) := by
    simp [hst, hrev, stResident, stRevoking]
  rw [State.objRevoke, if_neg (namedObj_exists ho (by rw [hst]; decide)), if_neg (not_not_intro hown), if_neg (by simp [hbuf]),
    if_neg (by rw [hst]; decide), if_neg hbusy, if_neg (resident_not_moving hst), if_neg (by simp [hwin])]

/-! ### The statement -/

/-- Settles O20: an accepted command of each row passes the refusals that its hypotheses rule out. -/
theorem objectCommandsTakeEffect : Obligations.ObjectCommandsTakeEffect := by
  intro p pkt s
  refine ⟨?_, ?_, ?_⟩
  · intro kind b tile unit hacc hkind hb hfmt hgust htile haddr hpages hlen htop hcount n t halloc
    have hformed : RegFormed (pkt.withOpcode 0x40) := ⟨hkind, hb, hfmt, hgust, fun h => (htile h).1⟩
    have hrange : RegInRange (pkt.withOpcode 0x40) := ⟨haddr, hpages, hlen, htop, fun h => (htile h).2, hcount⟩
    exact next_of_eq ((serve_accepted _ hacc).trans (objRegister_allocates hformed hrange halloc))
  · intro o x h hacc ho hst hmay
    refine ⟨fun hq htier => ?_, fun hq hpos htier hlive hcol hwin horigin => ?_⟩
    · exact next_of_eq ((serve_accepted _ hacc).trans (objPlace_query ho hst hmay htier (by simpa using hq)))
    · exact next_of_eq ((serve_accepted _ hacc).trans
        (objPlace_place ho hst hmay htier (by simpa using hq) hpos hlive hcol hwin horigin))
  · intro o x hacc ho hst hown hwin hbuf hrev
    have hstart := objRevoke_starts (c := s.asker 0x42 p pkt) (pkt := pkt.withOpcode 0x42) ho hst hown hwin hbuf hrev
    rw [withOpcode_force] at hstart
    exact next_of_eq ((serve_accepted _ hacc).trans hstart)

end Sys2Proof.Machine
end

section
/-!
PROOFS. Errors of the DRAM: what a patrol read finds, corrected and uncorrectable words, and the end of a channel copy.
-/
namespace Sys2Proof.Machine

/-! ### Errors told to every port (R501) -/

/-- A report through AER changes the tables of the ports alone. -/
theorem aer_frame (s : State) (p : Nat) (e : AerError) : (s.aer p e).tier = s.tier ∧ (s.aer p e).regs = s.regs := by
  rw [State.aer]
  split <;> exact ⟨rfl, rfl⟩

theorem forEach_aer_frame (l : List Nat) (e : AerError) (s : State) :
    (forEach l (fun p t => t.aer p e) s).tier = s.tier ∧ (forEach l (fun p t => t.aer p e) s).regs = s.regs := by
  induction l generalizing s with
  | nil => exact ⟨rfl, rfl⟩
  | cons p l ih =>
    obtain ⟨htier, hregs⟩ := ih (s.aer p e)
    exact ⟨htier.trans (aer_frame s p e).1, hregs.trans (aer_frame s p e).2⟩

@[simp] theorem aerAll_tier (s : State) (e : AerError) : (s.aerAll e).tier = s.tier := (forEach_aer_frame _ e s).1

@[simp] theorem aerAll_rd (s : State) (e : AerError) (f : FieldRef) (n i : Nat) : (s.aerAll e).rd f n i = s.rd f n i :=
  congrArg (fun r => bits (SMap.get (f.reg.resetWord n i) r (f.reg.key n i)) f.hi f.lo) (forEach_aer_frame _ e s).2

/-! ### Corrected words (R180, R184) -/

/-- The corrected errors of a channel within the window of `TIE_CE_THRESH`, with one more now. -/
def ceWindow (s : State) (ch : Nat) : List Nat :=
  ((SMap.get [] s.tier.ceWin ch) ++ [s.periods]).filter fun p => s.periods < p + max 1 (s.rd Fld.tieCeThresh_periods)

/-- A corrected error of a channel counted. -/
def ceCounted (s : State) (ch : Nat) : State :=
  (s.bump Fld.tieDramCe_count 0 ch).modTier fun t => { t with ceWin := SMap.put [] t.ceWin ch (ceWindow s ch) }

/-- Counting a corrected error leaves the threshold. -/
theorem ceThresh_ceCounted (s : State) (ch : Nat) : (ceCounted s ch).rd Fld.tieCeThresh_count = s.rd Fld.tieCeThresh_count := by
  have hkey : Fld.tieCeThresh_count.reg.key 0 0 ≠ Fld.tieDramCe_count.reg.key 0 ch := by
    rw [show Fld.tieCeThresh_count.reg.key 0 0 = 0x70058 from rfl, show Fld.tieDramCe_count.reg.key 0 ch = 0x70100 + 0x8 * ch from rfl]
    omega
  exact State.rd_wr_other s hkey

/-- A channel is retired when its corrected errors exceed the threshold. -/
theorem dramCorrected_eq (s : State) (ch : Nat) :
    s.dramCorrected ch =
      if s.rd Fld.tieCeThresh_count < (ceWindow s ch).length then
        ((ceCounted s ch).modTier fun t => { t with ceWin := SMap.put [] t.ceWin ch [] }).retireChannel ch
      else ceCounted s ch := by
  rw [← ceThresh_ceCounted s ch]
  rfl

/-! ### Uncorrectable words (R181, R183, R184) -/

/-- An uncorrectable error of line `n` of a channel counted, logged when it is the first, flagged, and told to every port. -/
def ueReported (s : State) (ch n : Nat) : State :=
  let u := s.bump Fld.tieDramUe_count 0 ch
  let u := if u.flag Fld.tieStatus_dramUe then u
    else u.setReg .tieDramAddr 0 0 (BitVec.ofNat 64 (ch * 2 ^ 58 + u.periods % 2 ^ 20 * 2 ^ 32 + n))
  (u.wr Fld.tieStatus_dramUe 1).aerAll .correctedInternal

@[simp] theorem ueReported_tier (s : State) (ch n : Nat) : (ueReported s ch n).tier = s.tier := by
  rw [ueReported, aerAll_tier, State.wr_tier]
  split
  · exact State.bump_tier s _ 0 ch 1
  · rw [State.setReg_tier, State.bump_tier]

/-- The report leaves the map of the slots. -/
theorem ueReported_slotMap (s : State) (ch n : Nat) {f : FieldRef} (hf : f.reg = .tieSlotMap) : (ueReported s ch n).rd f = s.rd f := by
  have hmap : f.reg.key 0 0 = 0x70048 := by rw [hf]; rfl
  have hstatus : f.reg.key 0 0 ≠ Fld.tieStatus_dramUe.reg.key 0 0 := by rw [hmap]; decide
  have haddr : f.reg.key 0 0 ≠ Reg.tieDramAddr.key 0 0 := by rw [hmap]; decide
  have hcount : f.reg.key 0 0 ≠ Fld.tieDramUe_count.reg.key 0 ch := by
    rw [hmap, show Fld.tieDramUe_count.reg.key 0 ch = 0x70300 + 0x8 * ch from rfl]
    omega
  have hbump : (s.bump Fld.tieDramUe_count 0 ch).rd f = s.rd f := State.rd_wr_other s hcount
  rw [ueReported, aerAll_rd, State.rd_wr_other _ hstatus]
  split
  · exact hbump
  · rw [State.rd, State.reg_setReg_other _ _ haddr]
    exact hbump

/-- The report leaves every line at its address. -/
theorem ueReported_lineAddr (s : State) (ch n : Nat) (ch' n' : Nat) : (ueReported s ch n).lineAddr ch' n' = s.lineAddr ch' n' := by
  have hslot : ∀ f : FieldRef, f.reg = .tieSlotMap → (ueReported s ch n).rd f = s.rd f := fun _ hf => ueReported_slotMap s ch n hf
  rw [State.lineAddr, State.lineAddr, State.flag, State.flag, State.flag, State.flag, hslot Fld.tieSlotMap_s0Used rfl,
    hslot Fld.tieSlotMap_s1Used rfl, hslot Fld.tieSlotMap_s0Slot rfl, hslot Fld.tieSlotMap_s1Slot rfl]

/-- Line `k` of T1 noted as uncorrectable, and not rewritten since, and poisoned. -/
def lineSpoiled (s : State) (k : Nat) : State :=
  s.modTier fun t => { t with ueAt := t.ueAt.filter (fun e => !(e.1 == k)) ++ [(k, false)], poison := (t.poison ++ [k]).eraseDups }

/-- A line that no slot maps to is only reported. -/
theorem dramUe_unmapped {s : State} {ch n : Nat} (h : s.lineAddr ch n = none) : s.dramUe ch n = ueReported s ch n := by
  rw [← ueReported_lineAddr s ch n] at h
  rw [State.dramUe, ← ueReported, h]

/-- A line of T1 is poisoned and its frame retired; one that was rewritten since its last error retires the channel. -/
theorem dramUe_mapped {s : State} {ch n a : Nat} (h : s.lineAddr ch n = some a) :
    s.dramUe ch n =
      if s.tier.ueAt.any (fun e => e.1 == a / 64 && e.2) then ((lineSpoiled (ueReported s ch n) (a / 64)).retireFrame a).retireChannel ch
      else (lineSpoiled (ueReported s ch n) (a / 64)).retireFrame a := by
  rw [← ueReported_lineAddr s ch n] at h
  rw [State.dramUe, ← ueReported, h, ← ueReported_tier s ch n]
  rfl

/-! ### Patrol reads (R180) -/

/-- The patrol of a channel moved on to its next line. -/
def patrolled (s : State) (ch : Nat) : State :=
  s.modTier fun t => { t with patrol := SMap.put 0 t.patrol ch ((SMap.get 0 s.tier.patrol ch + 1) % State.channelLines) }

section
variable {s : State} {ch : Fin 34} (h : s.flag Fld.tieScrub_en = true)
include h

theorem exec_dramPatrolRead_clean : exec (.dramPatrolRead ch .clean) s = .next (patrolled s ch) :=
  next_of_eq (if_neg (by simp [h]))

theorem exec_dramPatrolRead_corrected : exec (.dramPatrolRead ch .corrected) s = .next ((patrolled s ch).dramCorrected ch) :=
  next_of_eq (if_neg (by simp [h]))

theorem exec_dramPatrolRead_uncorrectable (a b : Nat) :
    exec (.dramPatrolRead ch (.uncorrectable a b)) s =
      .next ((patrolled s ch).dramUe ch (SMap.get 0 s.tier.patrol ch)) :=
  next_of_eq (if_neg (by simp [h]))

end

/-! ### Channel copies (R126, R184) -/

/-- The oldest copy taken off; migrating stays while another runs. -/
def copyEnded (s : State) (rest : List (Nat × Nat)) : State :=
  (s.modTier fun t => { t with copies := rest }).wr Fld.tieStatus_migrating (if rest = [] then 0 else 1)

theorem copyDone_eq {s : State} {st j : Nat} {rest : List (Nat × Nat)} (h : s.tier.copies = (st, j) :: rest) :
    s.copyDone =
      if st = 0 then ((copyEnded s rest).wr Fld.tieSlotMap_s0Used 1).wr Fld.tieSlotMap_s0Slot j
      else ((copyEnded s rest).wr Fld.tieSlotMap_s1Used 1).wr Fld.tieSlotMap_s1Slot j := by
  have hmigrating : b2n (!rest.isEmpty) = if rest = [] then 0 else 1 := by cases rest <;> rfl
  rw [State.copyDone, h, copyEnded, ← hmigrating]

/-! ### The statement -/

/-- Settles O49: a patrol read by what its check bits met and, where they could not correct it, by whether a slot maps to the line; the end of
the oldest copy by its stack. -/
theorem dramErrorsAreHandled : Obligations.DramErrorsAreHandled := by
  intro s
  refine ⟨fun ch hen => ?_, fun st j rest hcopies => ?_⟩
  · refine ⟨exec_dramPatrolRead_clean hen, fun a b => ⟨fun hnone => ?_, fun x hx => ?_⟩, fun hfew => ?_, fun hmany => ?_⟩
    · exact (exec_dramPatrolRead_uncorrectable hen a b).trans (next_of_eq (dramUe_unmapped hnone))
    · exact (exec_dramPatrolRead_uncorrectable hen a b).trans (next_of_eq (dramUe_mapped hx))
    · exact (exec_dramPatrolRead_corrected hen).trans (next_of_eq ((dramCorrected_eq _ _).trans (if_neg (Nat.not_lt.mpr hfew))))
    · exact (exec_dramPatrolRead_corrected hen).trans (next_of_eq ((dramCorrected_eq _ _).trans (if_pos hmany)))
  · have hdone := copyDone_eq hcopies
    refine ⟨fun h0 => next_of_eq (hdone.trans (if_pos h0)), fun h1 => next_of_eq (hdone.trans (if_neg ?_))⟩
    rw [h1]
    decide

end Sys2Proof.Machine
end

section
/-!
PROOFS. The descriptor rows of the weight flash: `FLC_OP` written, the operation entered, and what the controller refuses or begins.
-/
namespace Sys2Proof.Machine

/-! ### The descriptor of a row (R196) -/

/-- The operation code of a row takes the place of the low byte; the bits above it stay. -/
theorem withCode_toNat {c : Nat} (hc : c < 256) (w : Inst256) : (Fop.withCode w c).toNat = 256 * (w.toNat / 256) + c := by
  have hlow : bits w 7 0 = w.toNat % 256 := by simp [bits, nbits]
  have hsplit := Nat.div_add_mod w.toNat 256
  have hw : w.toNat < 2 ^ 256 := w.isLt
  rw [Fop.withCode, BitVec.toNat_ofNat, hlow, Nat.mod_eq_of_lt (by omega)]
  omega

theorem code_withCode {c : Nat} (hc : c < 256) (w : Inst256) : Fop.code (Fop.withCode w c) = c := by
  rw [Fop.code, bits, withCode_toNat hc, nbits]
  simp
  omega

theorem bits_withCode {c lo : Nat} (hc : c < 256) (hlo : 8 ≤ lo) (w : Inst256) (hi : Nat) : bits (Fop.withCode w c) hi lo = bits w hi lo := by
  obtain ⟨m, rfl⟩ := Nat.exists_eq_add_of_le hlo
  have hhigh : (256 * (w.toNat / 256) + c) / 256 = w.toNat / 256 := by omega
  rw [bits, bits, withCode_toNat hc, nbits, nbits, Nat.shiftRight_add, Nat.shiftRight_add]
  simp only [Nat.shiftRight_eq_div_pow _ 8, show 2 ^ 8 = 256 from rfl, hhigh]

/-! ### What the write of FLC_OP and the entry of its operation leave alone (R190, R196, R198) -/

/-- `FLC_OP` holding descriptor `w`. -/
def opWritten (s : State) (w : Inst256) : State :=
  forEach (List.range 4) (fun i t => t.setReg .flcOp 0 i (BitVec.ofNat 64 (bits w (64 * i + 63) (64 * i)))) s

/-- The operation that descriptor `w` of a writer opens in the controller. -/
def newOp (s : State) (writer : Nat) (w : Inst256) : FlashOp where
  id := s.flash.nextId
  writer := writer
  w := w
  left := selected w
  status := 0
  badPl := 0
  job := none
  leg := none
  opened := false
  page := 0
  target := 0

/-- The operation of descriptor `w` in the controller. -/
def opEntered (s : State) (writer : Nat) (w : Inst256) : State :=
  s.modFlash fun f => { f with nextId := s.flash.nextId + 1, ops := f.ops ++ [newOp s writer w] }

@[simp] theorem opWritten_flash (s : State) (w : Inst256) : (opWritten s w).flash = s.flash := (rfl)
@[simp] theorem opWritten_key (s : State) (w : Inst256) : (opWritten s w).key = s.key := (rfl)
@[simp] theorem opWritten_updating (s : State) (w : Inst256) : (opWritten s w).updating = s.updating := (rfl)
@[simp] theorem opWritten_rowValid (s : State) (w : Inst256) (row : Nat) : (opWritten s w).rowValid row = s.rowValid row := (rfl)
@[simp] theorem opWritten_flashQueued (s : State) (w : Inst256) : (opWritten s w).flashQueued = s.flashQueued := (rfl)

theorem opWritten_rd {f : FieldRef} (hf : f.reg = .flcStatus) (s : State) (w : Inst256) : (opWritten s w).rd f = s.rd f := by
  have hkey : ∀ i < 4, f.reg.key 0 0 ≠ Reg.flcOp.key 0 i := by rw [hf]; decide
  have hlist : List.range 4 = [0, 1, 2, 3] := (rfl)
  simp only [opWritten, forEach, hlist, List.foldl_cons, List.foldl_nil, State.rd]
  rw [State.reg_setReg_other _ _ (hkey 3 (by decide)), State.reg_setReg_other _ _ (hkey 2 (by decide)),
    State.reg_setReg_other _ _ (hkey 1 (by decide)), State.reg_setReg_other _ _ (hkey 0 (by decide))]

@[simp] theorem opWritten_dieServes (s : State) (w : Inst256) (d : Nat) : (opWritten s w).dieServes d = s.dieServes d := by
  rw [State.dieServes, State.dieServes, opWritten_rd rfl, opWritten_rd rfl]

@[simp] theorem opWritten_sagHold (s : State) (w : Inst256) : (opWritten s w).flag Fld.flcStatus_sagHold = s.flag Fld.flcStatus_sagHold :=
  congrArg (· == 1) (opWritten_rd rfl s w)

/-! ### Operations accepted and refused (R190, R191, R197, R198) -/

/-- Whether the controller refuses a new operation of descriptor `w`. -/
def opRefused (s : State) (writer : Nat) (w : Inst256) : Bool :=
  !Fop.wellFormed w Config.flashUnits || (!s.dieServes (Fop.die w) && !(Fop.isParam w) && Fop.code w != 0x7F) ||
  ((Fop.code w == 0x31 || Fop.code w == 0x32) && !sectorWriter s.key.active s.updating writer (bits w 19 16)) ||
  (Fop.code w == 0x10 && (s.rowValid (Fop.row w) ||
    (selected w).any fun k => (opEntered s writer w).programRefused (Fop.die w) k (Fop.row w) (Fop.page w)))

/-- What an accepted operation `o` does, with the controller in state `s`. -/
def opBegun (s : State) (o : FlashOp) : State :=
  let d := Fop.die o.w
  if Fop.code o.w = 0x7F then (s.dieReset d).flashComplete o
  else if Fop.isParam o.w then if Fop.code o.w ≠ 0x30 ∧ s.flag Fld.flcStatus_sagHold then s else s.paramOp o
  else if (selected o.w).isEmpty then s.flashComplete o
  else if Fop.code o.w ≤ 0x03 then forEach (selected o.w) (fun k t => t.queueRead d k o.id) s
  else if Fop.code o.w = 0x10 then
    forEach (selected o.w) (fun k t => t.planeGo d k)
      (forEach (selected o.w) (fun k t => t.modPlane d k fun p => { p with waitP := p.waitP ++ [o.id] }) s)
  else
    forEach (selected o.w) (fun k t => t.planeGo d k)
      (forEach (selected o.w) (fun k t => t.modPlane d k fun p => { p with waitE := p.waitE ++ [o.id] }) s)

theorem flashAccept_eq (s : State) (writer : Nat) (w : Inst256) :
    s.flashAccept writer w none =
      if opRefused s writer w then (opEntered s writer w).flashComplete { newOp s writer w with status := 5 }
      else opBegun (opEntered s writer w) (newOp s writer w) := by
  have hjob : (none : Option Nat).isNone = true := rfl
  have hlim : (opEntered s writer w).rowLimit none = Config.flashUnits := rfl
  rw [opRefused, ← Bool.and_true (_ && _ && _), ← hjob, ← hlim]
  rfl

/-! ### The rows (R196) -/

/-- The state after row `code` has written `FLC_OP` with descriptor `w` and entered its operation. -/
def rowEntered (s : State) (x : Ident) (w : Inst256) (code : Nat) : State :=
  opEntered (opWritten s (Fop.withCode w code)) x.toNat (Fop.withCode w code)

/-- The operation of row `code`. -/
abbrev rowOp (s : State) (x : Ident) (w : Inst256) (code : Nat) : FlashOp := newOp s x.toNat (Fop.withCode w code)

theorem flashSubmit_inside {x : Ident} (hx : inside x) (s : State) (w : Inst256) (code : Nat) :
    s.flashSubmit x.toNat w code = (opWritten s (Fop.withCode w code)).flashGo x.toNat (Fop.withCode w code) :=
  byFirmware_inside hx s _

/-- With 64 operations queued only op_full is set. -/
theorem flashSubmit_full {x : Ident} {s : State} (hx : inside x) (hfull : 64 ≤ s.flashQueued) (w : Inst256) (code : Nat) :
    s.flashSubmit x.toNat w code = (opWritten s (Fop.withCode w code)).wr Fld.flcStatus_opFull 1 :=
  (flashSubmit_inside hx s w code).trans (if_pos hfull)

section
variable {x : Ident} {s : State} {code : Nat} (hcode : code < 256) (w : Inst256)
include hcode

theorem die_withCode : Fop.die (Fop.withCode w code) = Fop.die w := bits_withCode hcode (by decide) w 8
theorem row_withCode : Fop.row (Fop.withCode w code) = Fop.row w := bits_withCode hcode (by decide) w 24
theorem page_withCode : Fop.page (Fop.withCode w code) = Fop.page w := bits_withCode hcode (by decide) w 41
theorem selected_withCode : selected (Fop.withCode w code) = selected w := by rw [selected, selected, bits_withCode hcode (by decide)]
theorem isParam_withCode : Fop.isParam (Fop.withCode w code) = (code == 0x30 || code == 0x31 || code == 0x32) := by
  rw [Fop.isParam, code_withCode hcode]

/-- The refusals of row `code`, in terms of its descriptor and the state before it. -/
theorem rowRefused_eq : opRefused (opWritten s (Fop.withCode w code)) x.toNat (Fop.withCode w code) =
    (!Fop.wellFormed (Fop.withCode w code) Config.flashUnits ||
      (!s.dieServes (Fop.die w) && !(code == 0x30 || code == 0x31 || code == 0x32) && code != 0x7F) ||
      ((code == 0x31 || code == 0x32) && !sectorWriter s.key.active s.updating x.toNat (bits w 19 16)) ||
      (code == 0x10 && (s.rowValid (Fop.row w) ||
        (selected w).any fun k => (rowEntered s x w code).programRefused (Fop.die w) k (Fop.row w) (Fop.page w)))) := by
  rw [opRefused, die_withCode hcode, row_withCode hcode, page_withCode hcode, selected_withCode hcode, isParam_withCode hcode,
    code_withCode hcode, bits_withCode hcode (by decide), opWritten_dieServes, opWritten_key, opWritten_updating, opWritten_rowValid,
    rowEntered]

/-- What an accepted operation of row `code` does. -/
theorem rowBegun_eq (t : State) : opBegun t (rowOp s x w code) =
    if code = 0x7F then (t.dieReset (Fop.die w)).flashComplete (rowOp s x w code)
    else if (code == 0x30 || code == 0x31 || code == 0x32) = true then
      if code ≠ 0x30 ∧ t.flag Fld.flcStatus_sagHold = true then t else t.paramOp (rowOp s x w code)
    else if (selected w).isEmpty then t.flashComplete (rowOp s x w code)
    else if code ≤ 0x03 then forEach (selected w) (fun k t => t.queueRead (Fop.die w) k s.flash.nextId) t
    else if code = 0x10 then
      forEach (selected w) (fun k t => t.planeGo (Fop.die w) k)
        (forEach (selected w) (fun k t => t.modPlane (Fop.die w) k fun p => { p with waitP := p.waitP ++ [s.flash.nextId] }) t)
    else
      forEach (selected w) (fun k t => t.planeGo (Fop.die w) k)
        (forEach (selected w) (fun k t => t.modPlane (Fop.die w) k fun p => { p with waitE := p.waitE ++ [s.flash.nextId] }) t) := by
  have hop : (rowOp s x w code).w = Fop.withCode w code := rfl
  have hid : (rowOp s x w code).id = s.flash.nextId := rfl
  rw [opBegun, hop, hid, code_withCode hcode, die_withCode hcode, isParam_withCode hcode, selected_withCode hcode]

end

section
variable {x : Ident} {s : State} (hx : inside x) (hroom : s.flashQueued < 64)
include hx hroom

theorem flashSubmit_refused {w : Inst256} {code : Nat}
    (h : opRefused (opWritten s (Fop.withCode w code)) x.toNat (Fop.withCode w code) = true) :
    s.flashSubmit x.toNat w code = (rowEntered s x w code).flashComplete { rowOp s x w code with status := 5 } :=
  ((flashSubmit_inside hx s w code).trans (if_neg (Nat.not_le.mpr hroom))).trans ((flashAccept_eq _ _ _).trans (if_pos h))

theorem flashSubmit_accepted {w : Inst256} {code : Nat}
    (h : opRefused (opWritten s (Fop.withCode w code)) x.toNat (Fop.withCode w code) = false) :
    s.flashSubmit x.toNat w code = opBegun (rowEntered s x w code) (rowOp s x w code) :=
  ((flashSubmit_inside hx s w code).trans (if_neg (Nat.not_le.mpr hroom))).trans
    ((flashAccept_eq _ _ _).trans (if_neg (by simp [h])))

/-- A well-formed read of a die in service queues at the planes that it selects (R206). -/
theorem flashSubmit_read {w : Inst256} {code : Nat} (hrow : code = 0x01 ∨ code = 0x02 ∨ code = 0x03) (hsel : selected w ≠ [])
    (hok : Fop.wellFormed (Fop.withCode w code) Config.flashUnits = true ∧ s.dieServes (Fop.die w) = true) :
    s.flashSubmit x.toNat w code =
      forEach (selected w) (fun k t => t.queueRead (Fop.die w) k s.flash.nextId) (rowEntered s x w code) := by
  have hcode : code < 256 := by omega
  have hgoes : opRefused (opWritten s (Fop.withCode w code)) x.toNat (Fop.withCode w code) = false := by
    rw [rowRefused_eq hcode, hok.1, hok.2]
    obtain rfl | rfl | rfl := hrow <;> rfl
  rw [flashSubmit_accepted hx hroom hgoes, rowBegun_eq hcode, if_neg (by omega), if_neg (by simp; omega), if_neg (by simpa using hsel),
    if_pos (by omega)]

/-- A program that the page order of its planes allows, of a row that no valid image holds, queues and starts where it can (R198). -/
theorem flashSubmit_program {w : Inst256} (hsel : selected w ≠ [])
    (hok : Fop.wellFormed (Fop.withCode w 0x10) Config.flashUnits = true ∧ s.dieServes (Fop.die w) = true)
    (hvalid : s.rowValid (Fop.row w) = false)
    (hpages : ∀ k ∈ selected w, (rowEntered s x w 0x10).programRefused (Fop.die w) k (Fop.row w) (Fop.page w) = false) :
    s.flashSubmit x.toNat w 0x10 =
      forEach (selected w) (fun k t => t.planeGo (Fop.die w) k)
        (forEach (selected w) (fun k t => t.modPlane (Fop.die w) k fun p => { p with waitP := p.waitP ++ [s.flash.nextId] })
          (rowEntered s x w 0x10)) := by
  have hgoes : opRefused (opWritten s (Fop.withCode w 0x10)) x.toNat (Fop.withCode w 0x10) = false := by
    rw [rowRefused_eq (by decide), hok.1, hok.2, hvalid, List.any_eq_false.mpr (by simpa using hpages)]
    rfl
  rw [flashSubmit_accepted hx hroom hgoes, rowBegun_eq (by decide), if_neg (by decide), if_neg (by decide), if_neg (by simpa using hsel),
    if_neg (by decide), if_pos rfl]

/-- A well-formed erase or relocate of a die in service queues and starts where it can (R197). -/
theorem flashSubmit_erase {w : Inst256} {code : Nat} (hrow : code = 0x20 ∨ code = 0x40) (hsel : selected w ≠ [])
    (hok : Fop.wellFormed (Fop.withCode w code) Config.flashUnits = true ∧ s.dieServes (Fop.die w) = true) :
    s.flashSubmit x.toNat w code =
      forEach (selected w) (fun k t => t.planeGo (Fop.die w) k)
        (forEach (selected w) (fun k t => t.modPlane (Fop.die w) k fun p => { p with waitE := p.waitE ++ [s.flash.nextId] })
          (rowEntered s x w code)) := by
  have hcode : code < 256 := by omega
  have hgoes : opRefused (opWritten s (Fop.withCode w code)) x.toNat (Fop.withCode w code) = false := by
    rw [rowRefused_eq hcode, hok.1, hok.2]
    obtain rfl | rfl := hrow <;> rfl
  rw [flashSubmit_accepted hx hroom hgoes, rowBegun_eq hcode, if_neg (by omega), if_neg (by simp; omega), if_neg (by simpa using hsel),
    if_neg (by omega), if_neg (by omega)]

/-- A read of the parameter array is carried out at once (R190; log entry 4). -/
theorem flashSubmit_paramRead {w : Inst256} (hformed : Fop.wellFormed (Fop.withCode w 0x30) Config.flashUnits = true) :
    s.flashSubmit x.toNat w 0x30 = (rowEntered s x w 0x30).paramOp (rowOp s x w 0x30) := by
  have hgoes : opRefused (opWritten s (Fop.withCode w 0x30)) x.toNat (Fop.withCode w 0x30) = false := by
    rw [rowRefused_eq (by decide), hformed]
    simp
  rw [flashSubmit_accepted hx hroom hgoes, rowBegun_eq (by decide), if_neg (by decide), if_pos (by decide), if_neg (by simp)]

/-- A program or erase of a sector by its writer is carried out at once, or waits while sag_hold is set (R190, R191, R222). -/
theorem flashSubmit_paramWrite {w : Inst256} {code : Nat} (hrow : code = 0x31 ∨ code = 0x32)
    (hformed : Fop.wellFormed (Fop.withCode w code) Config.flashUnits = true)
    (hwriter : sectorWriter s.key.active s.updating x.toNat (bits w 19 16) = true) :
    (s.flag Fld.flcStatus_sagHold = false → s.flashSubmit x.toNat w code = (rowEntered s x w code).paramOp (rowOp s x w code)) ∧
    (s.flag Fld.flcStatus_sagHold = true → s.flashSubmit x.toNat w code = rowEntered s x w code) := by
  have hcode : code < 256 := by omega
  have hgoes : opRefused (opWritten s (Fop.withCode w code)) x.toNat (Fop.withCode w code) = false := by
    rw [rowRefused_eq hcode, hformed, hwriter]
    obtain rfl | rfl := hrow <;> simp
  have hsag : (rowEntered s x w code).flag Fld.flcStatus_sagHold = s.flag Fld.flcStatus_sagHold := by
    rw [rowEntered, opEntered, State.modFlash_flag, opWritten_sagHold]
  have hwrites : code ≠ 0x30 := by omega
  rw [flashSubmit_accepted hx hroom hgoes, rowBegun_eq hcode, if_neg (by omega), if_pos (by simp; omega), hsag]
  exact ⟨fun hgo => if_neg (by simp [hgo]), fun hheld => if_pos ⟨hwrites, hheld⟩⟩

/-- A DIE_RESET cuts what runs on its die and completes, whatever the die's service (R197). -/
theorem flashSubmit_dieReset {w : Inst256} (hformed : Fop.wellFormed (Fop.withCode w 0x7F) Config.flashUnits = true) :
    s.flashSubmit x.toNat w 0x7F = ((rowEntered s x w 0x7F).dieReset (Fop.die w)).flashComplete (rowOp s x w 0x7F) := by
  have hgoes : opRefused (opWritten s (Fop.withCode w 0x7F)) x.toNat (Fop.withCode w 0x7F) = false := by
    rw [rowRefused_eq (by decide), hformed]
    simp
  rw [flashSubmit_accepted hx hroom hgoes, rowBegun_eq (by decide), if_pos rfl]

theorem flashSubmit_foreignSector {w : Inst256} {code : Nat} (hrow : code = 0x31 ∨ code = 0x32)
    (hwriter : sectorWriter s.key.active s.updating x.toNat (bits w 19 16) ≠ true) :
    s.flashSubmit x.toNat w code = (rowEntered s x w code).flashComplete { rowOp s x w code with status := 5 } := by
  have hcode : code < 256 := by omega
  refine flashSubmit_refused hx hroom ?_
  rw [rowRefused_eq hcode, Bool.eq_false_of_not_eq_true hwriter]
  obtain rfl | rfl := hrow <;> simp

theorem flashSubmit_malformed {w : Inst256} {code : Nat} (hcode : code < 256)
    (hformed : Fop.wellFormed (Fop.withCode w code) Config.flashUnits = false) :
    s.flashSubmit x.toNat w code = (rowEntered s x w code).flashComplete { rowOp s x w code with status := 5 } := by
  refine flashSubmit_refused hx hroom ?_
  rw [rowRefused_eq hcode, hformed]
  rfl

theorem flashSubmit_validRow {w : Inst256} (hvalid : s.rowValid (Fop.row w) = true) :
    s.flashSubmit x.toNat w 0x10 = (rowEntered s x w 0x10).flashComplete { rowOp s x w 0x10 with status := 5 } := by
  refine flashSubmit_refused hx hroom ?_
  rw [rowRefused_eq (by decide), hvalid]
  simp

end

/-! ### The statement -/

/-- An outcome after which the long operations go on. -/
theorem next_runJobs {t u : State} (h : t = u) : (Host.Outcome.next t.runJobs : Out) = .next u.runJobs := next_of_eq (congrArg State.runJobs h)

/-- Settles O50: each row is the submission of its descriptor, which the controller refuses or begins by its operation code. -/
theorem flashDescriptorsAreSubmitted : Obligations.FlashDescriptorsAreSubmitted := by
  intro x w s hx
  refine ⟨fun hroom => ⟨fun hsel => ?_, ?_⟩, fun hfull => next_runJobs (flashSubmit_full hx hfull w 0x01)⟩
  · exact ⟨fun hok => next_runJobs (flashSubmit_read hx hroom (by decide) hsel hok),
      fun hok => next_runJobs (flashSubmit_read hx hroom (by decide) hsel hok),
      fun hok => next_runJobs (flashSubmit_read hx hroom (by decide) hsel hok),
      fun hok hvalid hpages => next_runJobs (flashSubmit_program hx hroom hsel hok hvalid hpages),
      fun hok => next_runJobs (flashSubmit_erase hx hroom (.inl rfl) hsel hok),
      fun hok => next_runJobs (flashSubmit_erase hx hroom (.inr rfl) hsel hok)⟩
  · exact ⟨fun hformed => next_runJobs (flashSubmit_paramRead hx hroom hformed),
      fun hformed hmay => (flashSubmit_paramWrite hx hroom (.inl rfl) hformed hmay).imp (next_runJobs ∘ ·) (next_runJobs ∘ ·),
      fun hformed hmay => (flashSubmit_paramWrite hx hroom (.inr rfl) hformed hmay).imp (next_runJobs ∘ ·) (next_runJobs ∘ ·),
      fun hmay => ⟨next_runJobs (flashSubmit_foreignSector hx hroom (.inl rfl) hmay),
        next_runJobs (flashSubmit_foreignSector hx hroom (.inr rfl) hmay)⟩,
      fun hformed => next_runJobs (flashSubmit_dieReset hx hroom hformed),
      fun hformed => next_runJobs (flashSubmit_malformed hx hroom (by decide) hformed),
      fun hvalid => next_runJobs (flashSubmit_validRow hx hroom hvalid)⟩

end Sys2Proof.Machine
end

section
/-!
PROOFS. The interface clock of the weight flash: which writes of `FLC_CLK` and `FLC_WAIT` keep its limits.
-/
namespace Sys2Proof.Machine

/-! ### Writes against the limits (R193 to R195) -/

section
variable {s : State} {v : Nat}

theorem writeClk_kept {m : Nat} (hleast : minWait (nbits v 2 0) (nbits v 4 4) = some m) (hm : m ≤ s.rd Fld.flcWait_rdCycles) :
    s.writeClk v = (((s.wr Fld.flcClk_freq (nbits v 2 0)).wr Fld.flcClk_vccq (nbits v 4 4)).wr Fld.flcClk_changing 1).modFlash fun x =>
      { x with clkTo := some (nbits v 2 0, nbits v 4 4) } := by
  rw [State.writeClk, hleast]
  exact if_neg (Nat.not_lt.mpr hm)

/-- A frequency that the supply does not allow has no least wait, and breaks the limits as too short a wait does. -/
theorem writeClk_broken (h : ∀ m, minWait (nbits v 2 0) (nbits v 4 4) = some m → s.rd Fld.flcWait_rdCycles < m) :
    s.writeClk v = s.wr Fld.flcStatus_waitBad 1 := by
  rw [State.writeClk]
  cases hleast : minWait (nbits v 2 0) (nbits v 4 4) with
  | none => rfl
  | some m => exact if_pos (h m hleast)

theorem writeWait_kept {m : Nat} (hleast : minWait (s.rd Fld.flcClk_freq) (s.rd Fld.flcClk_vccq) = some m) (hm : m ≤ nbits v 5 0) :
    s.writeWait v = (s.wr Fld.flcWait_rdCycles (nbits v 5 0)).setWclat := by
  rw [State.writeWait, hleast]
  exact if_neg (Nat.not_lt.mpr hm)

theorem writeWait_broken (h : ∀ m, minWait (s.rd Fld.flcClk_freq) (s.rd Fld.flcClk_vccq) = some m → nbits v 5 0 < m) :
    s.writeWait v = s.wr Fld.flcStatus_waitBad 1 := by
  rw [State.writeWait]
  cases hleast : minWait (s.rd Fld.flcClk_freq) (s.rd Fld.flcClk_vccq) with
  | none => rfl
  | some m => exact if_pos (h m hleast)

/-- The pending clock change takes effect once, and the worst-case latency follows it (R195, R207). -/
theorem clockSwitch_pending {c : Nat × Nat} (h : s.flash.clkTo = some c) :
    s.clockSwitch = ((s.modFlash fun x => { x with clkTo := none }).wr Fld.flcClk_changing 0).setWclat := by
  rw [State.clockSwitch, h]

end

/-! ### The statement -/

/-- Settles O52: a write from inside the device is the clock's or the wait's own, by the least wait of the clock that it meets. -/
theorem flashClockKeepsItsLimits : Obligations.FlashClockKeepsItsLimits := by
  intro w v s hw
  refine ⟨⟨fun m hleast hm => ?_, fun hbad => ?_⟩, ⟨fun m hleast hm => ?_, fun hbad => ?_⟩, fun c hc => next_of_eq (clockSwitch_pending hc)⟩
  · exact next_of_eq ((byFirmware_inside hw s _).trans (writeClk_kept hleast hm))
  · exact next_of_eq ((byFirmware_inside hw s _).trans (writeClk_broken hbad))
  · exact next_of_eq ((byFirmware_inside hw s _).trans (writeWait_kept hleast hm))
  · exact next_of_eq ((byFirmware_inside hw s _).trans (writeWait_broken hbad))

end Sys2Proof.Machine
end

section
/-!
PROOFS. The flash commands: FLASH_READ, FLASH_ERASE and FLASH_WRITE_IMAGE past their refusals, with an entry of the operation table.
-/
namespace Sys2Proof.Machine

/-! ### An entry of the operation table (R411) -/

/-- A long operation with a free entry is opened there. -/
theorem startOp_free {s : State} {i : Nat} (hfree : s.freeOp = some i) (c : Caller) (opcode span total : Nat) (job : Job)
    (f : Nat → State → State) : s.startOp c opcode span total job f = f i (s.openOp i c opcode span total job) := by
  rw [State.startOp, hfree]

/-- The free entry is a matter of the operation table alone. -/
theorem freeOp_congr {s t : State} (h : t.ops = s.ops) : t.freeOp = s.freeOp := by
  simp only [State.freeOp, State.op, h]

theorem forEach_ops {β : Type} {f : β → State → State} (hf : ∀ b s, (f b s).ops = s.ops) (l : List β) (s : State) :
    (forEach l f s).ops = s.ops := by
  induction l generalizing s with
  | nil => rfl
  | cons b l ih => exact (ih (f b s)).trans (hf b s)

@[simp] theorem writeDir_ops (s : State) : s.writeDir.ops = s.ops := by
  rw [State.writeDir]
  split
  · rfl
  · apply forEach_ops
    intro d t
    rfl

/-! ### FLASH_READ (R221) -/

theorem flashReadCmd_begins {s : State} {c : Caller} {pkt : Packet} {i : Nat} (hfree : s.freeOp = some i) (hlen : pkt.fld 8 8 ≠ 0)
    (hend : pkt.fld 0 8 + pkt.fld 8 8 ≤ Config.flashUnits * 2 ^ 30)
    (hobj : s.jobObjStatus c.port (pkt.fld 0x10 4) (pkt.fld 8 8) true = none)
    (hdies : ((State.pagesOf (pkt.fld 0 8) (pkt.fld 8 8)).all fun f => s.dieServes f.die) = true) :
    s.flashReadCmd c pkt =
      (s.openOp i c 0x52 noSpan (pkt.fld 8 8)
        (.flash ⟨.read, 0, 0, 0, pkt.fld 0x10 4, pkt.fld 8 8, 0, 0, false, 0, pkt.fld 0 8⟩)).flashIssue i := by
  have hrange : ¬(pkt.fld 8 8 = 0 ∨ Config.flashUnits * 2 ^ 30 < pkt.fld 0 8 + pkt.fld 8 8) := not_or.mpr ⟨hlen, Nat.not_lt.mpr hend⟩
  have hserve : ¬((State.pagesOf (pkt.fld 0 8) (pkt.fld 8 8)).any fun f => !s.dieServes f.die) = true := by simpa using hdies
  simp only [State.flashReadCmd, if_neg hrange, hobj, if_neg hserve]
  exact startOp_free hfree ..

/-! ### FLASH_ERASE (R225, R231) -/

/-- Image `g` marked ERASING, and its objects cut off from their origin in it. -/
def imgErasing (s : State) (g : Nat) : State :=
  forEach (s.setLibState g 4).objNums (fun o t => t.modObj o fun x =>
    if x.e.originEn ∧ x.e.image = g then { x with e := { x.e with originEn := false } } else x) (s.setLibState g 4)

theorem flashErase_begins {s : State} {c : Caller} {pkt : Packet} {i : Nat} (hreb : pkt.rebuild = false) (hres : pkt.fld 1 1 = 0)
    (himg : pkt.fld 0 1 < 64) (hserves : s.libServes = true) (hst : (s.lib (pkt.fld 0 1)).st ≠ 0)
    (huse : s.imgInUse (pkt.fld 0 1) = false) (hfree : (imgErasing s (pkt.fld 0 1)).freeOp = some i) :
    s.flashErase c pkt =
      ((imgErasing s (pkt.fld 0 1)).openOp i c 0x51 noSpan ((s.lib (pkt.fld 0 1)).units * 2 ^ 30)
        (.flash ⟨.erase, pkt.fld 0 1, (s.lib (pkt.fld 0 1)).first, (s.lib (pkt.fld 0 1)).units, 0, 0, 0, 0, false, 0, 0⟩)).flashIssue i := by
  have hfields : ¬(pkt.fld 1 1 ≠ 0 ∨ 64 ≤ pkt.fld 0 1) := not_or.mpr ⟨not_not_intro hres, Nat.not_le.mpr himg⟩
  have hstands : ¬((!s.libServes) = true ∨ (s.lib (pkt.fld 0 1)).st = 0) := not_or.mpr ⟨by simp [hserves], hst⟩
  simp only [State.flashErase, hreb, Bool.false_eq_true, if_false, if_neg hfields, if_neg hstands, huse]
  rw [hres]
  exact startOp_free hfree ..

/-! ### FLASH_WRITE_IMAGE (R213, R225, R230) -/

/-- The entry of image `g` for a new image of `n` units from unit `u`, in the directory. -/
def imgWriting (s : State) (g u n : Nat) : State :=
  (s.modFlash fun x => { x with writeSeq := x.writeSeq + 1 }).putLib g fun _ =>
    { st := 1, first := u, units := n, seq := s.flash.writeSeq + 1, period := s.periods % 2 ^ 32 }

section
variable {s : State} {c : Caller} {pkt : Packet} {i : Nat} (hfree : s.freeOp = some i) (hserves : s.libServes = true)
  (hobj : s.jobObjStatus c.port (pkt.fld 0 4) (pkt.fld 8 8) false = none) (hlen : pkt.fld 8 8 ≠ 0) (hpages : pkt.fld 8 8 % 4096 = 0)
  (himg : pkt.fld 4 1 < 64) (huse : s.imgInUse (pkt.fld 4 1) = false)
include hfree hserves hobj hlen hpages himg huse

/-- Past the refusals of source and image, the command goes on with the units that hold the image. -/
theorem flashWriteImage_eq (hst : (s.lib (pkt.fld 4 1)).st = 0 ∨ (s.lib (pkt.fld 4 1)).st = 1)
    (hresume : pkt.resume = true → (s.lib (pkt.fld 4 1)).st = 1 ∧ (s.lib (pkt.fld 4 1)).units = cdiv (pkt.fld 8 8) (2 ^ 30)) {u : Nat}
    (hunits : (if pkt.resume then some (s.lib (pkt.fld 4 1)).first
      else (s.modLib (pkt.fld 4 1) fun _ => {}).freeUnits (cdiv (pkt.fld 8 8) (2 ^ 30))) = some u) :
    s.flashWriteImage c pkt =
      ((if pkt.resume then s else imgWriting s (pkt.fld 4 1) u (cdiv (pkt.fld 8 8) (2 ^ 30))).openOp i c 0x50 noSpan (pkt.fld 8 8)
        (.flash ⟨.write, pkt.fld 4 1, u, cdiv (pkt.fld 8 8) (2 ^ 30), pkt.fld 0 4, pkt.fld 8 8, 0, 0, pkt.resume, 0, 0⟩)).flashIssue i := by
  have hentry : (if pkt.resume then s else imgWriting s (pkt.fld 4 1) u (cdiv (pkt.fld 8 8) (2 ^ 30))).freeOp = some i := by
    split
    · exact hfree
    · exact (freeOp_congr (writeDir_ops _)).trans hfree
  have hall : pkt.fld 4 1 ≠ 0xFF := by omega
  have hsize : ¬(pkt.fld 8 8 = 0 ∨ pkt.fld 8 8 % 4096 ≠ 0) := not_or.mpr ⟨hlen, not_not_intro hpages⟩
  have hstate : ¬((s.lib (pkt.fld 4 1)).st ≠ 0 ∧ (s.lib (pkt.fld 4 1)).st ≠ 1) := by omega
  have hgoes : ¬(pkt.resume = true ∧ ((s.lib (pkt.fld 4 1)).st ≠ 1 ∨ (s.lib (pkt.fld 4 1)).units ≠ cdiv (pkt.fld 8 8) (2 ^ 30))) :=
    fun ⟨hr, h⟩ => h.elim (absurd (hresume hr).1) (absurd (hresume hr).2)
  simp only [State.flashWriteImage, if_neg hall, if_pos himg, hserves, Bool.not_true, Bool.false_eq_true, if_false, hobj, if_neg hsize, huse,
    if_neg hstate, if_neg hgoes, hunits]
  exact startOp_free hentry ..

end

/-! ### The statement -/

/-- Settles O21: an accepted command of each row passes the refusals that its hypotheses rule out, and opens its operation. -/
theorem flashCommandsBegin : Obligations.FlashCommandsBegin := by
  intro p pkt s i hfree
  refine ⟨fun hacc hlen hend hobj hdies => ?_, fun hacc hreb hres himg hserves hst huse hentry => ?_,
    fun hacc hnew hserves hobj hlen hpages himg huse hst u hroom => ?_, fun hacc hres hserves hobj hlen hpages himg huse hst hunits => ?_⟩
  · exact next_of_eq ((serve_accepted _ hacc).trans (congrArg State.runJobs (flashReadCmd_begins hfree hlen hend hobj hdies)))
  · exact next_of_eq ((serve_accepted _ hacc).trans
      (congrArg State.runJobs (flashErase_begins (by simpa using hreb) hres himg hserves hst huse hentry)))
  · have hbegin := flashWriteImage_eq (c := s.asker 0x50 p pkt) (pkt := pkt.withOpcode 0x50) (u := u) hfree hserves hobj hlen hpages himg huse
      hst (by simp [hnew]) (by simpa [hnew] using hroom)
    rw [withOpcode_resume, hnew] at hbegin
    exact next_of_eq ((serve_accepted _ hacc).trans (congrArg State.runJobs hbegin))
  · have hbegin := flashWriteImage_eq (c := s.asker 0x50 p pkt) (pkt := pkt.withOpcode 0x50) hfree hserves hobj hlen hpages himg huse
      (.inr hst) (fun _ => ⟨hst, hunits⟩) (if_pos (by simpa using hres))
    rw [withOpcode_resume, hres] at hbegin
    rw [hunits]
    exact next_of_eq ((serve_accepted _ hacc).trans (congrArg State.runJobs hbegin))

end Sys2Proof.Machine
end

section
/-!
PROOFS. The planes of the weight flash: reads delivered, suspends and resumes, verified and failed operations, cuts, and the saved counts.
-/
namespace Sys2Proof.Machine

section
variable {s : State} {d k id : Nat} {o : FlashOp}

/-! ### Reads (R203, R206, R208) -/

/-- The read at the head of plane `k` taken off, and the next ones brought to its place. -/
def readTaken (s : State) (d k : Nat) (rest : List Nat) : State := (s.modPlane d k fun p => { p with reads := rest }).fillReads d k 2

/-- A read ends on a plane whose program or erase does not run, while the clock stands. -/
theorem readDone_delivers {r : List Nat} (hclk : s.flag Fld.flcClk_changing = false)
    (hst : (s.plane d k).st = .idle ∨ (s.plane d k).st = .progSuspended ∨ (s.plane d k).st = .eraseSuspended)
    (hreads : (s.plane d k).reads = id :: r) (ho : (readTaken s d k r).flashOp id = some o) (out : PageOutcome) :
    s.readDone d k out =
      (((readTaken s d k r).readResult o d k out).2.planeDone id k ((readTaken s d k r).readResult o d k out).1).planeGo d k := by
  have hfree : ¬(s.flag Fld.flcClk_changing || (s.plane d k).st == .programming || (s.plane d k).st == .erasing ||
      (s.plane d k).st == .eraseSuspProg) = true := by
    rw [hclk]
    obtain h | h | h := hst <;> rw [h] <;> decide
  rw [readTaken] at ho
  simp only [State.readDone, if_neg hfree, hreads, ho]
  rfl

/-! ### Suspends and resumes (R208, R210) -/

theorem planeSuspend_programming {n : Nat} (hn : n ≠ 0) (hst : (s.plane d k).st = .programming) (hprog : (s.plane d k).prog.isSome = true)
    (hreads : (s.plane d k).reads ≠ []) (hlimit : (s.plane d k).pulses + n < s.rd Fld.keyFlashLim_progPulses) :
    s.planeSuspend d k n =
      ((s.modPlane d k fun p => { p with pulses := p.pulses + n }).modPlane d k fun p => { p with st := .progSuspended }).bump
        Fld.flcSuspCnt_count := by
  have hwithin : ¬(n = 0 ∨ s.pulseMax true ≤ State.Plane.applied (s.plane d k) true + n) := not_or.mpr ⟨hn, Nat.not_le.mpr hlimit⟩
  simp only [State.planeSuspend, hprog, if_neg hwithin, hst, List.isEmpty_iff, if_neg hreads]
  rfl

theorem planeSuspend_erasing {n : Nat} (hn : n ≠ 0) (hst : (s.plane d k).st = .erasing) (hprog : (s.plane d k).prog = none)
    (hwaits : s.otherRead (s.plane d k) = true ∨ s.otherProgram (s.plane d k) ≠ none)
    (hlimit : (s.plane d k).segs + n < 10 * s.rd Fld.keyFlashLim_erasePulses) :
    s.planeSuspend d k n =
      (((s.modPlane d k fun p => { p with segs := p.segs + n }).modPlane d k fun p => { p with st := .eraseSuspended }).bump
        Fld.flcSuspCnt_count).planeGo d k := by
  have hwithin : ¬(n = 0 ∨ s.pulseMax false ≤ State.Plane.applied (s.plane d k) false + n) := not_or.mpr ⟨hn, Nat.not_le.mpr hlimit⟩
  have hother : ¬(!s.otherRead (s.plane d k) && (s.otherProgram (s.plane d k)).isNone) = true := by
    simpa [Option.isNone_iff_eq_none, or_iff_not_imp_left] using hwaits
  simp only [State.planeSuspend, hprog, Option.isSome_none, if_neg hwithin, hst, if_neg hother]
  rfl

theorem planeResume_program (hreads : (s.plane d k).reads = []) (hst : (s.plane d k).st = .progSuspended) :
    s.planeResume d k = s.modPlane d k fun p => { p with st := .programming } := by
  simp [State.planeResume, hreads, hst]

theorem planeResume_erase (hreads : (s.plane d k).reads = []) (hst : (s.plane d k).st = .eraseSuspended)
    (hnone : s.otherProgram (s.plane d k) = none) : s.planeResume d k = s.modPlane d k fun p => { p with st := .erasing } := by
  simp [State.planeResume, hreads, hst, hnone]

/-! ### Verified programs and erases (R200, R208) -/

/-- What a program that verifies within its pulses does: the page of a RELOCATE is a step of its copy, any other page is held. -/
theorem programPass_eq {n : Nat} (hst : (s.plane d k).st = .programming ∨ (s.plane d k).st = .eraseSuspProg)
    (hprog : (s.plane d k).prog = some id) (ho : s.flashOp id = some o) (hn : n ≠ 0)
    (hlimit : (s.plane d k).pulses + n ≤ s.rd Fld.keyFlashLim_progPulses) : s.programPass d k n =
    if Fop.code o.w = 0x40 then s.relocateStep o d k
    else
      let phys := s.physOf d k (Fop.row o.w)
      let t := s.pageWrite d k phys (Fop.page o.w) (s.programData o k)
      let t := t.modBlock d k phys fun b => { b with next := Fop.page o.w + 1 }
      ((t.modPlane d k fun p => State.Plane.without p id).planeDone id k 0).planeGo d k := by
  have hruns : ((s.plane d k).st == .programming || (s.plane d k).st == .eraseSuspProg) = true := by
    obtain h | h := hst <;> rw [h] <;> rfl
  have hwithin : ¬(n = 0 ∨ s.pulseMax true < (s.plane d k).pulses + n) := not_or.mpr ⟨hn, Nat.not_lt.mpr hlimit⟩
  simp only [State.programPass, hruns, hprog, ho, if_neg hwithin]

theorem erasePass_erase {n : Nat} (hst : (s.plane d k).st = .erasing) (hers : (s.plane d k).ers = some id) (ho : s.flashOp id = some o)
    (hcode : Fop.code o.w = 0x20) (hn : n ≠ 0) (hpulse : ((s.plane d k).segs + n) % 10 = 0)
    (hlimit : (s.plane d k).segs + n ≤ 10 * s.rd Fld.keyFlashLim_erasePulses) :
    s.erasePass d k n =
      (let phys := s.physOf d k (Fop.row o.w)
       let t := (s.blockWipe d k phys).modBlock d k phys fun _ => {}
       let t := t.modFlash fun x => { x with needs := x.needs.filter fun n => !(n == (d, Fop.row o.w, k)) }
       ((t.modPlane d k fun p => State.Plane.without p id).planeDone id k 0).planeGo d k) := by
  have hwithin : ¬(n = 0 ∨ s.pulseMax false < (s.plane d k).segs + n ∨ ((s.plane d k).segs + n) % 10 ≠ 0) :=
    not_or.mpr ⟨hn, not_or.mpr ⟨Nat.not_lt.mpr hlimit, not_not_intro hpulse⟩⟩
  have hruns : ((s.plane d k).st == .erasing) = true := by rw [hst]; rfl
  simp only [State.erasePass, hruns, hers, ho, if_neg hwithin, hcode]
  rfl

/-! ### Pulse limits (R200, R201, R214) -/

/-- Block `phys` of plane `k`, which holds `row`, found grown-bad: 1 by a program, 2 by an erase. -/
def grownBad (s : State) (o : FlashOp) (d k cause : Nat) : State :=
  (((s.flashLog cause d k (Fop.row o.w) (Fop.page o.w)).wr Fld.flcStatus_fail 1).scanDie d).markBad d k (s.physOf d k (Fop.row o.w)) cause

/-- Plane `k` of operation `id` is done, with a reserve block (`ok`) or with none, and looks for work. -/
def limitTold (s : State) (d k id : Nat) (ok : Bool) : State :=
  ((s.modPlane d k fun p => State.Plane.without p id).planeDone id k (if ok then 2 else 3)).planeGo d k

theorem pulseLimit_program (hprog : (s.plane d k).prog = some id) (ho : s.flashOp id = some o) (hcode : Fop.code o.w = 0x10)
    (hrow : Fop.row o.w < Config.flashUnits) :
    s.pulseLimit d k =
      limitTold ((grownBad s o d k 1).replaceBlock d k (Fop.row o.w)).2 d k id ((grownBad s o d k 1).replaceBlock d k (Fop.row o.w)).1 := by
  have howned : decide (Config.flashUnits ≤ Fop.row o.w) = false := decide_eq_false (Nat.not_le.mpr hrow)
  simp only [State.pulseLimit, hprog, ho, hcode, howned, Option.isSome_some, if_true, Bool.not_true, Bool.and_false]
  rfl

theorem pulseLimit_erase (hprog : (s.plane d k).prog = none) (hers : (s.plane d k).ers = some id) (ho : s.flashOp id = some o)
    (hcode : Fop.code o.w = 0x20) (hrow : Fop.row o.w < Config.flashUnits) :
    s.pulseLimit d k =
      (let r := (grownBad s o d k 2).replaceBlock d k (Fop.row o.w)
       limitTold (if r.1 then
          (r.2.eraseBlock d k (Fop.row o.w) (r.2.physOf d k (Fop.row o.w))).modFlash fun x =>
            { x with needs := x.needs.filter fun n => !(n == (d, Fop.row o.w, k)) }
        else r.2) d k id r.1) := by
  have howned : decide (Config.flashUnits ≤ Fop.row o.w) = false := decide_eq_false (Nat.not_le.mpr hrow)
  simp only [State.pulseLimit, hprog, hers, ho, hcode, howned, Option.isSome_none, Bool.false_eq_true, if_false, Bool.not_false, Bool.and_true]
  rfl

/-! ### Cuts (R222, R223) -/

section
variable (hwhen : s.flag Fld.flcStatus_sagHold = true ∨ s.key.inReset.isSome = true)
include hwhen

theorem cutPlane_program (hprog : (s.plane d k).prog = some id) (hers : (s.plane d k).ers = none) : s.cutPlane d k = s.cutOp id := by
  have hcuts : (s.flag Fld.flcStatus_sagHold || s.key.inReset.isSome) = true := (Bool.or_eq_true _ _).mpr hwhen
  simp only [State.cutPlane, hcuts, hprog, hers]
  rfl

theorem cutPlane_erase (hprog : (s.plane d k).prog = none) (hers : (s.plane d k).ers = some id) : s.cutPlane d k = s.cutOp id := by
  have hcuts : (s.flag Fld.flcStatus_sagHold || s.key.inReset.isSome) = true := (Bool.or_eq_true _ _).mpr hwhen
  simp only [State.cutPlane, hcuts, hprog, hers]
  rfl

end

end

/-! ### The statement -/

/-- Settles O51: each event by what it does to a plane in its state, with the long operations going on behind it. -/
theorem flashPlanesFollowTheirTable : Obligations.FlashPlanesFollowTheirTable := by
  intro d k s
  refine ⟨⟨fun id r o out hclk hst hreads ho => ?_, fun n hn hst hprog hreads hlimit => ?_, fun n hn hst hprog hwaits hlimit => ?_,
    fun hreads hst => ?_, fun hreads hst hnone => ?_, fun id o n hst hprog ho hn hlimit => ?_,
    fun id o n hst hers ho hcode hn hpulse hlimit => ?_, fun id o hprog ho hcode hrow => ?_,
    fun id o hprog hers ho hcode hrow => ?_, fun id hwhen => ?_⟩, rfl⟩
  · exact next_runJobs (readDone_delivers hclk hst hreads ho out)
  · exact next_runJobs (planeSuspend_programming hn hst hprog hreads hlimit)
  · exact next_runJobs (planeSuspend_erasing hn hst hprog hwaits hlimit)
  · exact next_runJobs (planeResume_program hreads hst)
  · exact next_runJobs (planeResume_erase hreads hst hnone)
  · have hpass := programPass_eq hst hprog ho hn hlimit
    exact ⟨fun hpage => next_runJobs (hpass.trans (if_neg hpage)), fun hcopy => next_runJobs (hpass.trans (if_pos hcopy))⟩
  · exact next_runJobs (erasePass_erase hst hers ho hcode hn hpulse hlimit)
  · exact next_runJobs (pulseLimit_program hprog ho hcode hrow)
  · exact next_runJobs (pulseLimit_erase hprog hers ho hcode hrow)
  · exact ⟨fun hprog hers => next_runJobs (cutPlane_program hwhen hprog hers),
      fun hprog hers => next_runJobs (cutPlane_erase hwhen hprog hers)⟩

end Sys2Proof.Machine
end

section
/-!
PROOFS. MODEL_LOAD, MODEL_SWAP and MODEL_UNLOAD past their refusals, with an entry of the operation table.
-/
namespace Sys2Proof.Machine

section
variable {s : State} {c : Caller} {pkt : Packet} {i : Nat} (hfree : s.freeOp = some i)
include hfree

/-! ### MODEL_LOAD and MODEL_SWAP (R232, R247) -/

theorem modelLoad_begins {swap : Bool} (hpass : s.loadStatus pkt.span (pkt.fld 0 1) swap = none) : s.modelLoad c pkt swap =
    ((s.openOp i c (if swap then 0x12 else 0x10) pkt.span 0
        (.load { image := pkt.fld 0 1, swap, todo := [], legs := [], objs := [], ready := false })).modSpan pkt.span
      fun x => { x with swapPort := if swap then some c.port else none }).loadBegin pkt.span (pkt.fld 0 1) swap i := by
  simp only [State.modelLoad, hpass]
  exact startOp_free hfree ..

/-! ### MODEL_UNLOAD (R248) -/

theorem modelUnload_begins (hon : (s.span pkt.span).cfg.on = true) (hidle : s.spanBusy pkt.span = false)
    (huntrained : s.training pkt.span = false) (hmodel : (s.span pkt.span).cur.isSome = true) : s.modelUnload c pkt =
    (let t := s.openOp i c 0x11 pkt.span (s.boundTo pkt.span) (.unload pkt.force)
     let l := if pkt.force then t.spanSlots pkt.span else []
     ((t.modSpan pkt.span fun x => { x with
        unload := some (i, pkt.force), admitStop := true,
        forced := x.forced ++ l.map fun k => ⟨k, 8, 0x38⟩ }).wr Fld.imgSpan_state 5 0 pkt.span).setBit Fld.imgStatus_active pkt.span) := by
  have hfits : ¬((!(s.span pkt.span).cfg.on) = true ∨ s.spanBusy pkt.span = true ∨ s.training pkt.span = true) := by
    simp [hon, hidle, huntrained]
  have hholds : (s.span pkt.span).cur.isNone = false := Option.isNone_eq_false_iff.mpr hmodel
  simp only [State.modelUnload, if_neg hfits, hholds, Bool.false_eq_true, if_false]
  exact startOp_free hfree ..

end

/-! ### The statement -/

/-- Settles O14: an accepted command of each row passes its refusals and opens its operation. -/
theorem loadsSwapsAndUnloadsBegin : Obligations.LoadsSwapsAndUnloadsBegin := by
  intro p pkt s i hfree
  refine ⟨fun hacc hpass => ?_, fun hacc hpass => ?_, fun hacc hon hidle huntrained hmodel => ?_⟩
  · exact next_of_eq ((serve_accepted _ hacc).trans (modelLoad_begins hfree hpass))
  · exact next_of_eq ((serve_accepted _ hacc).trans (modelLoad_begins hfree hpass))
  · have hbegin := modelUnload_begins (c := s.asker 0x11 p pkt) (pkt := pkt.withOpcode 0x11) hfree hon hidle huntrained hmodel
    rw [withOpcode_force] at hbegin
    exact next_of_eq ((serve_accepted _ hacc).trans hbegin)

end Sys2Proof.Machine
end

section
/-!
PROOFS. The step boundary and the end of a step; what goes on between them: appends, page-table lines, relay packets and PACED releases.
-/
namespace Sys2Proof.Machine

/-! ### The boundary (R243, R260, R496; its order where R260 leaves it open: log entries 51 and 52) -/

/-- The items of a boundary that end and remove, and the remap of the cells `faulty`. -/
def boundaryEnds (s : State) (sp : Nat) (env : BoundaryEnv) (faulty : List (Nat × Nat)) : State :=
  (((((s.modSpan sp fun x => { x with again := false }).endRequests sp).forcedEnds sp).retireOld sp).unloadDone sp).remap sp env faulty

/-- Configuration and limits, as they follow the ends. -/
def boundaryConfig (s : State) (sp : Nat) (env : BoundaryEnv) : State :=
  (s.sweepObjs.commitBoundary sp env.deafDies).applyLimits

/-- The next step of a span that has none, and what the boundary has committed written out. -/
def boundaryNext (s : State) (sp : Nat) (env : BoundaryEnv) : State :=
  (if (s.span sp).batch.isSome then s else s.compose sp env).writeCommitted sp

section
variable {s : State} {sp : Nat} (hrun : s.running = true) (hawake : s.lull = false)
include hrun hawake

theorem stepBoundary_between (env : BoundaryEnv) (hnone : (s.span sp).batch = none) : s.stepBoundary sp env =
    (let t := boundaryConfig (boundaryEnds (s.after env.dt) sp env ((s.after env.dt).faultMoves sp)) sp env
     boundaryNext ((((t.switchPointer sp).switchAdapters sp).noteMasks sp).admission sp) sp env) := by
  simp only [State.stepBoundary, hrun, hawake, hnone, Option.isSome_none, Bool.not_true, Bool.false_and, Bool.or_false, Bool.false_eq_true,
    if_false]
  rfl

theorem stepBoundary_abandoned (env : BoundaryEnv) {b : Batch} (hb : (s.span sp).batch = some b) (habandoned : s.abandoned sp = true) :
    s.stepBoundary sp env =
    (let t := boundaryConfig (boundaryEnds ((s.after env.dt).spanReset sp) sp env ((s.after env.dt).faultMoves sp)) sp env
     boundaryNext ((((t.switchAdapters sp).noteMasks sp).admission sp).repeatBatch sp b) sp env) := by
  simp only [State.stepBoundary, hrun, hawake, hb, habandoned, Option.isSome_some, Bool.not_true, Bool.and_false, Bool.or_false,
    Bool.false_eq_true, if_false, if_true]
  rfl

end

/-! ### The end of a step (R259) -/

/-- A step that ends without late objects, and whose span has no faults. -/
theorem stepEnd_clean {s : State} {sp : Nat} {b : Batch} {r : StepResult} (hb : (s.span sp).batch = some b) (hontime : r.late = none)
    (hkept : s.abandoned sp = false) (hfaults : (s.span sp).faults = []) : s.stepEnd sp r =
    (let u := s.after r.dt
     let ids := (b.rows.map (·.slot)).dedup
     let rows := b.rows.mapIdx fun k e => (k, e)
     let t := forEach ids (fun i t => t.endSegment i (rows.filter fun e => e.2.slot == i) r (u.rowMasses sp)) u
     let t := (forEach b.pins (fun o t => t.unpin o) (t.dropMasses sp)).pumpAll
     ((t.bump64 Fld.srvSpanStep_steps 0 sp).clrBit Fld.kvwStatus_busy sp).modSpan sp fun x => { x with batch := none, appended := [] }) := by
  have hgoes : (s.after r.dt).abandoned sp = false := by simpa only [State.abandoned, State.after_span] using hkept
  simp only [State.stepEnd, hb, hgoes, hontime, State.after_span, hfaults, List.isEmpty_nil, Bool.false_eq_true, if_false, if_true]

/-! ### Appends (R341, R329) -/

/-- The row `r` is noted in its page of layer `l`, with the fill that it raises. -/
def appendNoted (s : State) (sp row l : Nat) (r : RowEntry) : State :=
  (s.putKvBlock r.slot l { s.kvBlock r.slot l with
    nextPos := max (s.kvBlock r.slot l).nextPos (r.pos + 1)
    entries := (s.kvBlock r.slot l).entries.map fun e =>
      if e.firstPos ≤ r.pos ∧ r.pos < e.firstPos + 16 then { e with fill := max e.fill (r.pos % 16 + 1) } else e }).modSpan sp
  fun x => { x with appended := (row, l) :: x.appended }

@[simp] theorem putKvBlock_span (s : State) (i l j : Nat) (b : LayerBlock) : (s.putKvBlock i l b).span j = s.span j := by
  simp only [State.putKvBlock]
  split
  · rfl
  · rfl

/-- After the row, what is appended of the step is what was, and the row. -/
theorem appendNoted_contains (s : State) (sp row l i : Nat) (r : RowEntry) :
    ((appendNoted s sp row l r).span sp).appended.contains (i, l) = (decide (i = row) || (s.span sp).appended.contains (i, l)) := by
  simp [appendNoted]

section
variable {s : State} {sp row l : Nat} {b : Batch} {c : ModelCopy} {r : RowEntry} (hb : (s.span sp).batch = some b)
  (hc : s.runningCopy sp = some c) (hr : b.rows[row]? = some r) (hl : l < c.hdr.layers)
  (hnew : (s.span sp).appended.contains (row, l) = false)
include hb hc hr hl hnew

theorem appendAcked_eq : s.appendAcked sp row l =
    if ∀ i < b.rows.length, i ≠ row → (s.span sp).appended.contains (i, l) = true then
      let t := appendNoted s sp row l r
      let a := Config.appendLatch c.hdr.modelId c.hdr.generation l
      ((t.signal (0x38 + sp) (t.roleLatch sp a.1 a.2) 1).issuePieces sp l).walk sp (l + 1)
    else appendNoted s sp row l r := by
  have hfresh : ¬(c.hdr.layers ≤ l ∨ (s.span sp).appended.contains (row, l) = true) :=
    not_or.mpr ⟨Nat.not_le.mpr hl, ne_true_of_eq_false hnew⟩
  have hlast : ((List.range b.rows.length).all fun i => ((appendNoted s sp row l r).span sp).appended.contains (i, l)) = true ↔
      ∀ i < b.rows.length, i ≠ row → (s.span sp).appended.contains (i, l) = true := by
    simp only [appendNoted_contains, List.all_eq_true, List.mem_range, Bool.or_eq_true, decide_eq_true_eq, or_iff_not_imp_left]
  simp only [State.appendAcked, hb, hc, hr, if_neg hfresh]
  exact if_congr hlast rfl rfl

end

/-! ### Page-table lines that land (R329, R331) -/

section
variable {s : State} {sp : SpanId} {i : Fin 4096} {layer line : Nat}
  (hmiss : ((SMap.get [] s.kv.misses sp).take 64).contains (s.labLine i layer line) = true)
include hmiss

theorem exec_labMissFill_lands : exec (.labMissFill sp i layer line false) s = .next
    ((s.modKv fun k => { k with misses := SMap.put [] k.misses sp ((SMap.get [] k.misses sp).erase (s.labLine i layer line)) }).labInsert sp
      (s.labLine i layer line)) := by
  simp only [exec, execLabMissFill, hmiss, Bool.not_true, Bool.false_eq_true, if_false]

theorem exec_labMissFill_parity : exec (.labMissFill sp i layer line true) s = .next ((s.wr Fld.kvwStatus_labPar 1).kvError 1 sp i layer) := by
  simp only [exec, execLabMissFill, hmiss, Bool.not_true, Bool.false_eq_true, if_false, if_true]

end

/-! ### Relay packets (R237 to R239) -/

/-- Roles of the copy that a span's load builds. -/
def buildRoles (s : State) (sp : Nat) : Nat := ((s.span sp).building.map (·.hdr.roles)).getD 0

section
variable {s : State} {sp i waited : Nat} {is : RelayHdr → Bool} {j : LoadJob} {at_ : Option Nat} {h : RelayHdr}

/-- Without a credit a packet waits, unless no role takes it. -/
theorem relayPacket_waits (howner : s.relayOwner sp is = some (i, j, at_, h)) : s.relayPacket sp is false waited =
    if at_.any fun k => h.role ≠ k ∧ buildRoles s sp ≤ k + 1 then (s.bump Fld.imgRelayStall_count 0 0 waited).failLoad i 0x24
    else s.bump Fld.imgRelayStall_count 0 0 waited := by
  simp only [State.relayPacket, howner]
  cases at_ with
  | none => rfl
  | some k =>
    by_cases hrole : h.role = k
    · simp [hrole]
    · simp [hrole, buildRoles]

theorem relayPacket_module (howner : s.relayOwner sp is = some (i, j, none, h)) : s.relayPacket sp is true waited =
    (s.bump Fld.imgRelayStall_count 0 0 waited).relayWrite sp i { j with todo := j.todo.tail } h := by
  simp only [State.relayPacket, howner, if_true]

theorem relayPacket_home (howner : s.relayOwner sp is = some (i, j, some h.role, h)) : s.relayPacket sp is true waited =
    (s.bump Fld.imgRelayStall_count 0 0 waited).relayWrite sp i (State.popHop j h.role) h := by
  simp only [State.relayPacket, howner, if_true]

theorem relayPacket_forward {k : Nat} (howner : s.relayOwner sp is = some (i, j, some k, h)) (hrole : h.role ≠ k)
    (hnext : k + 1 < buildRoles s sp) : s.relayPacket sp is true waited =
    (let u := s.bump Fld.imgRelayStall_count 0 0 waited
     if u.hopRoom j (k + 1) h then (u.setLoad i (State.pushHop (State.popHop j k) (k + 1) h)).relayGo i else u) := by
  rw [buildRoles] at hnext
  simp only [State.relayPacket, howner, if_neg hrole, if_neg (Nat.not_le.mpr hnext), Bool.true_and]

end

/-! ### PACED releases (R301, R302) -/

section
variable {s : State} {i : Fin 4096} {d : Nat} {x : Slot} (hpassed : d / 65536 ≤ s.periods)
include hpassed

theorem exec_pacedRelease_held (hstays : (s.leaving.find? fun e => e.1 == i.val) = none) (hpaced : (s.slot i).par.cls = 1)
    (hlive : (s.slot i).st ≠ 0) (hdue : (s.slot i).releaseDue = some d) : exec (.pacedRelease i) s = .next
    (let u := s.atCadence d
     (u.releaseAt i (s.slot i) d).2.modSlot i fun _ => (u.releaseAt i (s.slot i) d).1) := by
  simp only [exec, execPacedRelease, hstays, if_pos (And.intro hpaced hlive), hdue, if_neg (Nat.not_lt.mpr hpassed)]

theorem exec_pacedRelease_left {k : Nat} (hleft : (s.leaving.find? fun e => e.1 == i.val) = some (k, x)) (hdue : x.releaseDue = some d) :
    exec (.pacedRelease i) s = .next
    (let r := (s.atCadence d).releaseAt i x d
     { r.2 with leaving := if r.1.held.isEmpty then r.2.leaving.erase (i.val, x)
                           else r.2.leaving.map fun e => if e = (i.val, x) then (i.val, r.1) else e }) := by
  simp only [exec, execPacedRelease, hleft, hdue, if_neg (Nat.not_lt.mpr hpassed)]

end

/-! ### The statement -/

/-- Settles O53: a boundary by whether its span stands between steps or after an abandoned one, an append by whether it is the last of its layer,
a relay packet by where it stands, a release by whether its request has left its slot. -/
theorem stepsRunAtTheirBoundaries : Obligations.StepsRunAtTheirBoundaries := by
  intro sp s
  refine ⟨fun env hrun hawake => ⟨fun hnone => ?_, fun b hb habandoned => ?_⟩, fun b r hb hontime hkept hfaults => ?_,
    fun b c r row l hb hc hr hl hnew => ⟨fun hmore => ?_, fun hlast => ?_⟩, fun i layer line hmiss => ?_,
    fun role o t i j at_ h waited howner => ⟨?_, fun hat => ?_, fun hat => ?_, fun k hat hrole hnext => ?_⟩,
    fun i d hpassed => ⟨fun hstays hpaced hlive hdue => ?_, fun k x hleft hdue => ?_⟩⟩
  · exact next_of_eq (stepBoundary_between hrun hawake env hnone)
  · exact next_of_eq (stepBoundary_abandoned hrun hawake env hb habandoned)
  · exact next_of_eq (stepEnd_clean hb hontime hkept hfaults)
  · obtain ⟨i, hi, hother, hopen⟩ := hmore
    have hfirst : ¬∀ i < b.rows.length, i ≠ row → (s.span sp).appended.contains (i, l) = true := fun hall =>
      ne_true_of_eq_false hopen (hall i hi hother)
    exact next_of_eq ((appendAcked_eq hb hc hr hl hnew).trans (if_neg hfirst))
  · exact next_of_eq ((appendAcked_eq hb hc hr hl hnew).trans (if_pos hlast))
  · exact ⟨exec_labMissFill_lands hmiss, exec_labMissFill_parity hmiss⟩
  · exact next_of_eq (relayPacket_waits howner)
  · subst hat
    exact next_of_eq (relayPacket_module howner)
  · subst hat
    exact next_of_eq (relayPacket_home howner)
  · subst hat
    exact next_of_eq (relayPacket_forward howner hrole hnext)
  · exact exec_pacedRelease_held hpassed hstays hpaced hlive hdue
  · exact exec_pacedRelease_left hpassed hleft hdue

end Sys2Proof.Machine
end

section
/-!
PROOFS. The request commands past their refusals: REQ_CREATE, REQ_APPEND, REQ_CANCEL and REQ_QUERY, by tag and by slot.
-/
namespace Sys2Proof.Machine

/-! ### REQ_CREATE (R254, R255, R403) -/

/-- The request that a REQ_CREATE of caller `c` enters. -/
def createdReq (c : Caller) (pkt : Packet) : Req where
  who := c
  st := 0
  span := pkt.span
  modelId := leAt pkt.body 0xD0 16
  par := Params.ofBody pkt.body
  prompt := slice pkt.body 0xF0 (leAt pkt.body 0xE0 4)
  kind := byteAt pkt.body 0xE4
  ended := false
  tokens := []
  fffd := false
  stamp := c.time
  pendAt := 0
  why := 0x30

/-- Request `r` at the end of the waiting requests. -/
def reqEntered (s : State) (r : Req) : State := { s with reqs := s.reqs ++ [r] }

theorem reqCreate_enters {s : State} {c : Caller} {pkt : Packet} (htarget : pkt.target = 0) (hgen : pkt.gen = 0)
    (hspan : pkt.span < 8 ∨ pkt.span = 0xFF) (hpass : s.createStatus pkt (Params.ofBody pkt.body) = none) :
    s.reqCreate c pkt =
      if (Params.ofBody pkt.body).more then reqEntered s (createdReq c pkt)
      else (reqEntered s (createdReq c pkt)).endPrompt (createdReq c pkt) := by
  have hfields : ¬(pkt.target ≠ 0 ∨ pkt.gen ≠ 0) := not_or.mpr ⟨not_not_intro htarget, not_not_intro hgen⟩
  have hnamed : ¬(8 ≤ pkt.span ∧ pkt.span ≠ 0xFF) := by omega
  simp only [State.reqCreate, if_neg hfields, if_neg hnamed, hpass, reqEntered, createdReq]

/-- Settles O16: an accepted REQ_CREATE that passes R255 enters its request. -/
theorem createEntersTheWaitingRequests : Obligations.CreateEntersTheWaitingRequests := by
  intro p pkt s hacc htarget hgen hspan hpass
  exact next_of_eq ((serve_accepted _ hacc).trans (reqCreate_enters htarget hgen hspan hpass))

/-! ### REQ_APPEND (R258, R404) -/

/-- The part of a prompt that a REQ_APPEND carries. -/
def appendPart (pkt : Packet) : List Byte := slice pkt.body 0x10 (leAt pkt.body 0 4)

/-- The body of a REQ_APPEND is well-shaped. -/
def AppendFormed (pkt : Packet) : Prop :=
  promptOk pkt.body [(0, 5), (6, 2), (8, 4)] 0x10 (leAt pkt.body 0 4) (byteAt pkt.body 4) = true

/-- Request `r` with the part of a REQ_APPEND at the end of its prompt. -/
def lengthened (r : Req) (pkt : Packet) : Req :=
  { r with prompt := r.prompt ++ appendPart pkt, kind := joinKind r.prompt (appendPart pkt) r.kind (byteAt pkt.body 4) }

section
variable {s : State} {c : Caller} {pkt : Packet} (hspan : pkt.span = 0xFF) (hformed : AppendFormed pkt)
include hspan hformed

theorem reqAppend_byTag {r : Req} (htag : pkt.target = 0xFFFF) (hr : s.reqByTag c.port (leAt pkt.body 6 2) = some r)
    (hopen : r.ended = false) (hfits : r.prompt.length + (appendPart pkt).length ≤ promptMax) :
    s.reqAppend c pkt =
      (let t := (s.putReq r (lengthened r pkt)).fin c 0x00
       if pkt.ends then t.endPrompt (lengthened r pkt) else t) := by
  have hshape : ¬(!promptOk pkt.body [(0, 5), (6, 2), (8, 4)] 0x10 (leAt pkt.body 0 4) (byteAt pkt.body 4)) = true :=
    ne_true_of_eq_false (congrArg not hformed)
  have hroom : ¬promptMax < r.prompt.length + (appendPart pkt).length := Nat.not_lt.mpr hfits
  rw [appendPart] at hroom
  simp only [State.reqAppend, if_neg (not_not_intro hspan), if_pos htag, hr, if_neg hshape, hopen, Bool.false_eq_true, if_false,
    if_neg hroom, lengthened, appendPart]

theorem reqAppend_bySlot (hslot : pkt.target ≠ 0xFFFF) (hown : s.ownSlot c.port pkt = true)
    (hcls : (s.slot pkt.target).par.cls = pkt.cls) (hres : leAt pkt.body 6 2 = 0)
    (hmax : leAt pkt.body 8 4 = 0 ∨ (s.slot pkt.target).par.minNew ≤ leAt pkt.body 8 4) (hparked : (s.slot pkt.target).st = slParked)
    (hstays : (s.slot pkt.target).endDue = false) (hturn : (s.slot pkt.target).turn.any (·.ended) = false) :
    s.reqAppend c pkt = s.appendTurn c pkt.target (appendPart pkt) (byteAt pkt.body 4) (leAt pkt.body 8 4) pkt.ends := by
  have hfields : ¬((s.slot pkt.target).par.cls ≠ pkt.cls ∨
      (!promptOk pkt.body [(0, 5), (6, 2), (8, 4)] 0x10 (leAt pkt.body 0 4) (byteAt pkt.body 4)) = true ∨ leAt pkt.body 6 2 ≠ 0 ∨
      (leAt pkt.body 8 4 ≠ 0 ∧ leAt pkt.body 8 4 < (s.slot pkt.target).par.minNew)) := by
    rintro (h | h | h | ⟨hset, hlow⟩)
    · exact h hcls
    · exact ne_true_of_eq_false (congrArg not hformed) h
    · exact h hres
    · omega
  have hwaits : ¬((s.slot pkt.target).st ≠ slParked ∨ (s.slot pkt.target).endDue = true ∨
      (s.slot pkt.target).turn.any (·.ended) = true) := by
    simp [hparked, hstays, hturn]
  simp only [State.reqAppend, if_neg (not_not_intro hspan), if_neg hslot, hown, Bool.not_true, Bool.false_eq_true, if_false, if_neg hfields,
    if_neg hwaits, appendPart]

end

/-- Settles O17: an accepted REQ_APPEND by what it names, a waiting request or the slot of a PARKED one. -/
theorem appendLengthensThePrompt : Obligations.AppendLengthensThePrompt := by
  intro p pkt s hacc hspan hformed
  have hserve := serve_accepted (fun c pkt s => s.reqAppend c pkt) hacc
  refine ⟨fun r htag hr hopen hfits => ?_, fun hslot hown hcls hres hmax hparked hstays hturn => ?_⟩
  · have happend := reqAppend_byTag (c := s.asker 0x21 p pkt) (pkt := pkt.withOpcode 0x21) hspan hformed htag hr hopen hfits
    rw [withOpcode_ends] at happend
    exact next_of_eq (hserve.trans happend)
  · have happend := reqAppend_bySlot (c := s.asker 0x21 p pkt) (pkt := pkt.withOpcode 0x21) hspan hformed hslot hown hcls hres hmax hparked
      hstays hturn
    rw [withOpcode_ends] at happend
    exact next_of_eq (hserve.trans happend)

/-! ### REQ_CANCEL and REQ_QUERY (R253, R279, R400) -/

/-- A packet that names no span names a request: one with a target of 0xFFFF carries a tag. -/
theorem names_request {pkt : Packet} (hspan : pkt.span = 0xFF) (htag : pkt.target = 0xFFFF → 2 ≤ pkt.body.length) :
    ¬(pkt.span ≠ 0xFF ∨ (pkt.target = 0xFFFF ∧ pkt.body.length < 2)) :=
  not_or.mpr ⟨not_not_intro hspan, fun ⟨h, hshort⟩ => Nat.not_lt.mpr (htag h) hshort⟩

section
variable {s : State} {c : Caller} {pkt : Packet} (hspan : pkt.span = 0xFF) (hbody : State.tagBodyOk pkt = true)
include hspan hbody

section
variable {r : Req} (htag : pkt.target = 0xFFFF) (hlen : 2 ≤ pkt.body.length) (hr : s.reqByTag c.port (leAt pkt.body 0 2) = some r)
include htag hlen hr

theorem reqCancel_byTag : s.reqCancel c pkt = (s.dropReq r 0x0E).fin c 0x00 := by
  simp only [State.reqCancel, if_neg (names_request hspan fun _ => hlen), hbody, Bool.not_true, Bool.false_eq_true,
    if_false, if_pos htag, hr]

theorem reqQuery_byTag : s.reqQuery c pkt = s.final c 0x00 0 (leBytes 1 (0x80 + r.st) ++ leBytes 255 0) := by
  simp only [State.reqQuery, if_neg (names_request hspan fun _ => hlen), hbody, Bool.not_true, Bool.false_eq_true,
    if_false, if_pos htag, hr]

end

section
variable (hslot : pkt.target ≠ 0xFFFF) (hown : s.ownSlot c.port pkt = true) (hcls : (s.slot pkt.target).par.cls = pkt.cls)
include hslot hown hcls

theorem reqCancel_bySlot :
    s.reqCancel c pkt = (s.fin c 0x00).cancelSlot pkt.target (s.flag Fld.hptCtrl_cancelMode c.port) := by
  simp only [State.reqCancel, if_neg (names_request hspan fun h => absurd h hslot), hbody, Bool.not_true,
    Bool.false_eq_true, if_false, if_neg hslot, hown, if_neg (not_not_intro hcls)]

theorem reqQuery_bySlot : s.reqQuery c pkt = s.final c 0x00 0 ((s.slot pkt.target).encode (s.kvPages pkt.target)) := by
  simp only [State.reqQuery, if_neg (names_request hspan fun h => absurd h hslot), hbody, Bool.not_true,
    Bool.false_eq_true, if_false, if_neg hslot, hown, if_neg (not_not_intro hcls)]

end
end

/-- Settles O18: each accepted command by what it names, a waiting request or a slot. -/
theorem cancelAndQueryOfRequests : Obligations.CancelAndQueryOfRequests := by
  intro p pkt s hspan hbody
  refine ⟨fun r htag hlen hr => ⟨fun hacc => ?_, fun hacc => ?_⟩, fun hslot hown hcls => ⟨fun hacc => ?_, fun hacc => ?_⟩⟩
  · exact next_of_eq ((serve_accepted _ hacc).trans (reqCancel_byTag hspan hbody htag hlen hr))
  · exact next_of_eq ((serve_accepted _ hacc).trans (reqQuery_byTag hspan hbody htag hlen hr))
  · exact next_of_eq ((serve_accepted _ hacc).trans (reqCancel_bySlot hspan hbody hslot hown hcls))
  · exact next_of_eq ((serve_accepted _ hacc).trans (reqQuery_bySlot hspan hbody hslot hown hcls))

end Sys2Proof.Machine
end

section
/-!
PROOFS. The commands of the span map past their refusals: SPAN_CONFIGURE, CONFIG_STAGE and CONFIG_COMMIT.
-/
namespace Sys2Proof.Machine

theorem record_fits {r : SpanRec} (hrange : r.on = true → r.inRange = true) : ¬(r.on = true ∧ (!r.inRange) = true) :=
  fun ⟨hon, hout⟩ => ne_true_of_eq_false (congrArg not (hrange hon)) hout

/-- A shadow set without an owner, or with the port as its owner, is not another's (R283). -/
theorem shadow_free {s : State} {w : Nat} (howner : s.shadowOwner = 0 ∨ s.shadowOwner = w) :
    ¬(s.shadowOwner ≠ 0 ∧ s.shadowOwner ≠ w) := fun ⟨hset, hother⟩ => howner.elim hset hother

/-! ### SPAN_CONFIGURE (R22, R282) -/

/-- A record in range, for an EMPTY idle span that takes nothing from another and makes a legal map, is applied at once. -/
theorem spanConfigure_applies {s : State} {c : Caller} {pkt : Packet} {r : SpanRec} (hr : SpanRec.ofBody pkt.body = r)
    (hrange : r.on = true → r.inRange = true) (hempty : s.rd Fld.imgSpan_state 0 pkt.span = 0) (hidle : s.spanBusy pkt.span = false)
    (huntrained : s.training pkt.span = false)
    (hown : ∀ a ∈ State.eightSpans, a ≠ pkt.span → shareCells r (s.span a).cfg = false ∧ shareLatch r (s.span a).cfg = false)
    (hpair : s.pairOk (s.mapWith [(pkt.span, r)]) pkt.span = true) (hmap : s.mapStatus (s.mapWith [(pkt.span, r)]) = none) :
    s.spanConfigure c pkt = (s.applyRecs [(pkt.span, r)]).fin c 0x00 := by
  have htakes : (State.eightSpans.any fun a =>
      a != pkt.span && (shareCells r (s.span a).cfg || shareLatch r (s.span a).cfg)) = false := by
    refine List.any_eq_false.mpr fun a ha h => ?_
    obtain ⟨hother, hshares⟩ := Bool.and_eq_true_iff.mp h
    obtain ⟨hcells, hlatch⟩ := hown a ha (bne_iff_ne.mp hother)
    simp [hcells, hlatch] at hshares
  simp only [State.spanConfigure, hr, if_neg (record_fits hrange), hmap, hempty, hidle, huntrained, htakes, hpair, ne_eq,
    not_true, Bool.false_eq_true, Bool.not_true, or_self, if_false]

section
variable {s : State} {c : Caller} {pkt : Packet} (hdrain : s.draining = false)
  (howner : s.shadowOwner = 0 ∨ s.shadowOwner = portIdent c.port)
include hdrain howner

/-! ### CONFIG_STAGE (R283) -/

theorem configStage_stages {r : SpanRec} (hr : SpanRec.ofBody pkt.body = r) (hrange : r.on = true → r.inRange = true)
    (hbits : r.on = true → s.holdsModel pkt.span = true → r.bits = (s.span pkt.span).cfg.bits) :
    s.configStage c pkt =
      ({ (s.wr Fld.srvStatus_shadowOwner (portIdent c.port)).wr Fld.srvStatus_shadowHeld 1 with
          shadow := s.shadow.filter (fun e => e.1 != pkt.span) ++ [(pkt.span, r)] } : State).fin c 0x00 := by
  have hsame : ¬(r.on = true ∧ s.holdsModel pkt.span = true ∧ r.bits ≠ (s.span pkt.span).cfg.bits) := fun ⟨hon, hholds, h⟩ =>
    h (hbits hon hholds)
  simp only [State.configStage, hr, hdrain, Bool.false_eq_true, if_false, if_neg (shadow_free howner), if_neg (record_fits hrange),
    if_neg hsame, State.wr_shadow]

/-! ### CONFIG_COMMIT (R283 to R285) -/

/-- The shadow set with guarantees withdrawn where the new layout does not carry them (R284). -/
def carried (s : State) : State := if s.carries s.shadow then s else s.forceCarry s.shadow

/-- The shadow set queued as one commit, and emptied. -/
def shadowQueued (s : State) (force : Bool) : State :=
  ({ carried s with commits := (carried s).commits ++ [⟨s.shadow, s.shadow.map (·.1), [], [], force⟩] } : State).dropShadow

variable (hheld : s.shadow ≠ [])
include hheld

theorem configCommit_discards (hdiscard : pkt.discard = true) : s.configCommit c pkt = s.dropShadow.fin c 0x00 := by
  simp only [State.configCommit, hdrain, Bool.false_eq_true, if_false, if_neg (shadow_free howner),
    List.isEmpty_eq_false_iff.mpr hheld, if_pos hdiscard]

theorem configCommit_queues (hkeep : pkt.discard = false) (hpass : s.commitStatus pkt.force = none) :
    s.configCommit c pkt =
      (if 2 ≤ s.shadow.length then (shadowQueued s pkt.force).wr Fld.srvStatus_draining (maskOf (s.shadow.map (·.1)))
       else shadowQueued s pkt.force).fin c 0x00 := by
  simp only [State.configCommit, hdrain, Bool.false_eq_true, if_false, if_neg (shadow_free howner),
    List.isEmpty_eq_false_iff.mpr hheld, hkeep, hpass, shadowQueued, carried]

end

/-! ### The statement -/

/-- Settles O19: an accepted command of each row passes the refusals that its hypotheses rule out. -/
theorem spanMapCommandsTakeEffect : Obligations.SpanMapCommandsTakeEffect := by
  intro p pkt s
  refine ⟨fun hacc hrange hempty hidle huntrained hown hpair hmap => ?_, fun hacc hdrain howner hrange hbits => ?_,
    fun hacc hdrain howner hheld => ⟨fun hdiscard => ?_, fun hkeep hpass => ?_⟩⟩
  · exact next_of_eq ((serve_accepted _ hacc).trans (spanConfigure_applies rfl hrange hempty hidle huntrained hown hpair hmap))
  · exact next_of_eq ((serve_accepted _ hacc).trans (configStage_stages hdrain howner rfl hrange hbits))
  · exact next_of_eq ((serve_accepted _ hacc).trans (configCommit_discards hdrain howner hheld (by simpa using hdiscard)))
  · have hqueues := configCommit_queues (c := s.asker 0x32 p pkt) (pkt := pkt.withOpcode 0x32) hdrain howner hheld (by simpa using hkeep)
      (by simpa using hpass)
    rw [withOpcode_force] at hqueues
    exact next_of_eq ((serve_accepted _ hacc).trans hqueues)

end Sys2Proof.Machine
end

section
/-!
PROOFS. What ends by itself: tokenizing, the waits of PENDING and PARKED requests, the readback of the epoch, the work of a training step.
-/
namespace Sys2Proof.Machine

/-! ### A reply leaves the context slots alone (R397, R435) -/

@[simp] theorem fire_slots (s : State) (p v : Nat) : (s.fire p v).slots = s.slots := by
  rw [State.fire]
  split <;> rfl

@[simp] theorem signalQueue_slots (s : State) (p k : Nat) : (s.signalQueue p k).slots = s.slots := fire_slots s p (k - 1)

@[simp] theorem readable_slots (s : State) (p k : Nat) : (s.readable p k).slots = s.slots := by
  unfold State.readable
  split
  · exact signalQueue_slots s p k
  · split
    · split
      · rfl
      · exact signalQueue_slots s p k
    · exact signalQueue_slots s p k
  · rfl

theorem onlyIf_slots {f : State → State} (hf : ∀ t, (f t).slots = t.slots) (b : Bool) (s : State) : (onlyIf b f s).slots = s.slots := by
  cases b
  · rfl
  · exact hf s

@[simp] theorem crossed_slots (s : State) (p k a b : Nat) : (s.crossed p k a b).slots = s.slots := by
  simp only [State.crossed]
  rw [onlyIf_slots, onlyIf_slots, onlyIf_slots]
  · exact fun t => (State.bump_slots ..).trans (State.wr_slots ..)
  · exact fun t => (State.bump_slots ..).trans (State.wr_slots ..)
  · exact fun t => signalQueue_slots t p k

@[simp] theorem fillHead_slots (s : State) (p k : Nat) : (s.fillHead p k).slots = s.slots := by
  simp only [State.fillHead]
  split
  · rfl
  · split
    · rfl
    · split
      · rfl
      · exact readable_slots ..

@[simp] theorem enqueue_slots (s : State) (p k prio : Nat) (b : List Byte) (share : Option (Nat × Nat)) (lines : Nat) (refusal : Bool) :
    (s.enqueue p k prio b share lines refusal).slots = s.slots := by
  simp only [State.enqueue]
  split
  · rfl
  · split
    · exact (fillHead_slots ..).trans (crossed_slots ..)
    · exact crossed_slots ..

@[simp] theorem fin_slots (s : State) (c : Caller) (status : Nat) : (s.fin c status).slots = s.slots := enqueue_slots ..

theorem slot_congr {s t : State} (h : t.slots = s.slots) (i : Nat) : t.slot i = s.slot i := by rw [State.slot, State.slot, h]

/-! ### Tokenizing (R257) -/

theorem tokenized_waiting {s : State} {p tag : Nat} {r : Req} (tokens : List Nat) (replaced : Bool)
    (hr : s.reqs.find? (fun r => r.who.port == p && r.who.tag == tag && r.st == 0 && r.ended && r.kind == 0) = some r) :
    s.tokenized p tag tokens replaced =
      (s.putReq r { r with tokens, fffd := replaced }).becomePending { r with tokens, fffd := replaced } := by
  simp only [State.tokenized, hr]

/-! ### PENDING (R254, R286) -/

theorem exec_admWaitExpiry_due {p : PortId} {tag : BitVec 16} {r : Req} {s : State} (hr : s.reqByTag p tag.toNat = some r) (hst : r.st = 1)
    (hpassed : (r.pendAt + max 1 r.par.admWait * 65536) / 65536 ≤ s.periods) :
    exec (.admWaitExpiry p tag) s = .next ((s.atCadence (r.pendAt + max 1 r.par.admWait * 65536)).dropReq r r.why) := by
  simp only [exec, execAdmWaitExpiry, hr, if_pos hst, State.whenPassed_due hpassed]

/-! ### PARKED (R254, R270) -/

/-- A staged turn that ends leaves the state of its request. -/
theorem dropTurn_st (s : State) (i status : Nat) : ((s.dropTurn i status).slot i).st = (s.slot i).st := by
  unfold State.dropTurn
  split
  · rfl
  · rw [apply_ite (fun t : State => (t.slot i).st), slot_congr (fin_slots ..), State.modSlot_slot_same, ite_self]

theorem markEnding_live {s : State} {i : Nat} (hlive : (s.slot i).st ≠ 0) (hgoing : (s.slot i).st ≠ slEnding) (reason status : Nat) :
    s.markEnding i reason status =
      s.modSlot i fun x => { x with st := slEnding, endReason := reason, endStatus := status, finalDue := true } :=
  if_neg (not_or.mpr ⟨hgoing, hlive⟩)

/-- Periods that a PARKED request may stay (R270). -/
def parkPeriods (x : Slot) : Nat := if x.par.parkLimit = 0 then 65535 else x.par.parkLimit

theorem exec_parkLimitExpiry_due {i : Fin 4096} {s : State} (hparked : (s.slot i).st = slParked) (hstays : (s.slot i).endDue = false)
    (hpassed : ((s.slot i).parkedAt + parkPeriods (s.slot i) * 65536) / 65536 ≤ s.periods) :
    exec (.parkLimitExpiry i) s = .next
      (((s.atCadence ((s.slot i).parkedAt + parkPeriods (s.slot i) * 65536)).dropTurn i 0x2E).markEnding i 10 0x00) := by
  have hwaits : (s.slot i).st = slParked ∧ (!(s.slot i).endDue) = true := ⟨hparked, by simp [hstays]⟩
  exact (if_pos hwaits).trans (next_of_eq (State.whenPassed_due hpassed))

/-! ### The epoch of a die (R490) -/

theorem exec_epochReadbackTimeout_late {d : Fin 6} {s : State} (hserves : s.dieServing d = true)
    (hlate : s.rd Fld.keyDie_epoch 0 d ≠ s.rd Fld.srvCfgEpoch_epoch) (again : Bool) :
    exec (.epochReadbackTimeout d again) s = .next
      (if again then (s.keyFault 0x07 0 d.val).requestReset .dieMismatch
       else s.wr Fld.keyDie_epoch (s.rd Fld.srvCfgEpoch_epoch) 0 d) := by
  have hwaits : ¬((!s.dieServing d || s.rd Fld.keyDie_epoch 0 d == s.rd Fld.srvCfgEpoch_epoch) = true) := by simp [hserves, hlate]
  exact (if_neg hwaits).trans (apply_ite ..).symm

/-! ### Training steps (R373, R374) -/

/-- What the outcome of a step does to job `j` of entry `i`. -/
def trainOutcome (s : State) (i : Nat) (j : TrainJob) : TrainOutcome → State
  | .gradients heads g => s.trainTake i j heads g
  | .datasetLost => s.trainEnd i j 0x57
  | .ckptLost => s.trainEnd i j 0x57

/-- The end of a step of a job that runs, in a span without faults, is what its outcome says. -/
theorem trainStep_taken {s : State} {i : Nat} {j : TrainJob} (hlive : (s.op i).live = true) (hjob : (s.op i).job = .train j)
    (hruns : (s.op i).st = 0) (hfaults : (s.span (s.op i).span).faults = []) (out : TrainOutcome) :
    s.trainStep i out = trainOutcome s i j out := by
  have hgoes : ¬((s.op i).st = 1 ∧ (!j.finishing) = true ∨ (!(s.span (s.op i).span).faults.isEmpty) = true) := by simp [hruns, hfaults]
  cases out <;> simp only [State.trainStep, hlive, hjob, if_neg hgoes, trainOutcome]

/-! ### The statement -/

/-- Settles O54: each event by the lemma of what it ends; a PARKED request is live and not yet ENDING, also after its staged turn is dropped. -/
theorem waitsOfRequestsAndJobsEnd : Obligations.WaitsOfRequestsAndJobsEnd := by
  refine ⟨fun p tag tokens f r s hr => ?_, fun p tag r s hr hst hpassed => ?_, fun i s hparked hstays hpassed => ?_,
    fun d s hserves hlate => ⟨?_, ?_⟩, fun i j s hlive hjob hruns hfaults => ⟨fun heads g => ?_, ?_, ?_⟩⟩
  · exact next_of_eq (tokenized_waiting tokens f hr)
  · exact exec_admWaitExpiry_due hr hst hpassed
  · have hst (e : Nat) : (((s.atCadence e).dropTurn i 0x2E).slot i).st = slParked := (dropTurn_st ..).trans hparked
    refine (exec_parkLimitExpiry_due hparked hstays hpassed).trans (next_of_eq (markEnding_live ?_ ?_ 10 0x00)) <;> rw [hst] <;> decide
  · exact exec_epochReadbackTimeout_late hserves hlate false
  · exact exec_epochReadbackTimeout_late hserves hlate true
  · exact next_of_eq (trainStep_taken hlive hjob hruns hfaults (.gradients heads g))
  · exact next_of_eq (trainStep_taken hlive hjob hruns hfaults .datasetLost)
  · exact next_of_eq (trainStep_taken hlive hjob hruns hfaults .ckptLost)

end Sys2Proof.Machine
end

section
/-!
PROOFS. The cadence unit and POWER_SET: edges, boundaries and source changes by the state of the unit, and the two commands past their refusals.
-/
namespace Sys2Proof.Machine

/-! ### Edges of the locked source (R287, R289, R293, R294) -/

/-- A locked unit listens to its source alone. -/
theorem listens_locked {s : State} (hst : s.cadState = 1) (src : Nat) : s.listens src = (s.rd Fld.cadStatus_source == src) := by
  simp only [State.listens, hst]

section
variable {s : State} {src : Nat} (hext : src ≠ 2) (hptm : src = 1 → s.cad.ptmFailed = false) (hsource : s.rd Fld.cadStatus_source = src)
  (hst : s.cadState = 1)
include hext hptm hsource hst

/-- What an edge of the locked source does turns on the window and on whether the unit aligns. -/
theorem cadEdge_locked (d : Nat) :
    s.cadEdge src d =
      if s.inWindow then s.acceptEdge src d
      else if s.flag Fld.cadStatus_aligning then (s.noteEdge src true).steer
      else s.bump Fld.cadGlitchCnt_count := by
  have hheard : ¬(src = 2 ∨ (src = 1 ∧ s.cad.ptmFailed = true) ∨ (!s.listens src) = true) := by
    rintro (h | ⟨h, hfailed⟩ | h)
    · exact hext h
    · exact ne_true_of_eq_false (hptm h) hfailed
    · simp [listens_locked hst, hsource] at h
  exact (if_neg hheard).trans (if_pos hst)

theorem cadEdge_accepted (hin : s.inWindow = true) (d : Nat) : s.cadEdge src d = s.acceptEdge src d :=
  (cadEdge_locked hext hptm hsource hst d).trans (if_pos hin)

theorem cadEdge_glitch (hout : s.inWindow = false) (haligned : s.flag Fld.cadStatus_aligning = false) (d : Nat) :
    s.cadEdge src d = s.bump Fld.cadGlitchCnt_count :=
  (cadEdge_locked hext hptm hsource hst d).trans
    ((if_neg (ne_true_of_eq_false hout)).trans (if_neg (ne_true_of_eq_false haligned)))

end

/-! ### Boundaries without an edge (R290, R294, R295) -/

theorem flywheels_iff (s : State) : s.flywheels = true ↔ s.cadState ≠ 1 ∨ s.flag Fld.cadStatus_aligning = true := by
  rw [State.flywheels, Bool.or_eq_true, bne_iff_ne]

/-- The missing edge of a locked unit that does not align: the boundary at 17/16 of the period, counted. -/
theorem exec_periodTimeout_locked {s : State} (hst : s.cadState = 1) (haligned : s.flag Fld.cadStatus_aligning = false) (d : Nat) :
    exec (.periodTimeout d) s = .next
      (let t := s.cad.last + s.periodNs * 17 / 16
       ((s.modCad fun c => { c with inserted := t + 1 }).bump Fld.cadMissCnt_count).boundaryAt t d) :=
  if_neg fun h => ((flywheels_iff s).mp h).elim (· hst) (ne_true_of_eq_false haligned)

theorem exec_flywheelBoundary_free {s : State} (hfly : s.cadState ≠ 1 ∨ s.flag Fld.cadStatus_aligning = true) (d : Nat) :
    exec (.flywheelBoundary d) s = .next (s.flywheel d) :=
  if_pos ((flywheels_iff s).mpr hfly)

/-! ### CADENCE_SET (R315) -/

/-- Whether the order of sources of a CADENCE_SET names the PTM source. -/
def namesPtm (pkt : Packet) : Bool := (List.range 3).any fun i => nbits (pkt.fld 0 4) 5 0 / 4 ^ i % 4 == 1

/-- The port that a CADENCE_SET names for PTM. -/
def ptmPort (pkt : Packet) : Nat := nbits (pkt.fld 0 4) 9 8

/-- The body of a CADENCE_SET keeps the rules of R315: reserved bits clear, a hold of at least one period, sources of the table, and a PTM
period of 0.5 to 50 ms. -/
structure CadSetFormed (pkt : Packet) : Prop where
  high : nbits (pkt.fld 0 4) 31 26 = 0
  middle : nbits (pkt.fld 0 4) 15 10 = 0
  low : nbits (pkt.fld 0 4) 6 6 = 0
  hold : nbits (pkt.fld 0 4) 25 16 ≠ 0
  sources : ∀ i < 3, nbits (pkt.fld 0 4) 5 0 / 4 ^ i % 4 ≠ 3
  period : namesPtm pkt = true → 500000 ≤ pkt.fld 4 4 ∧ pkt.fld 4 4 ≤ 50000000

theorem cadenceSet_pends {s : State} {c : Caller} {pkt : Packet} (hf : CadSetFormed pkt)
    (hport : namesPtm pkt = true → s.portUp (ptmPort pkt) = true ∧ Config.ptmEnabled (ptmPort pkt) = true) :
    s.cadenceSet c pkt = (s.modCad fun x => { x with setTo := some (pkt.fld 0 4, pkt.fld 4 4, pkt.fld 8 8) }).fin c 0x00 := by
  have hformed : ¬(nbits (pkt.fld 0 4) 31 26 ≠ 0 ∨ nbits (pkt.fld 0 4) 15 10 ≠ 0 ∨ nbits (pkt.fld 0 4) 6 6 ≠ 0 ∨
      nbits (pkt.fld 0 4) 25 16 = 0 ∨ ((List.range 3).any fun i => nbits (pkt.fld 0 4) 5 0 / 4 ^ i % 4 == 3) = true ∨
      (namesPtm pkt = true ∧ (pkt.fld 4 4 < 500000 ∨ 50000000 < pkt.fld 4 4))) := by
    rintro (h | h | h | h | h | ⟨hptm, h⟩)
    · exact h hf.high
    · exact h hf.middle
    · exact h hf.low
    · exact hf.hold h
    · obtain ⟨i, hi, hcode⟩ := List.any_eq_true.mp h
      exact hf.sources i (List.mem_range.mp hi) (beq_iff_eq.mp hcode)
    · have hperiod := hf.period hptm
      omega
  have hserves : ¬(namesPtm pkt = true ∧ (!(s.portUp (ptmPort pkt) && Config.ptmEnabled (ptmPort pkt))) = true) := by
    rintro ⟨hptm, h⟩
    simp [hport hptm] at h
  exact (if_neg hformed).trans (if_neg hserves)

/-! ### POWER_SET (R457; log entry 52) -/

/-- A limit and a GUST byte that keystone allows pass; with no step in progress the limit applies at once (`applyIdle`). -/
theorem powerSet_allowed {s : State} {c : Caller} {pkt : Packet} (hmin : s.rd Fld.keyPwrLim_pl1Min ≤ pkt.fld 0 1)
    (hmax : pkt.fld 0 1 ≤ s.rd Fld.keyPwrLim_pl1Max) (hgust : pkt.fld 1 1 ≤ 1)
    (hallow : pkt.fld 1 1 = 1 → s.flag Fld.keyPwrLim_gustEn = true) :
    s.powerSet c pkt =
      (let t := (s.wr Fld.pwrProfile_gust (pkt.fld 1 1)).modPwr fun x => { x with plPend := some (pkt.fld 0 1) }
       let t := if pkt.fld 1 1 = 0 then t.leaveGust else t
       let t := if pkt.fld 0 1 < s.pwr.plPend.getD (s.rd Fld.pwrProfile_pl1) then t.capacityLossAll else t
       (t.applyIdle.noticeDev 0x24 noSpan (pkt.fld 0 1 * 256 + pkt.fld 1 1)).fin c 0x00) := by
  have hallowed : ¬(pkt.fld 0 1 < s.rd Fld.keyPwrLim_pl1Min ∨ s.rd Fld.keyPwrLim_pl1Max < pkt.fld 0 1 ∨ 1 < pkt.fld 1 1 ∨
      (pkt.fld 1 1 = 1 ∧ (!s.flag Fld.keyPwrLim_gustEn) = true)) := by
    rintro (h | h | h | ⟨hg, h⟩)
    · exact Nat.not_lt.mpr hmin h
    · exact Nat.not_lt.mpr hmax h
    · exact Nat.not_lt.mpr hgust h
    · simp [hallow hg] at h
  exact if_neg hallowed

/-! ### The statements -/

/-- Settles O55: edges by the window, boundaries by whether the unit flywheels, and each change of source under its own condition. -/
theorem cadenceFollowsItsTable : Obligations.CadenceFollowsItsTable := by
  intro s
  refine ⟨fun src dt d hext hptm hsource hst => ⟨fun hin => ?_, fun hout haligned => ?_⟩,
    fun d hst haligned => exec_periodTimeout_locked hst haligned d, fun d hfly => exec_flywheelBoundary_free hfly d,
    fun hst => if_pos hst, fun hst htries => if_pos ⟨hst, htries⟩, fun hst hheld => if_pos ⟨hst, hheld⟩, rfl⟩
  · exact next_of_eq (cadEdge_accepted (s := s.after dt) hext hptm hsource hst hin d)
  · exact next_of_eq (cadEdge_glitch (s := s.after dt) hext hptm hsource hst hout haligned d)

/-- Settles O24: an accepted command of each row passes the refusals that its hypotheses rule out. -/
theorem cadenceAndPowerCommandsTakeEffect : Obligations.CadenceAndPowerCommandsTakeEffect := by
  intro p pkt s
  refine ⟨fun hacc hhigh hmiddle hlow hhold hsources hptm => ?_, fun hacc hmin hmax hgust hallow => ?_⟩
  · have hformed : CadSetFormed (pkt.withOpcode 0x80) :=
      ⟨hhigh, hmiddle, hlow, hhold, hsources, fun h => ⟨(hptm h).1, (hptm h).2.1⟩⟩
    exact next_of_eq ((serve_accepted _ hacc).trans (cadenceSet_pends hformed fun h => (hptm h).2.2))
  · exact next_of_eq ((serve_accepted _ hacc).trans (powerSet_allowed (pkt := pkt.withOpcode 0x90) hmin hmax hgust hallow))

end Sys2Proof.Machine
end

section
/-!
PROOFS. The adapter commands and TRAIN_START past their refusals, with an entry of the operation table.
-/
namespace Sys2Proof.Machine

/-! ### ADAPTER_LOAD and ADAPTER_REPLACE (R366, R367, R376) -/

/-- Bytes of tier 1 that the objects of a version take (R359). -/
def packBytes (s : State) (o : Nat) (cp : ModelCopy) : Nat :=
  ((s.packObjects o cp).map fun f => f.tiles * tileBytes f.fmt false 0).sum

/-- The number of the version that a load or a replacement of an index brings: a first load brings version 1. -/
def broughtVer (x : AdIndex) (replace : Bool) : Nat := if replace then nextVer x.last else 1

section
variable {s : State} {c : Caller} {pkt : Packet} {i : Nat} (hfree : s.freeOp = some i) (hspan : s.adapterSpan pkt.span = none)
  (hidx : pkt.fld 0 2 < 256)
include hfree hspan hidx

/-- A pack that matches the model and fits tier 1 and the directory is brought in by a long operation. -/
theorem adapterCmd_begins {cp : ModelCopy} {replace : Bool}
    (hindex : State.indexStatus (s.adapter pkt.span (pkt.fld 0 2)) replace = none)
    (hpack : s.packStatus c.port pkt.span (pkt.fld 4 4) = none) (hmodel : (s.span pkt.span).cur = some cp)
    (hok : s.packOk (pkt.fld 4 4) cp = true) (hshare : packBytes s (pkt.fld 4 4) cp ≤ s.shareFree pkt.span)
    (hdir : (s.packObjects (pkt.fld 4 4) cp).length ≤ s.dirFree) :
    s.adapterCmd c pkt replace =
      (let v := broughtVer (s.adapter pkt.span (pkt.fld 0 2)) replace
       let t := s.openOp i c (if replace then 0x14 else 0x13) pkt.span (packBytes s (pkt.fld 4 4) cp) (.adapter (pkt.fld 0 2) v replace)
       t.adapterBegin pkt.span (pkt.fld 0 2) v (pkt.fld 4 4) (PackHdr.parse (t.objRead (pkt.fld 4 4) 0 256))
         (s.packObjects (pkt.fld 4 4) cp) i) := by
  have hfits : ¬s.shareFree pkt.span < ((s.packObjects (pkt.fld 4 4) cp).map fun f => f.tiles * tileBytes f.fmt false 0).sum :=
    Nat.not_lt.mpr hshare
  simp only [State.adapterCmd, hspan, if_neg (Nat.not_le.mpr hidx), hindex, hpack, hmodel, hok, Bool.not_true, Bool.false_eq_true,
    if_false, if_neg hfits, if_neg (Nat.not_lt.mpr hdir)]
  exact startOp_free hfree ..

/-! ### ADAPTER_DROP (R366) -/

/-- Without a staged version no load or replacement has to end first, and the drop begins at once. -/
theorem adapterDrop_begins (hready : (s.adapter pkt.span (pkt.fld 0 2)).st = 2)
    (hstaged : State.AdIndex.staged (s.adapter pkt.span (pkt.fld 0 2)) = none) :
    s.adapterDrop c pkt =
      (s.openOp i c 0x15 pkt.span (s.adapter pkt.span (pkt.fld 0 2)).vers.length (.drop (pkt.fld 0 2))).modAdapter
        pkt.span (pkt.fld 0 2) fun x => { x with
          st := 3, op := some i,
          vers := x.vers.map fun y => if y.role = 0 then { y with role := 2, port := c.port } else y } := by
  have hundropped : (s.adapter pkt.span (pkt.fld 0 2)).st ≠ 3 := by rw [hready]; decide
  simp only [State.adapterDrop, hspan, if_neg (Nat.not_le.mpr hidx), if_neg hundropped, if_neg (not_not_intro hready), hstaged]
  rw [startOp_free hfree]
  cases (s.adapter pkt.span (pkt.fld 0 2)).op <;> rfl

end

/-! ### TRAIN_START (R370, R371) -/

/-- The parameters that a TRAIN_START carries. -/
abbrev trainParams (pkt : Packet) : TrainJob := TrainJob.ofBody pkt.body

/-- The span of a TRAIN_START may train with the model copy `cp`: it is configured and idle, no request is bound to it, and the image of
the copy has a training plan (R370). -/
structure SpanTrains (s : State) (sp : Nat) (cp : ModelCopy) : Prop where
  on : (s.span sp).cfg.on = true
  idle : s.spanBusy sp = false
  untrained : s.training sp = false
  model : (s.span sp).cur = some cp
  train : s.isTrain sp = true
  unbound : s.boundTo sp = 0
  plan : Config.hasTrainingPlan (s.imgSection cp.image 4) = true

/-- Object `o` holds a dataset of `n` records for the vocabulary of the model copy `cp` (R371). -/
structure DatasetOf (s : State) (o : Nat) (cp : ModelCopy) (n : Nat) : Prop where
  magic : (s.objRead o 0 64).take 8 = dataMagic
  header : ∃ x, Config.datasetHeader (s.objRead o 0 64) = (cp.hdr.vocab, n, x)
  records : n ≠ 0

/-- A job that starts from no adapter and no checkpoint keeps the parameters of the body. -/
theorem trainStart_opens {s : State} {c : Caller} {pkt : Packet} {i n : Nat} {cp : ModelCopy} (hfree : s.freeOp = some i)
    (hspan : SpanTrains s pkt.span cp) (hnew : pkt.resume = false) (hrange : (trainParams pkt).inRange false = true)
    (hinit : (trainParams pkt).init = 0xFFFF) (hdata : s.datasetStatus c.port pkt.span (trainParams pkt).dataset = none)
    (hckpt : s.ckptStatus c.port (trainParams pkt).ckpt = none) (hset : DatasetOf s (trainParams pkt).dataset cp n) :
    s.trainStart c pkt = s.openOp i c 0x60 pkt.span (trainParams pkt).steps (.train { trainParams pkt with records := n }) := by
  obtain ⟨x, hheader⟩ := hset.header
  have hserves : ¬((!(s.span pkt.span).cfg.on) = true ∨ s.spanBusy pkt.span = true ∨ s.training pkt.span = true) := by
    simp [hspan.on, hspan.idle, hspan.untrained]
  have htrains : ¬((!s.isTrain pkt.span) = true ∨ s.boundTo pkt.span ≠ 0) := by simp [hspan.train, hspan.unbound]
  have hscratch : ¬((trainParams pkt).init ≠ 0xFFFF ∧
      ((s.adapter pkt.span (trainParams pkt).init).st ≠ 2 ∨ (s.adapter pkt.span (trainParams pkt).init).oldOnly = true)) :=
    fun ⟨h, _⟩ => h hinit
  have hformed : ¬((s.objRead (trainParams pkt).dataset 0 64).take 8 ≠ dataMagic ∨ cp.hdr.vocab ≠ cp.hdr.vocab ∨ n = 0) := by
    simp [hset.magic, hset.records]
  simp only [State.trainStart, if_neg hserves, hnew, hrange, Bool.not_true, Bool.false_eq_true, if_false, hspan.model, if_neg htrains,
    hspan.plan, if_neg hscratch, hdata, hckpt, hheader, if_neg hformed, if_pos hinit]
  exact startOp_free hfree ..

/-! ### The statements -/

/-- Settles O15: an accepted command of each row passes the refusals that its hypotheses rule out, and opens its operation. -/
theorem adapterCommandsBegin : Obligations.AdapterCommandsBegin := by
  intro p pkt s i cp hfree hspan hidx
  refine ⟨fun replace hacc hindex hpack hmodel hok hshare hdir => ?_, fun hacc hready hstaged => ?_⟩
  · cases replace <;>
      exact next_of_eq ((serve_accepted _ hacc).trans (adapterCmd_begins hfree hspan hidx hindex hpack hmodel hok hshare hdir))
  · exact next_of_eq ((serve_accepted _ hacc).trans (adapterDrop_begins hfree hspan hidx hready hstaged))

/-- Settles O22: an accepted TRAIN_START passes the refusals that its hypotheses rule out, and opens its operation. -/
theorem trainStartOpensAJob : Obligations.TrainStartOpensAJob := by
  intro p pkt s i n vocab x cp hfree hacc hon hidle huntrained hnew hrange hmodel htrain hunbound hplan hinit hdata hckpt hmagic hheader
    hvocab hrecords
  have hspan : SpanTrains s pkt.span cp := ⟨hon, hidle, huntrained, hmodel, htrain, hunbound, hplan⟩
  have hset : DatasetOf s (trainParams pkt).dataset cp n := ⟨hmagic, ⟨x, hvocab ▸ hheader⟩, hrecords⟩
  exact next_of_eq ((serve_accepted _ hacc).trans
    (trainStart_opens (pkt := pkt.withOpcode 0x60) hfree hspan (by simpa using hnew) hrange hinit hdata hckpt hset))

end Sys2Proof.Machine
end

section
/-!
DEFINITION. The anchored part of the state (the queue of commands, the straps, the fuses and the minimum svn) under every operation of the
model: each leaves it alone, and says so in a lemma of its own, tagged for `simp`, in the order of the definitions. The few that do not
(R378, R467, R475, R482) come after.
-/
open Sys2Proof
namespace Sys2Proof.Machine

/-! ### Fields that are not anchored, choices and loops -/

@[simp] theorem State.anchor_with_regs (s : State) (x) : ({ s with regs := x } : State).anchor = s.anchor := (rfl)
@[simp] theorem State.anchor_with_free (s : State) (x) : ({ s with free := x } : State).anchor = s.anchor := (rfl)
@[simp] theorem State.anchor_with_reqs (s : State) (x) : ({ s with reqs := x } : State).anchor = s.anchor := (rfl)
@[simp] theorem State.anchor_with_leaving (s : State) (x) : ({ s with leaving := x } : State).anchor = s.anchor := (rfl)
@[simp] theorem State.anchor_with_slotFreed (s : State) (x) : ({ s with slotFreed := x } : State).anchor = s.anchor := (rfl)
@[simp] theorem State.anchor_with_shadow (s : State) (x) : ({ s with shadow := x } : State).anchor = s.anchor := (rfl)
@[simp] theorem State.anchor_with_commits (s : State) (x) : ({ s with commits := x } : State).anchor = s.anchor := (rfl)
@[simp] theorem State.anchor_with_admRng (s : State) (x) : ({ s with admRng := x } : State).anchor = s.anchor := (rfl)
@[simp] theorem State.anchor_with_adapters (s : State) (x) : ({ s with adapters := x } : State).anchor = s.anchor := (rfl)
@[simp] theorem State.anchor_with_waiters (s : State) (x) : ({ s with waiters := x } : State).anchor = s.anchor := (rfl)
@[simp] theorem State.anchor_with_latchOps (s : State) (x) : ({ s with latchOps := x } : State).anchor = s.anchor := (rfl)
@[simp] theorem State.anchor_with_meshRetry (s : State) (x) : ({ s with meshRetry := x } : State).anchor = s.anchor := (rfl)
@[simp] theorem State.anchor_with_linkBusy (s : State) (x) : ({ s with linkBusy := x } : State).anchor = s.anchor := (rfl)
@[simp] theorem State.anchor_with_spareLanes (s : State) (x) : ({ s with spareLanes := x } : State).anchor = s.anchor := (rfl)

@[simp] theorem State.anchor_ite (c : Prop) [Decidable c] (a b : State) : (if c then a else b).anchor = if c then a.anchor else b.anchor :=
  apply_ite _ _ _ _

@[simp] theorem onlyIf_anchor {f : State → State} (h : ∀ t, (f t).anchor = t.anchor) (b : Bool) (s : State) :
    (onlyIf b f s).anchor = s.anchor := by
  unfold onlyIf
  split
  · exact h s
  · rfl

@[simp] theorem forEach_anchor {β : Type} {f : β → State → State} (h : ∀ b t, (f b t).anchor = t.anchor) (l : List β) (s : State) :
    (forEach l f s).anchor = s.anchor := by
  induction l generalizing s with
  | nil => rfl
  | cons b r ih => exact (ih (f b s)).trans (h b s)

theorem foldl_bind_anchor {β : Type} {f : State → β → Option State} (h : ∀ b u v, f u b = some v → v.anchor = u.anchor) (l : List β)
    {s t : State} (hf : l.foldl (fun a b => a.bind fun u => f u b) (some s) = some t) : t.anchor = s.anchor := by
  have hnone : ∀ r : List β, r.foldl (fun a b => a.bind fun u => f u b) none = none := fun r => by
    induction r with
    | nil => rfl
    | cons b r ih => exact ih
  induction l generalizing s with
  | nil => cases hf; rfl
  | cons b r ih =>
    cases hb : f s b with
    | none => simp [hb, hnone] at hf
    | some u => exact (ih (by simpa [hb] using hf)).trans (h b s u hb)

theorem anchor_of_ite {c : Prop} [Decidable c] {a b s : State} (ha : a.anchor = s.anchor) (hb : b.anchor = s.anchor) :
    (if c then a else b).anchor = s.anchor := by
  split <;> assumption
theorem anchor_of_ite_snd {α : Type} {c : Prop} [Decidable c] {a b : α × State} {s : State} (ha : a.2.anchor = s.anchor)
    (hb : b.2.anchor = s.anchor) : (if c then a else b).2.anchor = s.anchor := by
  split <;> assumption
/-! ### Ops -/

@[simp] theorem State.modPort_anchor (s : State) (p : Nat) (f : HostPort → HostPort) : (s.modPort p f).anchor = s.anchor := (rfl)

@[simp] theorem State.modSlot_anchor (s : State) (i : Nat) (f : Slot → Slot) : (s.modSlot i f).anchor = s.anchor := (rfl)

@[simp] theorem State.modSpan_anchor (s : State) (i : Nat) (f : Span → Span) : (s.modSpan i f).anchor = s.anchor := (rfl)

@[simp] theorem State.modOp_anchor (s : State) (i : Nat) (f : Op → Op) : (s.modOp i f).anchor = s.anchor := (rfl)

@[simp] theorem State.modCell_anchor (s : State) (n : Nat) (f : Cell → Cell) : (s.modCell n f).anchor = s.anchor := (rfl)

@[simp] theorem State.modAdapter_anchor (s : State) (sp a : Nat) (f : AdIndex → AdIndex) : (s.modAdapter sp a f).anchor = s.anchor := (rfl)

@[simp] theorem State.modTier_anchor (s : State) (f : Tier → Tier) : (s.modTier f).anchor = s.anchor := (rfl)

@[simp] theorem State.modMoves_anchor (s : State) (e : Nat) (f : List Move → List Move) : (s.modMoves e f).anchor = s.anchor := by
  simp [State.modMoves]

@[simp] theorem State.modWaits_anchor (s : State) (e : Nat) (f : List RemoteWait → List RemoteWait) : (s.modWaits e f).anchor =
    s.anchor := by simp [State.modWaits]

@[simp] theorem State.modObj_anchor (s : State) (o : Nat) (f : Obj → Obj) : (s.modObj o f).anchor = s.anchor := (rfl)

@[simp] theorem State.modFlash_anchor (s : State) (f : Flash → Flash) : (s.modFlash f).anchor = s.anchor := (rfl)

@[simp] theorem State.modCad_anchor (s : State) (f : Cadence → Cadence) : (s.modCad f).anchor = s.anchor := (rfl)

@[simp] theorem State.modPwr_anchor (s : State) (f : Power → Power) : (s.modPwr f).anchor = s.anchor := (rfl)

@[simp] theorem State.modKey_anchor {s : State} {f : Keystone → Keystone} (hf : (f s.key).fuses = s.key.fuses)
    (hr : (f s.key).revoked = s.key.revoked) (hm : (f s.key).minSvn = s.key.minSvn) : (s.modKey f).anchor = s.anchor := by
  simp [State.modKey, State.anchor, hf, hr, hm]

@[simp] theorem State.modMbx_anchor (s : State) (f : MbxSys → MbxSys) : (s.modMbx f).anchor = s.anchor := (rfl)

@[simp] theorem State.modKv_anchor (s : State) (f : Kv → Kv) : (s.modKv f).anchor = s.anchor := (rfl)

@[simp] theorem State.modMgmt_anchor (s : State) (f : Mgmt → Mgmt) : (s.modMgmt f).anchor = s.anchor := (rfl)

@[simp] theorem State.modQueue_anchor (s : State) (p k : Nat) (f : Queue → Queue) : (s.modQueue p k f).anchor = s.anchor := (rfl)

@[simp] theorem State.modBox_anchor (s : State) (m : Nat) (f : Mailbox → Mailbox) : (s.modBox m f).anchor = s.anchor := (rfl)

@[simp] theorem State.setReg_anchor (s : State) (r : Reg) (n i : Nat) (w : Word) : (s.setReg r n i w).anchor = s.anchor := (rfl)

@[simp] theorem State.wr_anchor (s : State) (f : FieldRef) (v n i : Nat) : (s.wr f v n i).anchor = s.anchor := (rfl)

@[simp] theorem State.bump_anchor (s : State) (f : FieldRef) (n i by_ : Nat) : (s.bump f n i by_).anchor = s.anchor := (rfl)

@[simp] theorem State.bump64_anchor (s : State) (f : FieldRef) (n i by_ : Nat) : (s.bump64 f n i by_).anchor = s.anchor := (rfl)

@[simp] theorem State.setBit_anchor (s : State) (f : FieldRef) (b n i : Nat) : (s.setBit f b n i).anchor = s.anchor := (rfl)

@[simp] theorem State.clrBit_anchor (s : State) (f : FieldRef) (b n i : Nat) : (s.clrBit f b n i).anchor = s.anchor := (rfl)

@[simp] theorem State.atTime_anchor (s : State) (t : Nat) : (s.atTime t).anchor = s.anchor := (rfl)

@[simp] theorem State.atCadence_anchor (s : State) (d : Nat) : (s.atCadence d).anchor = s.anchor := (rfl)

@[simp] theorem State.busy_anchor (s : State) : (s.busy).anchor = s.anchor := (rfl)

@[simp] theorem State.whenPassed_anchor {f : State → State} (h : ∀ t, (f t).anchor = t.anchor) (s : State) (d n : Nat) :
    (s.whenPassed d n f).anchor = s.anchor := by
  simp [State.whenPassed, h]

@[simp] theorem State.after_anchor (s : State) (dt : Nat) : (s.after dt).anchor = s.anchor := (rfl)

@[simp] theorem State.logFirst_anchor (s : State) (cnt : FieldRef) (log : Reg) (w : Nat) : (s.logFirst cnt log w).anchor = s.anchor := by
  simp [State.logFirst]

@[simp] theorem State.fresh_anchor (s : State) (w : Nat) : (s.fresh w).2.anchor = s.anchor := (rfl)

@[simp] theorem State.freeBytes_anchor (s : State) (n : Nat) : (s.freeBytes n).2.anchor = s.anchor := (rfl)

@[simp] theorem State.fire_anchor (s : State) (p v : Nat) : (s.fire p v).anchor = s.anchor := by simp [State.fire]

@[simp] theorem State.fireAll_anchor (s : State) (v : Nat) : (s.fireAll v).anchor = s.anchor := by simp [State.fireAll]

@[simp] theorem State.aer_anchor (s : State) (p : Nat) (e : AerError) : (s.aer p e).anchor = s.anchor := by simp [State.aer]

@[simp] theorem State.aerAll_anchor (s : State) (e : AerError) : (s.aerAll e).anchor = s.anchor := by simp [State.aerAll]

/-! ### QueueOps -/

@[simp] theorem State.signalQueue_anchor (s : State) (p k : Nat) : (s.signalQueue p k).anchor = s.anchor := by simp [State.signalQueue]

@[simp] theorem State.readable_anchor (s : State) (p k : Nat) : (s.readable p k).anchor = s.anchor := by
  unfold State.readable
  (repeat' split) <;> simp

@[simp] theorem State.crossed_anchor (s : State) (p k a b : Nat) : (s.crossed p k a b).anchor = s.anchor := by simp [State.crossed]

@[simp] theorem State.fillHead_anchor (s : State) (p k : Nat) : (s.fillHead p k).anchor = s.anchor := by
  simp only [State.fillHead]
  (repeat' split) <;> simp

@[simp] theorem State.enqueue_anchor (s : State) (p k prio : Nat) (bytes : List Byte) (share : Option (Nat × Nat)) (lines : Nat)
    (refusal : Bool) : (s.enqueue p k prio bytes share lines refusal).anchor = s.anchor := by simp [State.enqueue]

@[simp] theorem State.notice_anchor (s : State) (p code span slot gen object detail : Nat) :
    (s.notice p code span slot gen object detail).anchor = s.anchor := by simp [State.notice]

@[simp] theorem State.noticeAll_anchor (s : State) (code span slot gen object detail : Nat) :
    (s.noticeAll code span slot gen object detail).anchor = s.anchor := by simp [State.noticeAll]

@[simp] theorem State.reply_anchor (s : State) (p prio kind status tag code : Nat) (body : List Byte) :
    (s.reply p prio kind status tag code body).anchor = s.anchor := by simp [State.reply]

@[simp] theorem State.release_anchor (s : State) (p lines : Nat) : (s.release p lines).anchor = s.anchor := (rfl)

@[simp] theorem State.dropEntry_anchor (s : State) (p : Nat) (e : Entry) : (s.dropEntry p e).anchor = s.anchor := (rfl)

@[simp] theorem State.consume_anchor (s : State) (p k seq : Nat) : (s.consume p k seq).anchor = s.anchor := by
  unfold State.consume
  split <;> simp

@[simp] theorem State.flushNow_anchor (s : State) (p k : Nat) : (s.flushNow p k).anchor = s.anchor := by simp [State.flushNow]

/-! ### Commands -/

@[simp] theorem State.final_anchor (s : State) (c : Caller) (status code : Nat) (body : List Byte) : (s.final c status code body).anchor =
    s.anchor := by simp [State.final]

@[simp] theorem State.fin_anchor (s : State) (c : Caller) (status : Nat) : (s.fin c status).anchor = s.anchor := by simp [State.fin]

@[simp] theorem State.openOp_anchor (s : State) (i : Nat) (c : Caller) (opcode span total : Nat) (job : Job) :
    (s.openOp i c opcode span total job).anchor = s.anchor := by simp [State.openOp]

@[simp] theorem State.startOp_anchor {f : Nat → State → State} (h : ∀ i t, (f i t).anchor = t.anchor) (s : State) (c : Caller)
    (opcode span total : Nat) (job : Job) : (s.startOp c opcode span total job f).anchor = s.anchor := by
  unfold State.startOp
  split <;> simp [h]

@[simp] theorem State.endOp_anchor (s : State) (i status : Nat) (body : List Byte) : (s.endOp i status body).anchor = s.anchor := by
  simp [State.endOp]

@[simp] theorem State.serveFor_anchor {body : Caller → Packet → State → State} (h : ∀ c k t, (body c k t).anchor = t.anchor) (s : State)
    (c : Caller) (pkt : Packet) : (s.serveFor c pkt body).anchor = s.anchor := by
  unfold State.serveFor
  split <;> simp [h]

@[simp] theorem State.serve_anchor {body : Caller → Packet → State → State} (h : ∀ c k t, (body c k t).anchor = t.anchor) (s : State)
    (opcode p : Nat) (pkt : Packet) : (s.serve opcode p pkt body).anchor = s.anchor := by
  simp [State.serve, h]

/-! ### Faults -/

@[simp] theorem State.noticeDev_anchor (s : State) (code span detail : Nat) : (s.noticeDev code span detail).anchor = s.anchor := by
  simp [State.noticeDev]

@[simp] theorem State.forceRelease_anchor (s : State) (kind owner which span : Nat) : (s.forceRelease kind owner which span).anchor =
    s.anchor := by simp [State.forceRelease]

@[simp] theorem State.keyFault_anchor (s : State) (kind ident detail : Nat) : (s.keyFault kind ident detail).anchor = s.anchor := by
  simp [State.keyFault]

@[simp] theorem State.hostDeny_anchor (s : State) (w : Nat) : (s.hostDeny w).anchor = s.anchor := by simp [State.hostDeny]

@[simp] theorem State.byFirmware_anchor {f : State → State} (h : ∀ t, (f t).anchor = t.anchor) (s : State) (w : Nat) :
    (s.byFirmware w f).anchor = s.anchor := by
  simp [State.byFirmware, h]

@[simp] theorem State.noteFw_anchor (s : State) (code detail : Nat) : (s.noteFw code detail).anchor = s.anchor := (rfl)

@[simp] theorem State.requestReset_anchor (s : State) (c : ResetCause) : (s.requestReset c).anchor = s.anchor := by
  simp [State.requestReset]

@[simp] theorem State.countOverrun_anchor (s : State) (i : Nat) : (s.countOverrun i).anchor = s.anchor := (rfl)

@[simp] theorem State.repeatStep_anchor (s : State) (sp : Nat) : (s.repeatStep sp).anchor = s.anchor := by simp [State.repeatStep]

/-! ### FlashMem -/

@[simp] theorem State.modPlane_anchor (s : State) (d k : Nat) (f : Plane → Plane) : (s.modPlane d k f).anchor = s.anchor := (rfl)

@[simp] theorem State.modBlock_anchor (s : State) (d k phys : Nat) (f : Block → Block) : (s.modBlock d k phys f).anchor = s.anchor := (rfl)

@[simp] theorem State.mapBlock_anchor (s : State) (d k row phys : Nat) : (s.mapBlock d k row phys).anchor = s.anchor := (rfl)

@[simp] theorem State.setSpare_anchor (s : State) (d k : Nat) (l : List Nat) : (s.setSpare d k l).anchor = s.anchor := (rfl)

@[simp] theorem State.pageWrite_anchor (s : State) (d k phys p : Nat) (l : List Byte) : (s.pageWrite d k phys p l).anchor = s.anchor :=
  (rfl)

@[simp] theorem State.pageCopy_anchor (s : State) (d k frm to_ p : Nat) : (s.pageCopy d k frm to_ p).anchor = s.anchor := by
  simp [State.pageCopy]

@[simp] theorem State.blockWipe_anchor (s : State) (d k phys : Nat) : (s.blockWipe d k phys).anchor = s.anchor := (rfl)

@[simp] theorem State.writeTable_anchor (s : State) (d : Nat) : (s.writeTable d).anchor = s.anchor := by simp [State.writeTable]

@[simp] theorem State.writeDir_anchor (s : State) : (s.writeDir).anchor = s.anchor := by simp [State.writeDir]

@[simp] theorem State.breakCopy_anchor (s : State) (d sector : Nat) : (s.breakCopy d sector).anchor = s.anchor := by
  unfold State.breakCopy
  (repeat' split) <;> simp

@[simp] theorem State.programUnit_anchor (s : State) (d sector unit : Nat) (l : List Byte) : (s.programUnit d sector unit l).anchor =
    s.anchor := by simp [State.programUnit]

@[simp] theorem State.wipeParam_anchor (s : State) (d sector : Nat) : (s.wipeParam d sector).anchor = s.anchor := by simp [State.wipeParam]

@[simp] theorem State.storeParam_anchor (s : State) (at_ : Nat) (l : List Byte) : (s.storeParam at_ l).anchor = s.anchor := by
  simp [State.storeParam]

@[simp] theorem State.modJournal_anchor (s : State) (d : Nat) (f : List JRec → List JRec) : (s.modJournal d f).anchor = s.anchor := (rfl)

@[simp] theorem State.putRec_anchor (s : State) (d sec u : Nat) (r : JRec) : (s.putRec d sec u r).anchor = s.anchor := (rfl)

@[simp] theorem State.eraseOldest_anchor (s : State) (d sec : Nat) : (s.eraseOldest d sec).anchor = s.anchor := by simp [State.eraseOldest]

@[simp] theorem State.putJournal_anchor (s : State) (d type row page planes : Nat) : (s.putJournal d type row page planes).anchor =
    s.anchor := by simp [State.putJournal]

@[simp] theorem State.journalWrite_anchor (s : State) (d type row page planes : Nat) : (s.journalWrite d type row page planes).anchor =
    s.anchor := by simp [State.journalWrite]

@[simp] theorem State.paramRelease_anchor (s : State) : (s.paramRelease).anchor = s.anchor := by simp [State.paramRelease]

@[simp] theorem State.spoilCopy_anchor (s : State) (d table k : Nat) : (s.spoilCopy d table k).anchor = s.anchor := by
  simp [State.spoilCopy]

@[simp] theorem State.readTable_anchor (s : State) (d : Nat) : (s.readTable d).anchor = s.anchor := by
  unfold State.readTable
  split <;> simp

@[simp] theorem State.readDir_anchor (s : State) : (s.readDir).anchor = s.anchor := by
  simp only [State.readDir]
  split <;> simp

@[simp] theorem State.modLib_anchor (s : State) (i : Nat) (f : LibEntry → LibEntry) : (s.modLib i f).anchor = s.anchor := (rfl)

@[simp] theorem State.putLib_anchor (s : State) (i : Nat) (f : LibEntry → LibEntry) : (s.putLib i f).anchor = s.anchor := by
  simp [State.putLib]

@[simp] theorem State.setLibState_anchor (s : State) (i st : Nat) : (s.setLibState i st).anchor = s.anchor := by simp [State.setLibState]

/-! ### Directory -/

theorem State.allocObj_anchor {s t : State} {o : Obj} {n : Nat} (h : s.allocObj o = some (n, t)) : t.anchor = s.anchor := by
  unfold State.allocObj at h
  (repeat' split at h) <;> cases h <;> simp

@[simp] theorem State.freeObj_anchor (s : State) (o : Nat) : (s.freeObj o).anchor = s.anchor := by simp [State.freeObj]

@[simp] theorem State.dramWrite_anchor (s : State) (a : Nat) (l : List Byte) : (s.dramWrite a l).anchor = s.anchor := (rfl)

@[simp] theorem State.homeWrite_anchor (s : State) (e : DirEntry) (tier addr off : Nat) (l : List Byte) :
    (s.homeWrite e tier addr off l).anchor = s.anchor := by
  unfold State.homeWrite
  split <;> simp

@[simp] theorem State.objWrite_anchor (s : State) (order o off : Nat) (l : List Byte) : (s.objWrite order o off l).anchor = s.anchor := by
  simp [State.objWrite]

@[simp] theorem State.poisonT1_anchor (s : State) (a : Nat) (js : List Nat) : (s.poisonT1 a js).anchor = s.anchor := by
  simp [State.poisonT1]

@[simp] theorem State.objSpoil_anchor (s : State) (o off : Nat) (js : List Nat) : (s.objSpoil o off js).anchor = s.anchor := by
  simp [State.objSpoil]

@[simp] theorem State.pin_anchor (s : State) (o : Nat) : (s.pin o).anchor = s.anchor := (rfl)

@[simp] theorem State.revokeEnd_anchor (s : State) (o : Nat) : (s.revokeEnd o).anchor = s.anchor := by
  simp only [State.revokeEnd]
  (repeat' split) <;> simp

@[simp] theorem State.unpin_anchor (s : State) (o : Nat) : (s.unpin o).anchor = s.anchor := by simp [State.unpin]

@[simp] theorem State.finHeld_anchor (s : State) (h : Option HeldCmd) (status : Nat) : (s.finHeld h status).anchor = s.anchor := by
  unfold State.finHeld
  split <;> simp

@[simp] theorem State.startRevoke_anchor (s : State) (o : Nat) (h : HeldCmd) : (s.startRevoke o h).anchor = s.anchor := by
  simp [State.startRevoke]

@[simp] theorem State.drainWindow_anchor (s : State) (w : Nat) : (s.drainWindow w).anchor = s.anchor := by
  simp only [State.drainWindow]
  split <;> simp

@[simp] theorem State.leaveWindow_anchor (s : State) (w : Option Nat) : (s.leaveWindow w).anchor = s.anchor := by
  unfold State.leaveWindow
  split <;> simp

@[simp] theorem State.loseObj_anchor (s : State) (o : Nat) : (s.loseObj o).anchor = s.anchor := by simp [State.loseObj]

@[simp] theorem State.moveObj_anchor (s : State) (o tier addr : Nat) (parent : Option Nat) (cmd : Option HeldCmd) :
    (s.moveObj o tier addr parent cmd).anchor = s.anchor := (rfl)

theorem State.placeObj_anchor {s t : State} {o tier col : Nat} {cmd : Option HeldCmd} (h : s.placeObj o tier col cmd = some t) :
    t.anchor = s.anchor := by
  simp only [State.placeObj] at h
  (repeat' split at h) <;> simp only [Option.some.injEq, Option.map_eq_some_iff, reduceCtorEq] at h
  · obtain ⟨a, _, rfl⟩ := h
    simp
  · simp [← h]
  · simp [← h]
  · obtain ⟨a, _, rfl⟩ := h
    simp
  · obtain ⟨a, _, rfl⟩ := h
    simp

@[simp] theorem State.fillReads_anchor (s : State) (d k n : Nat) : (s.fillReads d k n).anchor = s.anchor := by
  induction n generalizing s with
  | zero => rfl
  | succ n ih =>
    unfold State.fillReads
    split <;> simp [ih]

@[simp] theorem State.queueRead_anchor (s : State) (d k id : Nat) : (s.queueRead d k id).anchor = s.anchor := by simp [State.queueRead]

@[simp] theorem State.startPages_anchor (s : State) (l : Leg) (a n : Nat) (job : Option Nat) : (s.startPages l a n job).anchor =
    s.anchor := by simp [State.startPages]

@[simp] theorem State.startLeg_anchor (s : State) (l : Leg) : (s.startLeg l).anchor = s.anchor := by simp [State.startLeg]

@[simp] theorem State.failLeg_anchor (s : State) (l : Leg) : (s.failLeg l).anchor = s.anchor := by simp [State.failLeg]

@[simp] theorem State.pumpObj_anchor (s : State) (o : Nat) : (s.pumpObj o).anchor = s.anchor := by simp [State.pumpObj]

@[simp] theorem State.pumpLegs_anchor (s : State) : (s.pumpLegs).anchor = s.anchor := by simp [State.pumpLegs]

@[simp] theorem State.pumpMoves_anchor (s : State) : (s.pumpMoves).anchor = s.anchor := by simp [State.pumpMoves]

/-! ### Descriptor -/

@[simp] theorem State.startMove_anchor (s : State) (e id : Nat) : (s.startMove e id).anchor = s.anchor := by
  unfold State.startMove
  split <;> simp

/-! ### Mailboxes -/

@[simp] theorem State.mbxError_anchor (s : State) (w b : Nat) : (s.mbxError w b).anchor = s.anchor := by simp [State.mbxError]

@[simp] theorem State.ring_anchor (s : State) (w m : Nat) (taken : Bool) : (s.ring w m taken).anchor = s.anchor := by simp [State.ring]

@[simp] theorem State.mail_anchor (s : State) (w m : Nat) : (s.mail w m).anchor = s.anchor := by simp [State.mail]

@[simp] theorem State.empty_anchor (s : State) (m outcome : Nat) : (s.empty m outcome).anchor = s.anchor := by simp [State.empty]

theorem State.trySend_anchor {s t : State} {p : Nat} {l : List Byte} (h : s.trySend p l = some t) : t.anchor = s.anchor := by
  unfold State.trySend at h
  split at h <;> cases h
  simp

@[simp] theorem State.sendOwed_anchor (s : State) : s.sendOwed.anchor = s.anchor := by
  refine forEach_anchor (fun o t => ?_) _ _
  split
  · rename_i h; simp [State.trySend_anchor h]
  · rfl

@[simp] theorem State.answer_anchor (s : State) (p : Nat) (payload : List Byte) : (s.answer p payload).anchor = s.anchor := by
  unfold State.answer
  split
  · rename_i h; exact State.trySend_anchor h
  · simp

@[simp] theorem State.breakLock_anchor (s : State) (m cause : Nat) : (s.breakLock m cause).anchor = s.anchor := by simp [State.breakLock]

@[simp] theorem State.breakLocksOf_anchor (s : State) (w cause : Nat) : (s.breakLocksOf w cause).anchor = s.anchor := by
  simp [State.breakLocksOf]

@[simp] theorem State.take_anchor (s : State) (w m : Nat) : (s.take w m).anchor = s.anchor := by simp [State.take]

@[simp] theorem State.lockRead_anchor (s : State) (w m : Nat) : (s.lockRead w m).2.anchor = s.anchor := by
  simp only [State.lockRead]
  (repeat' split) <;> simp

@[simp] theorem State.lockWrite_anchor (s : State) (w m v : Nat) : (s.lockWrite w m v).anchor = s.anchor := by simp [State.lockWrite]

@[simp] theorem State.deliver_anchor (s : State) (w v : Nat) : (s.deliver w v).anchor = s.anchor := by simp [State.deliver]

@[simp] theorem State.maskWrite_anchor (s : State) (p mask : Nat) : (s.maskWrite p mask).anchor = s.anchor := by simp [State.maskWrite]

@[simp] theorem State.mbxDown_anchor (s : State) (p : Nat) : (s.mbxDown p).anchor = s.anchor := by simp [State.mbxDown]

@[simp] theorem State.mgmtReply_anchor (s : State) (p : Nat) (payload : List Byte) : (s.mgmtReply p payload).anchor = s.anchor := by
  simp [State.mgmtReply]

/-! ### CellMem -/

@[simp] theorem State.installHandle_anchor (s : State) (n h : Nat) (lo : Word) : (s.installHandle n h lo).anchor = s.anchor := by
  simp [State.installHandle]

@[simp] theorem State.takeOver_anchor (s : State) (c : Nat) (d : Option Nat) : (s.takeOver c d).anchor = s.anchor := by
  unfold State.takeOver
  split <;> simp

@[simp] theorem State.dropJobs_anchor (s : State) (n k : Nat) : (s.dropJobs n k).anchor = s.anchor := (rfl)

@[simp] theorem State.fence_anchor (s : State) (n kind : Nat) (whole : Bool) : (s.fence n kind whole).anchor = s.anchor := by
  simp [State.fence]

@[simp] theorem State.awaitSpare_anchor (s : State) (n : Nat) : (s.awaitSpare n).anchor = s.anchor := by
  refine State.modKey_anchor ?_ ?_ ?_ <;> split <;> rfl

@[simp] theorem State.cellFault_anchor (s : State) (n kind : Nat) (whole : Bool) : (s.cellFault n kind whole).anchor = s.anchor := by
  simp [State.cellFault]

@[simp] theorem State.poolUe_anchor (s : State) (n k word : Nat) (syn : Option Nat) : (s.poolUe n k word syn).anchor = s.anchor := by
  unfold State.poolUe
  cases syn <;> simp

@[simp] theorem State.meetUe_anchor (s : State) (n k word syn : Nat) : (s.meetUe n k word syn).anchor = s.anchor := by simp [State.meetUe]

@[simp] theorem State.memFault_anchor (s : State) (n k : Nat) : (s.memFault n k).anchor = s.anchor := by simp [State.memFault]

@[simp] theorem State.corrected_anchor (s : State) (n k : Nat) : (s.corrected n k).anchor = s.anchor := by simp [State.corrected]

@[simp] theorem State.handleParity_anchor (s : State) (n : Nat) : (s.handleParity n).anchor = s.anchor := by simp [State.handleParity]

@[simp] theorem State.initDone_anchor (s : State) (n : Nat) : (s.initDone n).anchor = s.anchor := (rfl)

@[simp] theorem State.seqReset_anchor (s : State) (n : Nat) : (s.seqReset n).anchor = s.anchor := by simp [State.seqReset]

@[simp] theorem State.cellReset_anchor (s : State) (n : Nat) : (s.cellReset n).anchor = s.anchor := by simp [State.cellReset]

@[simp] theorem State.readView_anchor (s : State) (n : Nat) (v : View) (off len : Nat) : (s.readView n v off len).2.anchor = s.anchor := by
  simp [State.readView]

/-! ### Prepare -/

@[simp] theorem State.advance_anchor (s : State) (n : Nat) : (s.advance n).anchor = s.anchor := by simp [State.advance]

@[simp] theorem State.halt_anchor (s : State) (n : Nat) : (s.halt n).anchor = s.anchor := (rfl)

@[simp] theorem State.recordIllegal_anchor (s : State) (n : Nat) (pc : Word) (cause : Nat) : (s.recordIllegal n pc cause).anchor =
    s.anchor := by simp [State.recordIllegal]

@[simp] theorem State.illegal_anchor (s : State) (n : Nat) (pc : Word) (cause : Nat) : (s.illegal n pc cause).anchor = s.anchor := by
  simp [State.illegal]

@[simp] theorem State.issue_anchor {f : State → State} (h : ∀ t, (f t).anchor = t.anchor) (s : State) (n : Nat) :
    (s.issue n f).anchor = s.anchor := by
  unfold State.issue
  (repeat' split) <;> simp [h]

@[simp] theorem State.failJob_anchor (s : State) (n k : Nat) (j : MatrixJob) (cause : Nat) : (s.failJob n k j cause).anchor = s.anchor := by
  simp [State.failJob]

@[simp] theorem State.prepareGroup_anchor (s : State) (n k : Nat) : (s.prepareGroup n k).anchor = s.anchor := by
  simp only [State.prepareGroup]
  (repeat' split) <;> simp

@[simp] theorem State.arrayGo_anchor (s : State) (n : Nat) : (s.arrayGo n).anchor = s.anchor := by simp [State.arrayGo]

/-! ### Sequencer -/

@[simp] theorem State.startStream_anchor (s : State) (n v : Nat) : (s.startStream n v).anchor = s.anchor := by
  unfold State.startStream
  (repeat' split) <;> simp

@[simp] theorem State.requestStop_anchor (s : State) (n : Nat) : (s.requestStop n).anchor = s.anchor := by
  unfold State.requestStop
  (repeat' split) <;> simp

@[simp] theorem State.boundary_anchor (s : State) (n : Nat) : (s.boundary n).anchor = s.anchor := by simp [State.boundary]

@[simp] theorem State.descError_anchor (s : State) (ident tag status : Nat) : (s.descError ident tag status).anchor = s.anchor := by
  simp [State.descError]

@[simp] theorem State.setLatch_anchor (s : State) (l c t : Nat) : (s.setLatch l c t).anchor = s.anchor := by simp [State.setLatch]

@[simp] theorem State.endWait_anchor (s : State) (n : Nat) : (s.endWait n).anchor = s.anchor := by simp [State.endWait]

@[simp] theorem State.wakeJob_anchor (s : State) (n id : Nat) : (s.wakeJob n id).anchor = s.anchor := by simp [State.wakeJob]

@[simp] theorem State.wake_anchor (s : State) (e : Nat) (a2 : WaitFor) : (s.wake e a2).anchor = s.anchor := by
  unfold State.wake
  split <;> simp

@[simp] theorem State.markWait_anchor (s : State) (e l : Nat) (b : WaitFor) (st : WaitSt) : (s.markWait e l b st).anchor = s.anchor := by
  simp [State.markWait]

@[simp] theorem State.evalLatch_anchor (s : State) (l : Nat) : (s.evalLatch l).anchor = s.anchor := by simp [State.evalLatch]

@[simp] theorem State.latchError_anchor (s : State) (l cause who : Nat) : (s.latchError l cause who).anchor = s.anchor := by
  simp [State.latchError]

@[simp] theorem State.applyLatch_anchor (s : State) (l : Nat) (k : LatchOpKind) (who v : Nat) :
    (s.applyLatch l k who v).anchor = s.anchor := by
  unfold State.applyLatch
  split <;> simp

@[simp] theorem State.settleLatch_anchor (s : State) (l : Nat) : (s.settleLatch l).anchor = s.anchor := by
  simp only [State.settleLatch]
  (repeat' split) <;> simp

@[simp] theorem State.closeCycle_anchor (s : State) (l : Nat) : (s.closeCycle l).anchor = s.anchor := by simp [State.closeCycle]

@[simp] theorem State.closeOpen_anchor (s : State) (l : Nat) : (s.closeOpen l).anchor = s.anchor := by simp [State.closeOpen]

@[simp] theorem State.latchOp_anchor (s : State) (l : Nat) (k : LatchOpKind) (who v : Nat) (more : Bool) :
    (s.latchOp l k who v more).anchor = s.anchor := by simp [State.latchOp]

@[simp] theorem State.signal_anchor (s : State) (who l v : Nat) : (s.signal who l v).anchor = s.anchor := by simp [State.signal]

@[simp] theorem State.enroll_anchor (s : State) (e l : Nat) (b : WaitFor) : (s.enroll e l b).anchor = s.anchor := by simp [State.enroll]

@[simp] theorem State.register_anchor (s : State) (e l : Nat) (b : WaitFor) : (s.register e l b).anchor = s.anchor := by
  simp [State.register]

@[simp] theorem State.startWait_anchor (s : State) (e l : Nat) (b : WaitFor) : (s.startWait e l b).anchor = s.anchor := by
  simp [State.startWait]

@[simp] theorem State.seqWaits_anchor (s : State) (n l : Nat) : (s.seqWaits n l).anchor = s.anchor := by simp [State.seqWaits]

@[simp] theorem State.waitOn_anchor (s : State) (n l : Nat) (more : Bool) : (s.waitOn n l more).anchor = s.anchor := by simp [State.waitOn]

@[simp] theorem State.latchInst_anchor {f : Nat → Nat → State → State} (h : ∀ l v t, (f l v t).anchor = t.anchor) (s : State) (n : Nat)
    (w : Inst256) (noValue noZero : Bool) : (s.latchInst n w noValue noZero f).anchor = s.anchor :=
  State.issue_anchor (fun t => by simp [h]) s n

/-! ### Flash -/

@[simp] theorem State.modFlashOp_anchor (s : State) (id : Nat) (f : FlashOp → FlashOp) : (s.modFlashOp id f).anchor = s.anchor := (rfl)

@[simp] theorem State.flashComplete_anchor (s : State) (o : FlashOp) : (s.flashComplete o).anchor = s.anchor := by
  simp only [State.flashComplete]
  split <;> simp

@[simp] theorem State.doneRecord_anchor (s : State) (o : FlashOp) : (s.doneRecord o).anchor = s.anchor := by simp [State.doneRecord]

@[simp] theorem State.planeDone_anchor (s : State) (id k st : Nat) : (s.planeDone id k st).anchor = s.anchor := by
  unfold State.planeDone
  split <;> simp

@[simp] theorem State.openRecord_anchor (s : State) (o : FlashOp) (type page : Nat) : (s.openRecord o type page).anchor = s.anchor := by
  simp [State.openRecord]

@[simp] theorem State.markBad_anchor (s : State) (d k phys cause : Nat) : (s.markBad d k phys cause).anchor = s.anchor := by
  simp [State.markBad]

@[simp] theorem State.switchMap_anchor (s : State) (d k row phys : Nat) : (s.switchMap d k row phys).anchor = s.anchor := by
  simp [State.switchMap]

@[simp] theorem State.eraseBlock_anchor (s : State) (d k row phys : Nat) : (s.eraseBlock d k row phys).anchor = s.anchor := by
  simp [State.eraseBlock]

theorem State.takeSpare_anchor {s t : State} {d k row b : Nat} (h : s.takeSpare d k row = some (b, t)) : t.anchor = s.anchor := by
  unfold State.takeSpare at h
  split at h <;> cases h
  simp

@[simp] theorem State.replaceBlock_anchor (s : State) (d k row : Nat) : (s.replaceBlock d k row).2.anchor = s.anchor := by
  unfold State.replaceBlock
  split
  · rename_i h; simp [State.takeSpare_anchor h]
  · simp

@[simp] theorem State.scanDie_anchor (s : State) (d : Nat) : (s.scanDie d).anchor = s.anchor := by
  have hreplace : ∀ (m : Nat × Nat × Nat) (t : State), (match (List.range Config.flashUnits).find? fun r => t.physOf d m.2.1 r == m.2.2 with
      | some r => (t.replaceBlock d m.2.1 r).2
      | none => t).anchor = t.anchor := fun m t => by split <;> simp
  unfold State.scanDie
  split
  · rfl
  · exact (forEach_anchor hreplace _ _).trans (by simp)

@[simp] theorem State.flashLog_anchor (s : State) (kind d k row page : Nat) : (s.flashLog kind d k row page).anchor = s.anchor := by
  simp [State.flashLog]

@[simp] theorem State.startProgram_anchor (s : State) (d k id : Nat) (st : PlaneSt) : (s.startProgram d k id st).anchor = s.anchor := by
  unfold State.startProgram
  split <;> simp

@[simp] theorem State.startErase_anchor (s : State) (d k id : Nat) : (s.startErase d k id).anchor = s.anchor := by
  simp only [State.startErase]
  split
  · rfl
  · split
    · split
      · simp
      · rename_i h; simp [State.takeSpare_anchor h]
    · simp

@[simp] theorem State.planeGo_anchor (s : State) (d k : Nat) : (s.planeGo d k).anchor = s.anchor := by
  simp only [State.planeGo]
  (repeat' split) <;> simp

@[simp] theorem State.planesGo_anchor (s : State) : (s.planesGo).anchor = s.anchor := by simp [State.planesGo]

@[simp] theorem State.paramOp_anchor (s : State) (o : FlashOp) : (s.paramOp o).anchor = s.anchor := by
  unfold State.paramOp
  split <;> simp

@[simp] theorem State.markCut_anchor (s : State) (o : FlashOp) : (s.markCut o).anchor = s.anchor := by simp [State.markCut]

@[simp] theorem State.cutPage_anchor (s : State) (o : FlashOp) (k : Nat) : (s.cutPage o k).anchor = s.anchor := by simp [State.cutPage]

@[simp] theorem State.cutOp_anchor (s : State) (id : Nat) : (s.cutOp id).anchor = s.anchor := by
  unfold State.cutOp
  split <;> simp

@[simp] theorem State.dieReset_anchor (s : State) (d : Nat) : (s.dieReset d).anchor = s.anchor := by simp [State.dieReset]

@[simp] theorem State.flashAccept_anchor (s : State) (writer : Nat) (w : Inst256) (job : Option Nat) : (s.flashAccept writer w job).anchor
    = s.anchor := by simp [State.flashAccept]

@[simp] theorem State.flashGo_anchor (s : State) (writer : Nat) (w : Inst256) : (s.flashGo writer w).anchor = s.anchor := by
  simp [State.flashGo]

@[simp] theorem State.flashSubmit_anchor (s : State) (writer : Nat) (w : Inst256) (code : Nat) : (s.flashSubmit writer w code).anchor =
    s.anchor := by simp [State.flashSubmit]

@[simp] theorem State.flashRelease_anchor (s : State) : (s.flashRelease).anchor = s.anchor := by simp [State.flashRelease]

@[simp] theorem State.endStreamers_anchor (s : State) (o : Nat) : (s.endStreamers o).anchor = s.anchor := by simp [State.endStreamers]

@[simp] theorem State.damageImage_anchor (s : State) (i a : Nat) (bad : List Nat) : (s.damageImage i a bad).anchor = s.anchor := by
  unfold State.damageImage
  split
  · rfl
  · refine (forEach_anchor (fun e t => ?_) _ _).trans (by simp)
    split <;> simp

@[simp] theorem State.flashUe_anchor (s : State) (d k row page : Nat) (bad : List Nat) :
    (s.flashUe d k row page bad).anchor = s.anchor := by
  simp only [State.flashUe]
  split <;> simp

@[simp] theorem State.countRead_anchor (s : State) (d k row phys : Nat) : (s.countRead d k row phys).anchor = s.anchor := by
  simp [State.countRead]

@[simp] theorem State.readResult_anchor (s : State) (o : FlashOp) (d k : Nat) (out : PageOutcome) :
    (s.readResult o d k out).2.anchor = s.anchor := by
  simp only [State.readResult]
  (repeat' split) <;> simp

@[simp] theorem State.readDone_anchor (s : State) (d k : Nat) (out : PageOutcome) : (s.readDone d k out).anchor = s.anchor := by
  simp only [State.readDone]
  (repeat' split) <;> simp

@[simp] theorem State.addPulses_anchor (s : State) (d k n : Nat) (prog : Bool) : (s.addPulses d k n prog).anchor = s.anchor := (rfl)

@[simp] theorem State.relocateStep_anchor (s : State) (o : FlashOp) (d k : Nat) : (s.relocateStep o d k).anchor = s.anchor := by
  simp [State.relocateStep]

@[simp] theorem State.programPass_anchor (s : State) (d k n : Nat) : (s.programPass d k n).anchor = s.anchor := by
  simp only [State.programPass]
  (repeat' split) <;> simp

@[simp] theorem State.erasePass_anchor (s : State) (d k n : Nat) : (s.erasePass d k n).anchor = s.anchor := by
  simp only [State.erasePass]
  (repeat' split) <;> simp

@[simp] theorem State.pulseLimit_anchor (s : State) (d k : Nat) : (s.pulseLimit d k).anchor = s.anchor := by
  simp only [State.pulseLimit]
  split
  · split
    · rfl
    · split
      · split
        · rename_i h; simp [State.takeSpare_anchor h]
        · simp
      · simp
  · rfl

@[simp] theorem State.planeSuspend_anchor (s : State) (d k n : Nat) : (s.planeSuspend d k n).anchor = s.anchor := by
  simp only [State.planeSuspend]
  (repeat' split) <;> simp

@[simp] theorem State.planeResume_anchor (s : State) (d k : Nat) : (s.planeResume d k).anchor = s.anchor := by
  simp only [State.planeResume]
  (repeat' split) <;> simp

@[simp] theorem State.setWclat_anchor (s : State) : (s.setWclat).anchor = s.anchor := by simp [State.setWclat]

@[simp] theorem State.writeClk_anchor (s : State) (v : Nat) : (s.writeClk v).anchor = s.anchor := by
  simp only [State.writeClk]
  split <;> simp

@[simp] theorem State.writeWait_anchor (s : State) (v : Nat) : (s.writeWait v).anchor = s.anchor := by
  unfold State.writeWait
  split <;> simp

@[simp] theorem State.clockSwitch_anchor (s : State) : (s.clockSwitch).anchor = s.anchor := by
  unfold State.clockSwitch
  split <;> simp

@[simp] theorem State.saveReads_anchor (s : State) : (s.saveReads).anchor = s.anchor := by simp [State.saveReads]

@[simp] theorem State.popDone_anchor (s : State) : s.popDone.2.anchor = s.anchor := by
  unfold State.popDone
  split <;> simp

/-! ### Firmware -/

@[simp] theorem State.setFwVersion_anchor (s : State) (img v : Nat) : (s.setFwVersion img v).anchor = s.anchor := (rfl)

@[simp] theorem State.fwProgram_anchor (s : State) (j : FwJob) (off n : Nat) : (s.fwProgram j off n).anchor = s.anchor := by
  simp [State.fwProgram]

@[simp] theorem State.fwStep_anchor (s : State) (i : Nat) (j : FwJob) : (s.fwStep i j).anchor = s.anchor := by
  unfold State.fwStep
  (repeat' split) <;> simp

/-! ### Kv -/

@[simp] theorem State.putKvBlock_anchor (s : State) (i l : Nat) (b : LayerBlock) : (s.putKvBlock i l b).anchor = s.anchor := by
  simp [State.putKvBlock]

theorem State.takeFrame_anchor {s t : State} {sp copy k f : Nat} (h : s.takeFrame sp copy = some (k, f, t)) : t.anchor = s.anchor := by
  simp only [State.takeFrame] at h
  (repeat' split at h) <;> cases h
  simp

@[simp] theorem State.giveFrame_anchor (s : State) (sp k f : Nat) : (s.giveFrame sp k f).anchor = s.anchor := (rfl)

@[simp] theorem State.allocPage_anchor (s : State) (i p l : Nat) : (s.allocPage i p l).anchor = s.anchor := by
  simp only [State.allocPage]
  split
  · rfl
  · split
    · rfl
    · split
      · simp
      · split
        · rfl
        · rename_i h; simp [State.takeFrame_anchor h]

@[simp] theorem State.freePagesIf_anchor (s : State) (i l : Nat) (f : Pte → Bool) : (s.freePagesIf i l f).anchor = s.anchor := by
  simp [State.freePagesIf]

@[simp] theorem State.eachLayer_anchor {f : Nat → State → State} (h : ∀ l t, (f l t).anchor = t.anchor) (s : State) (i : Nat) :
    (s.eachLayer i f).anchor = s.anchor := forEach_anchor h _ _

@[simp] theorem State.labAccess_anchor (s : State) (sp : Nat) (x : LabLine) : (s.labAccess sp x).anchor = s.anchor := by
  simp [State.labAccess]

@[simp] theorem State.labInsert_anchor (s : State) (sp : Nat) (x : LabLine) : (s.labInsert sp x).anchor = s.anchor := (rfl)

@[simp] theorem State.labDrop_anchor (s : State) (i : Nat) : (s.labDrop i).anchor = s.anchor := (rfl)

@[simp] theorem State.walk_anchor (s : State) (sp l : Nat) : (s.walk sp l).anchor = s.anchor := by
  unfold State.walk
  split <;> simp

@[simp] theorem State.holdMasses_anchor (s : State) (sp row l kvHead qHead page : Nat) (sums : List F32) :
    (s.holdMasses sp row l kvHead qHead page sums).anchor = s.anchor := by
  unfold State.holdMasses
  split <;> simp

@[simp] theorem State.dropMasses_anchor (s : State) (sp : Nat) : (s.dropMasses sp).anchor = s.anchor := (rfl)

@[simp] theorem State.acceptPiece_anchor (s : State) (h : HeldPiece) : (s.acceptPiece h).anchor = s.anchor := by
  unfold State.acceptPiece
  split <;> simp

@[simp] theorem State.pumpPieces_anchor (s : State) : (s.pumpPieces).anchor = s.anchor := by simp [State.pumpPieces]

@[simp] theorem State.issuePieces_anchor (s : State) (sp l : Nat) : (s.issuePieces sp l).anchor = s.anchor := by simp [State.issuePieces]

@[simp] theorem State.earlyPieces_anchor (s : State) (sp : Nat) : (s.earlyPieces sp).anchor = s.anchor := by simp [State.earlyPieces]

@[simp] theorem State.countEvict_anchor (s : State) (sp : Nat) : (s.countEvict sp).anchor = s.anchor := (rfl)

@[simp] theorem State.evictDecode_anchor (s : State) (i p l : Nat) : (s.evictDecode i p l).anchor = s.anchor := by
  simp only [State.evictDecode]
  split <;> simp

@[simp] theorem State.evictPrefill_anchor (s : State) (i l n : Nat) : (s.evictPrefill i l n).anchor = s.anchor := by
  induction n generalizing s with
  | zero => rfl
  | succ n ih =>
    unfold State.evictPrefill
    split <;> simp [ih]

@[simp] theorem State.startPrefill_anchor (s : State) (i p n : Nat) : (s.startPrefill i p n).anchor = s.anchor := by
  simp [State.startPrefill]

@[simp] theorem State.beginRow_anchor (s : State) (i p : Nat) (decode : Bool) : (s.beginRow i p decode).anchor = s.anchor := by
  simp [State.beginRow]

@[simp] theorem State.freeEvicting_anchor (s : State) (i : Nat) : (s.freeEvicting i).anchor = s.anchor := by simp [State.freeEvicting]

@[simp] theorem State.truncatePages_anchor (s : State) (i n : Nat) : (s.truncatePages i n).anchor = s.anchor := by
  simp [State.truncatePages]

@[simp] theorem State.addMasses_anchor (s : State) (i p : Nat) (l : List RowMass) : (s.addMasses i p l).anchor = s.anchor := by
  simp [State.addMasses]

@[simp] theorem State.freePages_anchor (s : State) (i : Nat) : (s.freePages i).anchor = s.anchor := by simp [State.freePages]

@[simp] theorem State.kvError_anchor (s : State) (kind sp i layer : Nat) : (s.kvError kind sp i layer).anchor = s.anchor := by
  simp [State.kvError]

@[simp] theorem State.resetWalker_anchor (s : State) (sp : Nat) : (s.resetWalker sp).anchor = s.anchor := by simp [State.resetWalker]

@[simp] theorem State.writeHalf_anchor (s : State) (i l p piece : Nat) (h : ImageHdr) (els : List Nat) :
    (s.writeHalf i l p piece h els).anchor = s.anchor := by
  unfold State.writeHalf
  split <;> simp

@[simp] theorem State.appendRows_anchor (s : State) (n : Nat) (w : Inst256) (sum : Nat → Nat → F32) (rand : Nat → Nat → Nat) :
    (s.appendRows n w sum rand).anchor = s.anchor := by
  simp only [State.appendRows]
  split
  · split
    · rfl
    · refine forEach_anchor (fun m t => ?_) _ _
      split
      · rfl
      · exact forEach_anchor (fun q u => by simp) _ _
  · rfl

@[simp] theorem State.appendAcked_anchor (s : State) (sp row l : Nat) : (s.appendAcked sp row l).anchor = s.anchor := by
  unfold State.appendAcked
  (repeat' split) <;> simp

/-! ### Array -/

@[simp] theorem State.putJob_anchor (s : State) (n : Nat) (w : Inst256) (pc : Word) (errs : ReadErrs) : (s.putJob n w pc errs).anchor =
    s.anchor := by simp [State.putJob]

@[simp] theorem State.matrix_anchor (s : State) (n : Nat) (w : Inst256) (errs : ReadErrs) : (s.matrix n w errs).anchor = s.anchor := by
  unfold State.matrix
  (repeat' split) <;> simp

@[simp] theorem State.writeResult_anchor (s : State) (n : Nat) (w : Inst256) (p : Prep) : (s.writeResult n w p).anchor = s.anchor := by
  simp [State.writeResult]

@[simp] theorem State.readFault_anchor (s : State) (n : Nat) (e : Nat × Nat × Option Nat) : (s.readFault n e).anchor = s.anchor := by
  unfold State.readFault
  split <;> simp

@[simp] theorem State.signalDone_anchor (s : State) (n : Nat) (w : Inst256) : (s.signalDone n w).anchor = s.anchor := by
  simp [State.signalDone]

@[simp] theorem State.drainLanding_anchor (s : State) (n : Nat) : (s.drainLanding n).anchor = s.anchor := (rfl)

@[simp] theorem State.leaveArray_anchor (s : State) (n : Nat) : (s.leaveArray n).anchor = s.anchor := by simp [State.leaveArray]

@[simp] theorem State.completeMatrix_anchor (s : State) (n : Nat) : (s.completeMatrix n).anchor = s.anchor := by
  simp only [State.completeMatrix]
  (repeat' split) <;> simp

@[simp] theorem State.sideWait_anchor (s : State) (n : Nat) (w : Inst256) : (s.sideWait n w).anchor = s.anchor := by simp [State.sideWait]

@[simp] theorem State.sidePath_anchor (s : State) (n : Nat) (w : Inst256) (errs : ReadErrs) : (s.sidePath n w errs).anchor = s.anchor := by
  refine State.issue_anchor (fun t => ?_) s n
  simp only []
  (repeat' split) <;> simp

@[simp] theorem State.spoil_anchor (s : State) (n : Nat) (j : MatrixJob) : (s.spoil n j).anchor = s.anchor := by
  unfold State.spoil
  split <;> rfl

@[simp] theorem State.arrayParity_anchor (s : State) (n : Nat) : (s.arrayParity n).anchor = s.anchor := by
  unfold State.arrayParity
  split <;> simp

/-! ### Moves -/

@[simp] theorem State.writeRecord_anchor (s : State) (n : Nat) (v : Option View) (d : BitVec 512) (status fmtExc codErr done : Nat) :
    (s.writeRecord n v d status fmtExc codErr done).anchor = s.anchor := by
  unfold State.writeRecord
  split <;> simp

@[simp] theorem State.refuseMove_anchor (s : State) (e who : Nat) (d : BitVec 512) (status : Nat) : (s.refuseMove e who d status).anchor =
    s.anchor := by simp [State.refuseMove]

@[simp] theorem State.acceptMove_anchor (s : State) (e who : Nat) (d : BitVec 512) : (s.acceptMove e who d).anchor = s.anchor := by
  unfold State.acceptMove
  split <;> simp

@[simp] theorem State.issueMoves_anchor (s : State) (n : Nat) (v : View) (errs : ReadErrs) (line k : Nat) :
    (s.issueMoves n v errs line k).anchor = s.anchor := by
  induction k generalizing s line with
  | zero => rfl
  | succ k ih =>
    unfold State.issueMoves
    split <;> simp [ih]

@[simp] theorem State.moveInst_anchor (s : State) (n : Nat) (w : Inst256) (errs : ReadErrs) : (s.moveInst n w errs).anchor = s.anchor := by
  refine State.issue_anchor (fun t => ?_) s n
  simp only []
  (repeat' split) <;> simp

@[simp] theorem State.resumeMove_anchor (s : State) (n : Nat) : (s.resumeMove n).anchor = s.anchor := by
  unfold State.resumeMove
  split <;> simp

@[simp] theorem State.pushMove_anchor (s : State) (who : Nat) (d : BitVec 512) : (s.pushMove who d).anchor = s.anchor := by
  simp [State.pushMove]

@[simp] theorem State.pumpAll_anchor (s : State) : (s.pumpAll).anchor = s.anchor := by simp [State.pumpAll]

@[simp] theorem State.bring_anchor (s : State) (c : Nat) (d : Landed) : (s.bring c d).anchor = s.anchor := by simp [State.bring]

@[simp] theorem State.srcUnitBytes_anchor (s : State) (m : Move) (i : Nat) : (s.srcUnitBytes m i).2.anchor = s.anchor := by
  unfold State.srcUnitBytes
  split <;> simp

@[simp] theorem State.countBad_anchor (s : State) (m : Move) (i : Nat) (bad : List Nat) (errs : List (Nat × EccOutcome)) :
    (s.countBad m i bad errs).anchor = s.anchor := by
  unfold State.countBad
  split <;> simp

@[simp] theorem State.putUnit_anchor (s : State) (m : Move) (i : Nat) (out : List Byte) (js : List Nat) :
    (s.putUnit m i out js).anchor = s.anchor := by
  unfold State.putUnit
  split <;> simp

@[simp] theorem State.carry_anchor (s : State) (e : Nat) (m : Move) (i : Nat) (leg : Bool) (errs : List (Nat × EccOutcome)) :
    (s.carry e m i leg errs).2.anchor = s.anchor := by
  unfold State.carry
  cases State.moveGen e m <;> simp

@[simp] theorem State.carryAll_anchor (s : State) (e : Nat) (m : Move) (leg : Bool) (errs : List (Nat × EccOutcome)) (k : Nat) :
    (s.carryAll e m leg errs k).2.anchor = s.anchor := by
  induction k generalizing s m with
  | zero => rfl
  | succ k ih => exact (ih _ _).trans (s.carry_anchor e m m.done leg errs)

@[simp] theorem State.putMove_anchor (s : State) (e : Nat) (m : Move) : (s.putMove e m).anchor = s.anchor := by simp [State.putMove]

@[simp] theorem State.endMove_anchor (s : State) (e : Nat) (m : Move) (status : Nat) : (s.endMove e m status).anchor = s.anchor := by
  simp [State.endMove]

@[simp] theorem State.completeMove_anchor (s : State) (e : Nat) (m : Move) (errs : List (Nat × EccOutcome)) :
    (s.completeMove e m errs).anchor = s.anchor := by
  unfold State.completeMove
  split
  · simp
  · split <;> simp

@[simp] theorem State.legTime_anchor (s : State) (l : Leg) (span ns : Nat) : (s.legTime l span ns).anchor = s.anchor := by
  simp [State.legTime]

@[simp] theorem State.moveLeg_anchor (s : State) (l : Leg) (bad : Bool) : (s.moveLeg l bad).anchor = s.anchor := by
  unfold State.moveLeg
  split <;> simp

@[simp] theorem State.objLeg_anchor (s : State) (l : Leg) (bad : Bool) : (s.objLeg l bad).anchor = s.anchor := by simp [State.objLeg]

@[simp] theorem State.legDone_anchor (s : State) (l : Leg) (ns : Nat) (bad : Bool) : (s.legDone l ns bad).anchor = s.anchor := by
  simp [State.legDone]

@[simp] theorem State.legFail_anchor (s : State) (l : Leg) : (s.legFail l).anchor = s.anchor := by simp [State.legFail]

@[simp] theorem State.losePage_anchor (s : State) (sp i l : Nat) : (s.losePage sp i l).anchor = s.anchor := by simp [State.losePage]

@[simp] theorem State.completePiece_anchor (s : State) (p : PieceMove) : (s.completePiece p).anchor = s.anchor := by
  simp only [State.completePiece]
  split <;> simp

/-! ### Items -/

@[simp] theorem State.emit_anchor (s : State) (i : Nat) (x : Slot) (h : HeldItem) (t : Nat) : (s.emit i x h t).2.anchor = s.anchor := by
  unfold State.emit
  split <;> simp

@[simp] theorem State.produce_anchor (s : State) (i kind : Nat) (text : List Byte) (tokens : List Nat) (first : Nat) :
    (s.produce i kind text tokens first).anchor = s.anchor := by
  simp [State.produce]

@[simp] theorem State.releaseAt_anchor (s : State) (i : Nat) (x : Slot) (d : Nat) : (s.releaseAt i x d).2.anchor = s.anchor := by
  have hfold : ∀ (l : List HeldItem) (a : Slot × State), (l.foldl (fun a h => a.2.emit i a.1 h d) a).2.anchor = a.2.anchor := by
    intro l
    induction l with
    | nil => exact fun _ => rfl
    | cons h r ih => exact fun a => (ih _).trans (by simp)
  exact hfold _ _

@[simp] theorem State.detok_anchor (s : State) (i : Nat) (tok : Tokenizer) (tokens : List Nat) (whole : Bool) :
    (s.detok i tok tokens whole).2.anchor = s.anchor := by
  simp [State.detok]

@[simp] theorem State.endSlot_anchor (s : State) (i reason status : Nat) (tokens : List Nat) (first : Nat) :
    (s.endSlot i reason status tokens first).anchor = s.anchor := by
  simp [State.endSlot]

@[simp] theorem State.markEnding_anchor (s : State) (i reason status : Nat) : (s.markEnding i reason status).anchor = s.anchor := by
  simp [State.markEnding]

@[simp] theorem State.dropTurn_anchor (s : State) (i status : Nat) : (s.dropTurn i status).anchor = s.anchor := by
  unfold State.dropTurn
  split <;> simp

@[simp] theorem State.cancelSlot_anchor (s : State) (i : Nat) (free : Bool) : (s.cancelSlot i free).anchor = s.anchor := by
  simp [State.cancelSlot]

/-! ### Vector -/

@[simp] theorem State.vectorRead_anchor (s : State) (n : Nat) (v : View) (len : Nat) : (s.vectorRead n v len).2.anchor = s.anchor := by
  simp [State.vectorRead]

@[simp] theorem State.sendMasses_anchor (s : State) (n : Nat) (v : VectorInst) (sums : List F32) :
    (s.sendMasses n v sums).anchor = s.anchor := by
  unfold State.sendMasses
  split <;> simp

@[simp] theorem State.vectorRun_anchor (s : State) (n : Nat) (v : VectorInst) (r : Rounding) (vs : List View) (d : View) :
    (s.vectorRun n v r vs d).anchor = s.anchor := by
  unfold State.vectorRun
  extract_lets rd
  have hrd : ∀ i t, (rd i t).2.anchor = t.anchor := fun i t => by
    simp only [rd]
    split <;> simp
  simp [hrd]

@[simp] theorem State.vector_anchor (s : State) (n : Nat) (v : VectorInst) (errs : ReadErrs) : (s.vector n v errs).anchor = s.anchor := by
  refine State.issue_anchor (fun t => ?_) s n
  simp only []
  split
  · simp
  · refine anchor_of_ite (by simp) (anchor_of_ite rfl (anchor_of_ite (by simp) ?_))
    split
    · split <;> simp
    · simp

/-! ### Admission -/

@[simp] theorem State.showCommitted_anchor (s : State) (sp : Nat) : (s.showCommitted sp).anchor = s.anchor := by
  simp only [State.showCommitted]
  split <;> simp

@[simp] theorem State.writeCommitted_anchor (s : State) (sp : Nat) : (s.writeCommitted sp).anchor = s.anchor := by
  simp [State.writeCommitted]

@[simp] theorem State.withdraw_anchor (s : State) (i : Nat) : (s.withdraw i).anchor = s.anchor := by simp [State.withdraw]

@[simp] theorem State.shedUntil_anchor (s : State) (sp : Nat) (l : List Nat) : (s.shedUntil sp l).anchor = s.anchor := by
  induction l generalizing s with
  | nil => rfl
  | cons i r ih =>
    unfold State.shedUntil
    split <;> simp [ih]

@[simp] theorem State.shed_anchor (s : State) (sp : Nat) : (s.shed sp).anchor = s.anchor := by simp [State.shed]

@[simp] theorem State.capacityLoss_anchor (s : State) (sp : Nat) : (s.capacityLoss sp).anchor = s.anchor := (rfl)

@[simp] theorem State.capacityLossAll_anchor (s : State) : (s.capacityLossAll).anchor = s.anchor := by simp [State.capacityLossAll]

@[simp] theorem State.applyLimits_anchor (s : State) : (s.applyLimits).anchor = s.anchor := by
  unfold State.applyLimits
  split <;> simp

@[simp] theorem State.applyIdle_anchor (s : State) : (s.applyIdle).anchor = s.anchor := by simp [State.applyIdle]

/-! ### Requests -/

@[simp] theorem State.refuseReq_anchor (s : State) (c : Caller) (status : Nat) : (s.refuseReq c status).anchor = s.anchor := by
  simp [State.refuseReq]

@[simp] theorem State.dropReq_anchor (s : State) (r : Req) (status : Nat) : (s.dropReq r status).anchor = s.anchor := by
  simp [State.dropReq]

@[simp] theorem State.putReq_anchor (s : State) (a b : Req) : (s.putReq a b).anchor = s.anchor := (rfl)

@[simp] theorem State.becomePending_anchor (s : State) (r : Req) : (s.becomePending r).anchor = s.anchor := by
  simp only [State.becomePending]
  split <;> simp

@[simp] theorem State.endPrompt_anchor (s : State) (r : Req) : (s.endPrompt r).anchor = s.anchor := by simp [State.endPrompt]

@[simp] theorem State.turnReady_anchor (s : State) (i : Nat) (t : Turn) : (s.turnReady i t).anchor = s.anchor := by
  unfold State.turnReady
  split <;> simp

@[simp] theorem State.appendTurn_anchor (s : State) (c : Caller) (i : Nat) (part : List Byte) (kind maxNew : Nat) (ends : Bool) :
    (s.appendTurn c i part kind maxNew ends).anchor = s.anchor := by simp [State.appendTurn]

@[simp] theorem State.reqCreate_anchor (s : State) (c : Caller) (pkt : Packet) : (s.reqCreate c pkt).anchor = s.anchor := by
  simp only [State.reqCreate]
  (repeat' split) <;> simp

@[simp] theorem State.reqAppend_anchor (s : State) (c : Caller) (pkt : Packet) : (s.reqAppend c pkt).anchor = s.anchor := by
  simp only [State.reqAppend]
  (repeat' split) <;> simp

@[simp] theorem State.reqCancel_anchor (s : State) (c : Caller) (pkt : Packet) : (s.reqCancel c pkt).anchor = s.anchor := by
  unfold State.reqCancel
  (repeat' split) <;> simp

@[simp] theorem State.reqQuery_anchor (s : State) (c : Caller) (pkt : Packet) : (s.reqQuery c pkt).anchor = s.anchor := by
  unfold State.reqQuery
  (repeat' split) <;> simp

@[simp] theorem State.tokenized_anchor (s : State) (p tag : Nat) (tokens : List Nat) (replaced : Bool) :
    (s.tokenized p tag tokens replaced).anchor = s.anchor := by
  unfold State.tokenized
  (repeat' split) <;> simp

/-! ### Steps -/

@[simp] theorem State.setDraw_anchor (s : State) (i : Nat) (g : BitVec 32) : (s.setDraw i g).anchor = s.anchor := by simp [State.setDraw]

@[simp] theorem State.sampleRow_anchor (s : State) (i : Nat) (logits : List F32) : (s.sampleRow i logits).2.anchor = s.anchor := by
  simp [State.sampleRow]

@[simp] theorem State.takeToken_anchor (s : State) (i t : Nat) : (s.takeToken i t).2.anchor = s.anchor := by
  simp [State.takeToken]

@[simp] theorem State.sampleRows_anchor (s : State) (i : Nat) (logits : Nat → List F32) (l : List (Nat × RowEntry)) (got : List Nat) :
    (s.sampleRows i logits l got).2.2.anchor = s.anchor := by
  induction l generalizing s got with
  | nil => rfl
  | cons x rest ih =>
    have hrow := s.sampleRow_anchor i (logits x.1)
    unfold State.sampleRows
    split
    · rename_i h; rw [h] at hrow; exact hrow
    · rename_i t u h
      rw [h] at hrow
      have htok := u.takeToken_anchor i t
      split
      · rename_i h'; rw [h'] at htok; exact htok.trans hrow
      · rename_i v h'
        rw [h'] at htok
        split
        · exact (ih v _).trans (htok.trans hrow)
        · exact htok.trans hrow

@[simp] theorem State.park_anchor (s : State) (i reason status : Nat) (tokens : List Nat) (first : Nat) :
    (s.park i reason status tokens first).anchor = s.anchor := by
  simp [State.park]

@[simp] theorem State.finishTokens_anchor (s : State) (i : Nat) (tokens : List Nat) (first : Nat) (e : Option (Nat × Nat)) :
    (s.finishTokens i tokens first e).anchor = s.anchor := by
  unfold State.finishTokens
  split <;> simp

@[simp] theorem State.endSegment_anchor (s : State) (i : Nat) (rows : List (Nat × RowEntry)) (r : StepResult) (held : List RowMass) :
    (s.endSegment i rows r held).anchor = s.anchor := by
  simp [State.endSegment]

@[simp] theorem State.stepEnd_anchor (s : State) (sp : Nat) (r : StepResult) : (s.stepEnd sp r).anchor = s.anchor := by
  unfold State.stepEnd
  (repeat' split) <;> simp

/-! ### Spans -/

@[simp] theorem State.spoilMove_anchor (s : State) (m : Move) : (s.spoilMove m).anchor = s.anchor := by
  refine forEach_anchor (fun i t => ?_) _ _
  cases m.dst <;> simp

@[simp] theorem State.endMovesIf_anchor (s : State) (e : Nat) (f : Move → Bool) : (s.endMovesIf e f).anchor = s.anchor := by
  simp [State.endMovesIf]

@[simp] theorem State.endPiecesIf_anchor (s : State) (f : PieceMove → Bool) : (s.endPiecesIf f).anchor = s.anchor :=
  forEach_anchor (fun p t => by simp) _ _

@[simp] theorem State.endMoves_anchor (s : State) (n : Nat) : (s.endMoves n).anchor = s.anchor := by simp [State.endMoves]

@[simp] theorem State.wipeCellBut_anchor (s : State) (n : Nat) (keep : Nat → Bool) : (s.wipeCellBut n keep).anchor = s.anchor := by
  simp only [State.wipeCellBut, State.wr_anchor]
  exact s.endMoves_anchor n

@[simp] theorem State.wipeCell_anchor (s : State) (n : Nat) : (s.wipeCell n).anchor = s.anchor := by simp [State.wipeCell]

@[simp] theorem State.placeCell_anchor (s : State) (n sp : Nat) : (s.placeCell n sp).anchor = s.anchor := by simp [State.placeCell]

@[simp] theorem State.spanReset_anchor (s : State) (sp : Nat) : (s.spanReset sp).anchor = s.anchor := by
  simp only [State.spanReset, State.resetWalker_anchor]
  refine Eq.trans (b := State.anchor (forEach (s.spanCells sp) _ _)) rfl ?_
  simp

@[simp] theorem State.installProgramme_anchor (s : State) (sp r : Nat) (h : ImageHdr) : (s.installProgramme sp r h).anchor = s.anchor := by
  simp [State.installProgramme]

@[simp] theorem State.installAll_anchor (s : State) (sp : Nat) (h : ImageHdr) : (s.installAll sp h).anchor = s.anchor := by
  simp [State.installAll]

@[simp] theorem State.reinstall_anchor (s : State) (sp r : Nat) (h : ImageHdr) : (s.reinstall sp r h).anchor = s.anchor := by
  simp [State.reinstall]

@[simp] theorem State.writeSpanCfg_anchor (s : State) (sp : Nat) : (s.writeSpanCfg sp).anchor = s.anchor := by simp [State.writeSpanCfg]

@[simp] theorem State.applyRec_anchor (s : State) (sp : Nat) (r : SpanRec) : (s.applyRec sp r).anchor = s.anchor := by simp [State.applyRec]

@[simp] theorem State.applyRecs_anchor (s : State) (l : List (Nat × SpanRec)) : (s.applyRecs l).anchor = s.anchor := by
  simp [State.applyRecs]

@[simp] theorem State.newEpoch_anchor (s : State) (deaf : List Nat) : (s.newEpoch deaf).anchor = s.anchor := by simp [State.newEpoch]

@[simp] theorem State.dropShadow_anchor (s : State) : (s.dropShadow).anchor = s.anchor := by simp [State.dropShadow]

@[simp] theorem State.spanConfigure_anchor (s : State) (c : Caller) (pkt : Packet) : (s.spanConfigure c pkt).anchor = s.anchor := by
  simp only [State.spanConfigure]
  (repeat' split) <;> simp

@[simp] theorem State.configStage_anchor (s : State) (c : Caller) (pkt : Packet) : (s.configStage c pkt).anchor = s.anchor := by
  simp only [State.configStage]
  refine anchor_of_ite (by simp) (anchor_of_ite (by simp) (anchor_of_ite (by simp) (anchor_of_ite (by simp) ?_)))
  exact (State.fin_anchor _ _ _).trans ((State.anchor_with_shadow _ _).trans (by simp))

@[simp] theorem State.withMap_anchor (s : State) (l : List (Nat × SpanRec)) : (s.withMap l).anchor = s.anchor := by simp [State.withMap]

@[simp] theorem State.forceCarry_anchor (s : State) (l : List (Nat × SpanRec)) : (s.forceCarry l).anchor = s.anchor := by
  simp [State.forceCarry]

@[simp] theorem State.configCommit_anchor (s : State) (c : Caller) (pkt : Packet) : (s.configCommit c pkt).anchor = s.anchor := by
  unfold State.configCommit
  (repeat' split) <;> simp

@[simp] theorem State.commitStep_anchor (s : State) (sp : Nat) (deaf : List Nat) (k : Commit) : (s.commitStep sp deaf k).anchor =
    s.anchor := by simp [State.commitStep]

@[simp] theorem State.commitBoundary_anchor (s : State) (sp : Nat) (deaf : List Nat) : (s.commitBoundary sp deaf).anchor = s.anchor := by
  simp [State.commitBoundary]

/-! ### Tiers -/

@[simp] theorem State.cancelHolders_anchor (s : State) (o : Nat) : (s.cancelHolders o).anchor = s.anchor := by simp [State.cancelHolders]

@[simp] theorem State.applyPlace_anchor (s : State) (o : Nat) (h : HeldCmd) : (s.applyPlace o h).anchor = s.anchor := by
  unfold State.applyPlace
  split
  · simp
  · split
    · rename_i hp; exact State.placeObj_anchor hp
    · simp

@[simp] theorem State.evict_anchor (s : State) (o tier : Nat) : (s.evict o tier).anchor = s.anchor := by
  simp only [State.evict]
  split
  · simp
  · split
    · cases hp : s.placeObj o tier 0 none with
      | none => rfl
      | some t => exact State.placeObj_anchor hp
    · rfl

@[simp] theorem State.copyHome_anchor (s : State) (o : Nat) : (s.copyHome o).anchor = s.anchor := by simp [State.copyHome]

@[simp] theorem State.endHeld_anchor (s : State) (o : Nat) : (s.endHeld o).anchor = s.anchor := by simp [State.endHeld]

@[simp] theorem State.arrive_anchor (s : State) (o : Nat) : (s.arrive o).anchor = s.anchor := by
  simp only [State.arrive]
  (repeat' split) <;> simp

@[simp] theorem State.moveEnd_anchor (s : State) (o : Nat) : (s.moveEnd o).anchor = s.anchor := by simp [State.moveEnd]

@[simp] theorem State.objRegister_anchor (s : State) (c : Caller) (pkt : Packet) : (s.objRegister c pkt).anchor = s.anchor := by
  unfold State.objRegister
  refine anchor_of_ite (by simp) (anchor_of_ite (by simp) ?_)
  simp only []
  split
  · simp
  · rename_i h; simp [State.allocObj_anchor h]

@[simp] theorem State.objPlace_anchor (s : State) (c : Caller) (pkt : Packet) : (s.objPlace c pkt).anchor = s.anchor := by
  simp [State.objPlace]

theorem State.drainChildren_anchor {s t : State} {force : Bool} {l : List Nat} (h : s.drainChildren force l = some t) :
    t.anchor = s.anchor := by
  induction l generalizing s with
  | nil => cases h; rfl
  | cons o r ih =>
    simp only [State.drainChildren] at h
    split at h
    · exact (ih h).trans (by simp)
    · split at h
      · rename_i u hu
        obtain ⟨c, _, hp⟩ := List.exists_of_findSome?_eq_some hu
        exact (ih h).trans (State.placeObj_anchor hp)
      · split at h
        · exact (ih h).trans (by simp)
        · cases h

@[simp] theorem State.objRevoke_anchor (s : State) (c : Caller) (pkt : Packet) : (s.objRevoke c pkt).anchor = s.anchor := by
  simp only [State.objRevoke]
  (repeat' split) <;> try simp
  rename_i h; exact State.drainChildren_anchor h

@[simp] theorem State.drainArrivals_anchor (s : State) (o : Nat) : (s.drainArrivals o).anchor = s.anchor := by
  simp only [State.drainArrivals]
  (repeat' split) <;> try simp
  rename_i h; exact State.drainChildren_anchor h

@[simp] theorem State.retireChannel_anchor (s : State) (ch : Nat) : (s.retireChannel ch).anchor = s.anchor := by simp [State.retireChannel]

@[simp] theorem State.losePoolFrames_anchor (s : State) (sp k a : Nat) : (s.losePoolFrames sp k a).anchor = s.anchor := by
  simp [State.losePoolFrames]

/-- The definition is opened as a whole and the look-up in the table of T1 kept as a variable: else the kernel evaluates it on a state that
is not given. -/
@[simp] theorem State.rehome_anchor (s : State) (o a : Nat) : (s.rehome o a).anchor = s.anchor := by
  obtain ⟨f, hf⟩ : ∃ f, f = State.rehome := ⟨_, rfl⟩
  obtain ⟨find, hfind⟩ : ∃ g, g = State.t1Find := ⟨_, rfl⟩
  rw [← hf]
  delta State.rehome at hf
  rw [← hfind] at hf
  subst hf
  simp only []
  split <;> simp

@[simp] theorem State.frameHits_anchor (s : State) (a o : Nat) : (s.frameHits a o).anchor = s.anchor := by
  simp only [State.frameHits]
  (repeat' split) <;> simp

@[simp] theorem State.retireFrame_anchor (s : State) (a : Nat) : (s.retireFrame a).anchor = s.anchor := by simp [State.retireFrame]

@[simp] theorem State.dramCorrected_anchor (s : State) (ch : Nat) : (s.dramCorrected ch).anchor = s.anchor := by simp [State.dramCorrected]

@[simp] theorem State.dramUe_anchor (s : State) (ch n : Nat) : (s.dramUe ch n).anchor = s.anchor := by
  simp only [State.dramUe]
  split <;> simp

@[simp] theorem State.dramRead_anchor (s : State) (a : Nat) (ecc : EccOutcome) : (s.dramRead a ecc).anchor = s.anchor := by
  unfold State.dramRead
  split <;> simp

@[simp] theorem State.patrolRead_anchor (s : State) (ch : Nat) (ecc : EccOutcome) : (s.patrolRead ch ecc).anchor = s.anchor := by
  unfold State.patrolRead
  (repeat' split) <;> simp

@[simp] theorem State.copyDone_anchor (s : State) : (s.copyDone).anchor = s.anchor := by
  unfold State.copyDone
  split <;> simp

@[simp] theorem State.meetSource_anchor (s : State) (m : Move) (errs : List (Nat × EccOutcome)) :
    (s.meetSource m errs).anchor = s.anchor := by
  refine forEach_anchor (fun e t => ?_) _ _
  (repeat' split) <;> simp

@[simp] theorem State.finishMove_anchor (s : State) (e : Nat) (m : Move) (errs : List (Nat × EccOutcome)) : (s.finishMove e m errs).anchor
    = s.anchor := by simp [State.finishMove]

@[simp] theorem State.finishPiece_anchor (s : State) (p : PieceMove) (errs : List (Nat × EccOutcome)) :
    (s.finishPiece p errs).anchor = s.anchor := by
  unfold State.finishPiece
  split <;> simp

@[simp] theorem State.finishObj_anchor (s : State) (o : Nat) (errs : List (Nat × EccOutcome)) : (s.finishObj o errs).anchor = s.anchor := by
  simp [State.finishObj]

@[simp] theorem State.linksFresh_anchor (s : State) (n : Nat) : (s.linksFresh n).anchor = s.anchor := (rfl)

@[simp] theorem State.repeatHolders_anchor (s : State) (o : Nat) : (s.repeatHolders o).anchor = s.anchor := by simp [State.repeatHolders]

@[simp] theorem State.t3Timeout_anchor (s : State) (l : Leg) : (s.t3Timeout l).anchor = s.anchor := by simp [State.t3Timeout]

/-! ### Images -/

@[simp] theorem State.dropObj_anchor (s : State) (o : Nat) : (s.dropObj o).anchor = s.anchor := by simp [State.dropObj]

@[simp] theorem State.dropPools_anchor (s : State) (sp k : Nat) : (s.dropPools sp k).anchor = s.anchor := by simp [State.dropPools]

@[simp] theorem State.dropProgs_anchor (s : State) (sp : Nat) (c : ModelCopy) : (s.dropProgs sp c).anchor = s.anchor := by
  simp [State.dropProgs]

@[simp] theorem State.dropCopy_anchor (s : State) (sp : Nat) (c : Option ModelCopy) : (s.dropCopy sp c).anchor = s.anchor := by
  unfold State.dropCopy
  split <;> simp

theorem State.carvePools_anchor {s t : State} {sp k : Nat} {h : ImageHdr} (hc : s.carvePools sp k h = some t) : t.anchor = s.anchor := by
  unfold State.carvePools at hc
  refine foldl_bind_anchor (fun e u v hv => ?_) _ hc
  simp only [] at hv
  split at hv
  · cases hv; rfl
  · obtain ⟨b, _, hb⟩ := Option.bind_eq_some_iff.mp hv
    obtain ⟨⟨o, w⟩, hw, rfl⟩ := Option.map_eq_some_iff.mp hb
    simp [State.allocObj_anchor hw]

@[simp] theorem State.showCopy_anchor (s : State) (sp : Nat) : (s.showCopy sp).anchor = s.anchor := by
  unfold State.showCopy
  (repeat' split) <;> simp

@[simp] theorem State.showRoles_anchor (s : State) (sp : Nat) : (s.showRoles sp).anchor = s.anchor := by simp [State.showRoles]

@[simp] theorem State.emptySpan_anchor (s : State) (sp : Nat) : (s.emptySpan sp).anchor = s.anchor := by simp [State.emptySpan]

theorem State.allocLoaded_anchor {s t : State} {sp i op n : Nat} {roles : List Nat} {o : ImgObj}
    (h : s.allocLoaded sp i op roles o = some (n, t)) : t.anchor = s.anchor := by
  simp only [State.allocLoaded] at h
  split at h
  · exact State.allocObj_anchor h
  · obtain ⟨a, _, ha⟩ := Option.bind_eq_some_iff.mp h
    exact State.allocObj_anchor ha

theorem State.allocAll_anchor {s t : State} {sp i op : Nat} {roles l : List Nat} {objs : List ImgObj}
    (h : s.allocAll sp i op roles objs = some (l, t)) : t.anchor = s.anchor := by
  induction objs generalizing s l with
  | nil => cases h; rfl
  | cons o r ih =>
    obtain ⟨⟨n, u⟩, hu, h⟩ := Option.bind_eq_some_iff.mp h
    obtain ⟨⟨l', v⟩, hv, h⟩ := Option.map_eq_some_iff.mp h
    cases h
    exact (ih hv).trans (State.allocLoaded_anchor hu)

@[simp] theorem State.setLoad_anchor (s : State) (i : Nat) (j : LoadJob) : (s.setLoad i j).anchor = s.anchor := (rfl)

@[simp] theorem State.undoLoad_anchor (s : State) (i : Nat) : (s.undoLoad i).anchor = s.anchor := by
  simp only [State.undoLoad]
  (repeat' split) <;> simp

@[simp] theorem State.failLoad_anchor (s : State) (i status : Nat) : (s.failLoad i status).anchor = s.anchor := by simp [State.failLoad]

@[simp] theorem State.endAborted_anchor (s : State) (i : Nat) : (s.endAborted i).anchor = s.anchor := by
  simp only [State.endAborted]
  split <;> simp

@[simp] theorem State.relayGo_anchor (s : State) (i : Nat) : (s.relayGo i).anchor = s.anchor := by
  simp only [State.relayGo]
  split <;> simp

@[simp] theorem State.loadDone_anchor (s : State) (i : Nat) : (s.loadDone i).anchor = s.anchor := by
  simp only [State.loadDone]
  split
  · split
    · simp
    · rename_i h; simp [State.carvePools_anchor h]
  · rfl

@[simp] theorem State.imgBad_anchor (s : State) (i : Nat) : (s.imgBad i).anchor = s.anchor := by simp [State.imgBad]

@[simp] theorem State.loadBegin_anchor (s : State) (sp img : Nat) (swap : Bool) (i : Nat) :
    (s.loadBegin sp img swap i).anchor = s.anchor := by
  simp only [State.loadBegin]
  split
  · simp
  · split
    · simp
    · rename_i h
      have hall := State.allocAll_anchor h
      simp [hall]

@[simp] theorem State.modelLoad_anchor (s : State) (c : Caller) (pkt : Packet) (swap : Bool) :
    (s.modelLoad c pkt swap).anchor = s.anchor := by
  simp only [State.modelLoad]
  split <;> simp

@[simp] theorem State.relayWrite_anchor (s : State) (sp i : Nat) (j : LoadJob) (h : RelayHdr) : (s.relayWrite sp i j h).anchor =
    s.anchor := by simp [State.relayWrite]

@[simp] theorem State.relayPacket_anchor (s : State) (sp : Nat) (is : RelayHdr → Bool) (credit : Bool) (waited : Nat) :
    (s.relayPacket sp is credit waited).anchor = s.anchor := by
  unfold State.relayPacket
  (repeat' split) <;> simp

@[simp] theorem State.loadResume_anchor (s : State) (i : Nat) (j : LoadJob) : (s.loadResume i j).anchor = s.anchor := by
  simp [State.loadResume]

@[simp] theorem State.modelUnload_anchor (s : State) (c : Caller) (pkt : Packet) : (s.modelUnload c pkt).anchor = s.anchor := by
  simp [State.modelUnload]

@[simp] theorem State.flashEnd_anchor (s : State) (i : Nat) (j : FlashJob) : (s.flashEnd i j).anchor = s.anchor := by
  unfold State.flashEnd
  split <;> simp

@[simp] theorem State.flashFail_anchor (s : State) (i : Nat) (j : FlashJob) (status : Nat) : (s.flashFail i j status).anchor =
    s.anchor := by simp [State.flashFail]

@[simp] theorem State.setFlashJob_anchor (s : State) (i : Nat) (j : FlashJob) : (s.setFlashJob i j).anchor = s.anchor := (rfl)

@[simp] theorem State.flashIssue_anchor (s : State) (i : Nat) : (s.flashIssue i).anchor = s.anchor := by
  simp only [State.flashIssue]
  (repeat' split) <;> simp

@[simp] theorem State.readPage_anchor (s : State) (j : FlashJob) : (s.readPage j).anchor = s.anchor := by
  unfold State.readPage
  split <;> simp

@[simp] theorem State.flashStep_anchor (s : State) (i st : Nat) : (s.flashStep i st).anchor = s.anchor := by
  simp only [State.flashStep]
  (repeat' split) <;> simp

@[simp] theorem State.runJobs_anchor (s : State) : s.runJobs.anchor = s.anchor := by
  refine (forEach_anchor (fun i t => ?_) _ _).trans ((forEach_anchor (fun e t => by simp) _ _).trans (by simp))
  split <;> simp

@[simp] theorem State.flashWriteImage_anchor (s : State) (c : Caller) (pkt : Packet) : (s.flashWriteImage c pkt).anchor = s.anchor := by
  simp only [State.flashWriteImage]
  (repeat' split) <;> simp

@[simp] theorem State.flashErase_anchor (s : State) (c : Caller) (pkt : Packet) : (s.flashErase c pkt).anchor = s.anchor := by
  simp [State.flashErase]

@[simp] theorem State.flashReadCmd_anchor (s : State) (c : Caller) (pkt : Packet) : (s.flashReadCmd c pkt).anchor = s.anchor := by
  simp only [State.flashReadCmd]
  (repeat' split) <;> simp

@[simp] theorem State.cutPlane_anchor (s : State) (d k : Nat) : (s.cutPlane d k).anchor = s.anchor := by
  simp only [State.cutPlane]
  (repeat' split) <;> simp

/-! ### Adapters -/

theorem State.allocFactors_anchor {s t : State} {sp op src : Nat} {fs : List FactorObj} {l : List Nat}
    (h : s.allocFactors sp op src fs = some (l, t)) : t.anchor = s.anchor := by
  induction fs generalizing s l with
  | nil => cases h; rfl
  | cons f r ih =>
    obtain ⟨a, _, h⟩ := Option.bind_eq_some_iff.mp h
    obtain ⟨⟨n, u⟩, hu, h⟩ := Option.bind_eq_some_iff.mp h
    obtain ⟨⟨l', v⟩, hv, h⟩ := Option.map_eq_some_iff.mp h
    cases h
    exact (ih hv).trans (State.allocObj_anchor hu)

@[simp] theorem State.dropVersion_anchor (s : State) (v : AdVer) : (s.dropVersion v).anchor = s.anchor := by simp [State.dropVersion]

@[simp] theorem State.undoAdapter_anchor (s : State) (i : Nat) : (s.undoAdapter i).anchor = s.anchor := by
  simp only [State.undoAdapter]
  split <;> simp

@[simp] theorem State.failAdapter_anchor (s : State) (i status : Nat) : (s.failAdapter i status).anchor = s.anchor := by
  simp [State.failAdapter]

@[simp] theorem State.adapterLoaded_anchor (s : State) (i : Nat) : (s.adapterLoaded i).anchor = s.anchor := by
  simp only [State.adapterLoaded]
  (repeat' split) <;> simp

@[simp] theorem State.objectMoveEnd_anchor (s : State) (o : Nat) (errs : List (Nat × EccOutcome)) :
    (s.objectMoveEnd o errs).anchor = s.anchor := by
  simp only [State.objectMoveEnd]
  split <;> simp

@[simp] theorem State.adapterBegin_anchor (s : State) (sp a v src : Nat) (h : PackHdr) (l : List FactorObj) (i : Nat) :
    (s.adapterBegin sp a v src h l i).anchor = s.anchor := by
  unfold State.adapterBegin
  split
  · simp
  · rename_i hf; simp [State.allocFactors_anchor hf]

@[simp] theorem State.adapterCmd_anchor (s : State) (c : Caller) (pkt : Packet) (replace : Bool) :
    (s.adapterCmd c pkt replace).anchor = s.anchor := by
  simp only [State.adapterCmd]
  (repeat' split) <;> simp

@[simp] theorem State.adapterDrop_anchor (s : State) (c : Caller) (pkt : Packet) : (s.adapterDrop c pkt).anchor = s.anchor := by
  simp only [State.adapterDrop]
  (repeat' split) <;> simp

@[simp] theorem State.retireIndex_anchor (s : State) (sp a : Nat) : (s.retireIndex sp a).anchor = s.anchor := by
  simp only [State.retireIndex]
  (repeat' split) <;> simp

@[simp] theorem State.retireVersions_anchor (s : State) (sp : Nat) : (s.retireVersions sp).anchor = s.anchor := by
  simp [State.retireVersions]

@[simp] theorem State.switchIndex_anchor (s : State) (sp a : Nat) : (s.switchIndex sp a).anchor = s.anchor := by
  simp only [State.switchIndex]
  (repeat' split) <;> simp

@[simp] theorem State.switchAdapters_anchor (s : State) (sp : Nat) : (s.switchAdapters sp).anchor = s.anchor := by
  simp [State.switchAdapters]

@[simp] theorem State.carryAdapters_anchor (s : State) (sp : Nat) (c : ModelCopy) : (s.carryAdapters sp c).anchor = s.anchor := by
  simp [State.carryAdapters]

@[simp] theorem State.endIndexOp_anchor (s : State) (sp a : Nat) : (s.endIndexOp sp a).anchor = s.anchor := by
  simp only [State.endIndexOp]
  split <;> simp

@[simp] theorem State.dropOldOnly_anchor (s : State) (sp : Nat) : (s.dropOldOnly sp).anchor = s.anchor := by
  refine forEach_anchor (fun a t => ?_) _ _
  simp only []
  split
  · rfl
  · split <;> simp

@[simp] theorem State.endAdapterOps_anchor (s : State) (sp : Nat) : (s.endAdapterOps sp).anchor = s.anchor := by simp [State.endAdapterOps]

/-! ### Training -/

@[simp] theorem State.trainStart_anchor (s : State) (c : Caller) (pkt : Packet) : (s.trainStart c pkt).anchor = s.anchor := by
  simp only [State.trainStart]
  (repeat' split) <;> simp

@[simp] theorem State.setTrain_anchor (s : State) (i : Nat) (j : TrainJob) : (s.setTrain i j).anchor = s.anchor := (rfl)

@[simp] theorem State.writeCkpt_anchor (s : State) (j : TrainJob) : (s.writeCkpt j).anchor = s.anchor := by simp [State.writeCkpt]

@[simp] theorem State.trainEnd_anchor (s : State) (i : Nat) (j : TrainJob) (status : Nat) : (s.trainEnd i j status).anchor = s.anchor := by
  simp [State.trainEnd]

theorem State.allocTrained_anchor {s t : State} {sp : Nat} {w : List (Nat × F32)} {fs : List ((Nat × Nat × Nat) × Nat)} {l : List Nat}
    (h : s.allocTrained sp w fs = some (l, t)) : t.anchor = s.anchor := by
  induction fs generalizing s l with
  | nil => cases h; rfl
  | cons f r ih =>
    obtain ⟨a, _, h⟩ := Option.bind_eq_some_iff.mp h
    obtain ⟨⟨n, u⟩, hu, h⟩ := Option.bind_eq_some_iff.mp h
    obtain ⟨⟨l', v⟩, hv, h⟩ := Option.map_eq_some_iff.mp h
    cases h
    exact (ih hv).trans ((by simp : State.anchor (u.dramWrite _ _) = u.anchor).trans (State.allocObj_anchor hu))

@[simp] theorem State.install_anchor (s : State) (i : Nat) (j : TrainJob) (model gen port : Nat) :
    (s.install i j model gen port).2.anchor = s.anchor := by
  simp only [State.install]
  split <;> try rfl
  refine anchor_of_ite_snd rfl (anchor_of_ite_snd rfl (anchor_of_ite_snd rfl ?_))
  split
  · rfl
  · rename_i h; simp [State.allocTrained_anchor h]

@[simp] theorem State.trainTake_anchor (s : State) (i : Nat) (j : TrainJob) (heads : List HeadBack) (g : List Grad) :
    (s.trainTake i j heads g).anchor = s.anchor := by
  simp only [State.trainTake]
  (repeat' split) <;> simp

@[simp] theorem State.trainStep_anchor (s : State) (i : Nat) (out : TrainOutcome) : (s.trainStep i out).anchor = s.anchor := by
  simp only [State.trainStep]
  (repeat' split) <;> simp

/-! ### Boundary -/

@[simp] theorem State.freeSlot_anchor (s : State) (i : Nat) : (s.freeSlot i).anchor = s.anchor := by simp [State.freeSlot]

@[simp] theorem State.endAndFree_anchor (s : State) (i : Nat) : (s.endAndFree i).anchor = s.anchor := by simp [State.endAndFree]

@[simp] theorem State.endRequests_anchor (s : State) (sp : Nat) : (s.endRequests sp).anchor = s.anchor := by simp [State.endRequests]

@[simp] theorem State.forceEnd_anchor (s : State) (i reason status : Nat) : (s.forceEnd i reason status).anchor = s.anchor := by
  simp [State.forceEnd]

@[simp] theorem State.reportT3_anchor (s : State) (sp i : Nat) : (s.reportT3 sp i).anchor = s.anchor := by simp [State.reportT3]

@[simp] theorem State.forcedEnds_anchor (s : State) (sp : Nat) : (s.forcedEnds sp).anchor = s.anchor := by simp [State.forcedEnds]

@[simp] theorem State.sweepObjs_anchor (s : State) : (s.sweepObjs).anchor = s.anchor := by simp [State.sweepObjs]

@[simp] theorem State.retireOld_anchor (s : State) (sp : Nat) : (s.retireOld sp).anchor = s.anchor := by
  simp only [State.retireOld]
  (repeat' split) <;> simp

@[simp] theorem State.unloadDone_anchor (s : State) (sp : Nat) : (s.unloadDone sp).anchor = s.anchor := by
  simp only [State.unloadDone]
  (repeat' split) <;> simp

@[simp] theorem State.chooseSpare_anchor (s : State) (env : BoundaryEnv) (c n : Nat) : (s.chooseSpare env c n).2.anchor = s.anchor := by
  induction n generalizing s with
  | zero => rfl
  | succ n ih =>
    unfold State.chooseSpare
    (repeat' split) <;> simp [ih]

@[simp] theorem State.moveSlice_anchor (s : State) (o col : Nat) : (s.moveSlice o col).anchor = s.anchor := by
  unfold State.moveSlice
  refine anchor_of_ite ?_ (anchor_of_ite ?_ rfl) <;>
  · generalize s.t1Find _ _ = place
    cases place <;> simp

@[simp] theorem State.unrelay_anchor (s : State) (i o : Nat) : (s.unrelay i o).anchor = s.anchor := by simp [State.unrelay]

@[simp] theorem State.restartRelay_anchor (s : State) (sp role : Nat) : (s.restartRelay sp role).anchor = s.anchor := by
  unfold State.restartRelay
  (repeat' split) <;> simp

@[simp] theorem State.replaceCell_anchor (s : State) (sp c d : Nat) (env : BoundaryEnv) : (s.replaceCell sp c d env).anchor = s.anchor := by
  have hinstall : ∀ (l : List ImageHdr) (r : Nat) (t : State), (forEach l (fun h t => t.reinstall sp r h) t).anchor = t.anchor :=
    fun l r t => forEach_anchor (fun h u => by simp) l t
  simp only [State.replaceCell]
  split <;>
  · simp only [State.restartRelay_anchor, hinstall, State.newEpoch_anchor, State.takeOver_anchor, State.showRoles_anchor,
      State.placeCell_anchor]
    exact (State.anchor_with_commits _ _).trans (by simp)

@[simp] theorem State.loseSpan_anchor (s : State) (sp c : Nat) : (s.loseSpan sp c).anchor = s.anchor := by
  simp only [State.loseSpan, State.unloadDone_anchor]
  refine (forEach_anchor (fun i t => by simp) _ _).trans ?_
  simp only [State.anchor_ite, State.forceRelease_anchor, ite_self]
  refine (forEach_anchor (fun e t => by split <;> simp) _ _).trans ?_
  simp only [State.noticeDev_anchor]
  exact (State.anchor_with_commits _ _).trans (by simp)

@[simp] theorem State.remapCell_anchor (s : State) (sp : Nat) (env : BoundaryEnv) (c n : Nat) :
    (s.remapCell sp env c n).anchor = s.anchor := by
  simp only [State.remapCell]
  split
  · simp
  · split <;> simp

@[simp] theorem State.withdrawAll_anchor (s : State) (sp : Nat) : (s.withdrawAll sp).anchor = s.anchor := by simp [State.withdrawAll]

@[simp] theorem State.notePause_anchor (s : State) (us : Nat) : (s.notePause us).anchor = s.anchor := by simp [State.notePause]

@[simp] theorem State.remap_anchor (s : State) (sp : Nat) (env : BoundaryEnv) (l : List (Nat × Nat)) : (s.remap sp env l).anchor =
    s.anchor := by simp [State.remap]

@[simp] theorem State.retokenize_anchor (s : State) (sp : Nat) : (s.retokenize sp).anchor = s.anchor := (rfl)

@[simp] theorem State.switchModel_anchor (s : State) (sp i : Nat) (old new : ModelCopy) : (s.switchModel sp i old new).anchor =
    s.anchor := by simp [State.switchModel]

@[simp] theorem State.switchPointer_anchor (s : State) (sp : Nat) : (s.switchPointer sp).anchor = s.anchor := by
  simp only [State.switchPointer]
  split <;> simp

theorem State.allocT3_anchor {s t : State} {sp p n o : Nat} (h : s.allocT3 sp p n = some (o, t)) : t.anchor = s.anchor := by
  obtain ⟨a, _, ha⟩ := Option.bind_eq_some_iff.mp h
  exact State.allocObj_anchor ha

@[simp] theorem State.putPage_anchor (s : State) (i : Nat) (c : ModelCopy) (p : Nat × Pte × List Byte) :
    (s.putPage i c p).anchor = s.anchor := by
  simp only [State.putPage]
  split
  · simp
  · split
    · rfl
    · rename_i h; simp [State.takeFrame_anchor h]

@[simp] theorem State.rePage_anchor (s : State) (i : Nat) (c : ModelCopy) (page : Nat) : (s.rePage i c page).anchor = s.anchor := by
  simp [State.rePage]

@[simp] theorem State.demoteParked_anchor (s : State) (sp : Nat) (c : ModelCopy) (budget : Nat) (l : List Nat) :
    (s.demoteParked sp c budget l).anchor = s.anchor := by
  induction l generalizing s with
  | nil => rfl
  | cons i r ih =>
    simp only [State.demoteParked]
    split
    · rfl
    · split
      · exact ih s
      · split
        · exact ih s
        · rename_i h
          split at h
          · exact (ih _).trans ((by simp : State.anchor (State.rePage _ _ _ _) = _).trans (State.allocT3_anchor h))
          · cases h

theorem State.kvRoom_anchor {s t : State} {sp p budget : Nat} {c : ModelCopy} {b : Bool} (h : s.kvRoom sp p c budget = some (b, t)) :
    t.anchor = s.anchor := by
  simp only [State.kvRoom] at h
  (repeat' split at h) <;> cases h <;> simp

@[simp] theorem State.drawSeed_anchor (s : State) (seed : Nat) : (s.drawSeed seed).2.anchor = s.anchor := by
  unfold State.drawSeed
  split <;> rfl

theorem State.assignSlot_anchor {s t : State} {sp i : Nat} {c : ModelCopy} {r : Req} {t3 : Bool} {addr : Nat}
    (h : s.assignSlot sp i c r t3 addr = some t) : t.anchor = s.anchor := by
  obtain ⟨⟨tab, u⟩, hu, h⟩ := Option.bind_eq_some_iff.mp h
  obtain ⟨⟨page, v⟩, hv, rfl⟩ := Option.map_eq_some_iff.mp h
  have hpage : v.anchor = u.anchor := by
    split at hv
    · obtain ⟨⟨o, w⟩, hw, he⟩ := Option.map_eq_some_iff.mp hv
      cases he
      exact State.allocT3_anchor hw
    · cases hv; rfl
  have hslot : ∀ w : State, (if w.slotFresh < 4096 then { w with slotFresh := w.slotFresh + 1 }
      else { w with slotFreed := w.slotFreed.tail } : State).anchor = w.anchor := fun w => by split <;> rfl
  refine Eq.trans ?_ (hpage.trans (State.allocObj_anchor hu))
  simp only [State.final_anchor, State.modSlot_anchor]
  exact (hslot _).trans (v.drawSeed_anchor _)

@[simp] theorem State.stillWaits_anchor (s : State) (r : Req) (why : Nat) : (s.stillWaits r why).anchor = s.anchor := (rfl)

@[simp] theorem State.admitReq_anchor (s : State) (sp : Nat) (c : ModelCopy) (r : Req) : (s.admitReq sp c r).2.anchor = s.anchor := by
  unfold State.admitReq
  refine anchor_of_ite_snd rfl (anchor_of_ite_snd (by simp) ?_)
  simp only []
  split
  · rename_i hroom _
    refine anchor_of_ite_snd (by simp) ?_
    split
    · simp
    · refine anchor_of_ite_snd (by simp) ?_
      split
      · rename_i h
        exact (State.assignSlot_anchor h).trans (State.kvRoom_anchor hroom)
      · simp
  · simp

@[simp] theorem State.beginTurn_anchor (s : State) (i : Nat) (t : Turn) : (s.beginTurn i t).anchor = s.anchor := (rfl)

@[simp] theorem State.promote_anchor (s : State) (i : Nat) (c : ModelCopy) : (s.promote i c).anchor = s.anchor := by simp [State.promote]

@[simp] theorem State.admitTurn_anchor (s : State) (sp i : Nat) : (s.admitTurn sp i).2.anchor = s.anchor := by
  simp only [State.admitTurn]
  (repeat' split) <;> simp

@[simp] theorem State.admitAll_anchor (s : State) (sp : Nat) (c : ModelCopy) (l : List (Nat × Sum Req Nat)) :
    (s.admitAll sp c l).anchor = s.anchor := by
  induction l generalizing s with
  | nil => rfl
  | cons x rest ih =>
    unfold State.admitAll
    cases x.2 <;> simp [ih]

@[simp] theorem State.admission_anchor (s : State) (sp : Nat) : (s.admission sp).anchor = s.anchor := by
  simp only [State.admission]
  split <;> simp

@[simp] theorem State.draftSteps_anchor (s : State) (sp : Nat) (rows : List RowEntry) : (s.draftSteps sp rows).anchor = s.anchor := by
  unfold State.draftSteps
  split <;> simp

@[simp] theorem State.earlyMoves_anchor (s : State) (sp : Nat) (c : ModelCopy) : (s.earlyMoves sp c).anchor = s.anchor := by
  refine (State.earlyPieces_anchor _ _).trans (forEach_anchor (fun t u => ?_) _ _)
  split <;> simp

@[simp] theorem State.startStep_anchor (s : State) (sp : Nat) (c : ModelCopy) (rows : List RowEntry) (chunk : Nat) (old : Bool) :
    (s.startStep sp c rows chunk old).anchor = s.anchor := by simp [State.startStep]

@[simp] theorem State.compose_anchor (s : State) (sp : Nat) (env : BoundaryEnv) : (s.compose sp env).anchor = s.anchor := by
  simp only [State.compose]
  (repeat' split) <;> simp

@[simp] theorem State.repeatBatch_anchor (s : State) (sp : Nat) (b : Batch) : (s.repeatBatch sp b).anchor = s.anchor := by
  simp only [State.repeatBatch]
  generalize hu : forEach (b.rows.map (·.slot)).dedup _ s = u
  have hcut : u.anchor = s.anchor := by
    rw [← hu]
    exact forEach_anchor (fun i t => by split <;> simp) _ _
  split
  · split <;> simp [hcut]
  · exact hcut

@[simp] theorem State.noteMasks_anchor (s : State) (sp : Nat) : (s.noteMasks sp).anchor = s.anchor := by simp [State.noteMasks]

@[simp] theorem State.stepBoundary_anchor (s : State) (sp : Nat) (env : BoundaryEnv) : (s.stepBoundary sp env).anchor = s.anchor := by
  simp only [State.stepBoundary]
  (repeat' split) <;> simp

/-! ### Keystone -/

@[simp] theorem State.keyViol_anchor (s : State) (w off : Nat) : (s.keyViol w off).anchor = s.anchor := by simp [State.keyViol]

@[simp] theorem State.loadFuses_anchor (s : State) : (s.loadFuses).anchor = s.anchor := by simp [State.loadFuses]

@[simp] theorem State.storeRecord_anchor (s : State) (l : List Byte) : (s.storeRecord l).anchor = s.anchor := by simp [State.storeRecord]

@[simp] theorem State.loadRecord_anchor (s : State) (lost : List Nat) : (s.loadRecord lost).anchor = s.anchor := by simp [State.loadRecord]

@[simp] theorem State.mctpAnswer_anchor (s : State) (l : List Byte) : (s.mctpAnswer l).anchor = s.anchor := (rfl)

@[simp] theorem State.setEid_anchor (s : State) (op : Nat) (eid : Byte) : (s.setEid op eid).anchor = s.anchor := by simp [State.setEid]

@[simp] theorem State.jtag_anchor (s : State) (ir : Nat) (tdo bsr : List Bool) : (s.jtag ir tdo bsr).anchor = s.anchor := (rfl)

/-! ### Power -/

@[simp] theorem State.setCredit_anchor (s : State) (c : Nat) : (s.setCredit c).anchor = s.anchor := (rfl)

@[simp] theorem State.changeClock_anchor (s : State) (c : Nat) : (s.changeClock c).anchor = s.anchor := by simp [State.changeClock]

@[simp] theorem State.leaveGust_anchor (s : State) : (s.leaveGust).anchor = s.anchor := by simp [State.leaveGust]

@[simp] theorem State.setClock_anchor (s : State) (aim : Nat) (miss : Bool) : (s.setClock aim miss).anchor = s.anchor := by
  simp [State.setClock]

@[simp] theorem State.measure_anchor (s : State) (main aux now_ tenMs avg aim : Nat) : (s.measure main aux now_ tenMs avg aim).anchor =
    s.anchor := by simp [State.measure]

@[simp] theorem State.powerSet_anchor (s : State) (c : Caller) (pkt : Packet) : (s.powerSet c pkt).anchor = s.anchor := by
  simp [State.powerSet]

@[simp] theorem State.sense_anchor (s : State) (i : Nat) (t : ℤ) : (s.sense i t).anchor = s.anchor := by
  simp only [State.sense]
  split <;> simp

@[simp] theorem State.setHottest_anchor (s : State) : (s.setHottest).anchor = s.anchor := by
  simp only [State.setHottest]
  split <;> simp

@[simp] theorem State.stepDown_anchor (s : State) : (s.stepDown).anchor = s.anchor := by simp [State.stepDown]

@[simp] theorem State.throttleEntry_anchor (s : State) : (s.throttleEntry).anchor = s.anchor := by simp [State.throttleEntry]

@[simp] theorem State.thermalTrip_anchor (s : State) : (s.thermalTrip).anchor = s.anchor := by simp [State.thermalTrip]

@[simp] theorem State.sensors_anchor (s : State) (l : List ℤ) : (s.sensors l).anchor = s.anchor := by simp [State.sensors]

@[simp] theorem State.throttleStep_anchor (s : State) : (s.throttleStep).anchor = s.anchor := by simp [State.throttleStep]

@[simp] theorem State.sagWarn_anchor (s : State) (mv : Nat) : (s.sagWarn mv).anchor = s.anchor := by simp [State.sagWarn]

@[simp] theorem State.endHold_anchor (s : State) : (s.endHold).anchor = s.anchor := by simp [State.endHold]

@[simp] theorem State.sagClear_anchor (s : State) (mv : Nat) : (s.sagClear mv).anchor = s.anchor := by simp [State.sagClear]

@[simp] theorem State.enterLull_anchor (s : State) : (s.enterLull).anchor = s.anchor := by simp [State.enterLull]

@[simp] theorem State.wakeUp_anchor (s : State) : (s.wakeUp).anchor = s.anchor := by simp [State.wakeUp]

@[simp] theorem State.feed_anchor (s : State) (w v : Nat) : (s.feed w v).anchor = s.anchor := by simp [State.feed]

@[simp] theorem State.wdogExpire_anchor (s : State) : s.wdogExpire.anchor = s.anchor := by
  unfold State.wdogExpire
  (repeat' split) <;> simp

/-! ### Operations -/

@[simp] theorem State.withOp_anchor {s : State} {f : Nat → Op → State} (h : ∀ i o, (f i o).anchor = s.anchor) (c : Caller) (pkt : Packet)
    (query : Bool) : (s.withOp c pkt query f).anchor = s.anchor := by
  simp [State.withOp, h]

@[simp] theorem State.opStatus_anchor (s : State) (c : Caller) (pkt : Packet) : (s.opStatus c pkt).anchor = s.anchor := by
  simp [State.opStatus]

@[simp] theorem State.opSuspend_anchor (s : State) (c : Caller) (pkt : Packet) : (s.opSuspend c pkt).anchor = s.anchor := by
  simp [State.opSuspend]

@[simp] theorem State.opResume_anchor (s : State) (c : Caller) (pkt : Packet) : (s.opResume c pkt).anchor = s.anchor := by
  refine State.withOp_anchor (fun i o => ?_) c pkt false
  (repeat' split) <;> simp

@[simp] theorem State.opAbort_anchor (s : State) (c : Caller) (pkt : Packet) : (s.opAbort c pkt).anchor = s.anchor := by
  simp only [State.opAbort]
  split
  · simp
  · refine State.withOp_anchor (fun i o => ?_) c pkt false
    (repeat' split) <;> simp

/-! ### Boot -/

@[simp] theorem State.afterReset_anchor (s : State) (cold : Bool) : (s.afterReset cold).anchor = s.anchor := (rfl)

@[simp] theorem State.keepFences_anchor (s old : State) : (s.keepFences old).anchor = s.anchor := by simp [State.keepFences]

@[simp] theorem State.cutAll_anchor (s : State) : (s.cutAll).anchor = s.anchor := by simp [State.cutAll]

@[simp] theorem State.moduleReset_anchor (s : State) (c : ResetCause) : (s.moduleReset c).anchor = s.anchor := by
  simp only [State.moduleReset]
  split <;> simp

@[simp] theorem State.needsErase_anchor (s : State) (d row : Nat) : (s.needsErase d row).anchor = s.anchor := (rfl)

@[simp] theorem State.checkRow_anchor (s : State) (d row : Nat) (intact : Bool) : (s.checkRow d row intact).anchor = s.anchor := by
  unfold State.checkRow
  split <;> simp

@[simp] theorem State.restartChecks_anchor (s : State) (env : BootEnv) : (s.restartChecks env).anchor = s.anchor := by
  simp [State.restartChecks]

@[simp] theorem State.bootKeystone_anchor (s : State) (env : BootEnv) : (s.bootKeystone env).anchor = s.anchor := by
  simp [State.bootKeystone]

@[simp] theorem State.showFw_anchor (s : State) (env : BootEnv) : (s.showFw env).anchor = s.anchor := by simp [State.showFw]

@[simp] theorem State.startFw_anchor (s : State) (env : BootEnv) (img : Nat) : (s.startFw env img).anchor = s.anchor := by
  simp [State.startFw]

@[simp] theorem State.enterSafe_anchor (s : State) (cause : Nat) : (s.enterSafe cause).anchor = s.anchor := by simp [State.enterSafe]

@[simp] theorem State.recovery_anchor (s : State) (cause : Nat) : (s.recovery cause).anchor = s.anchor := by simp [State.recovery]

@[simp] theorem State.bootLinks_anchor (s : State) (env : BootEnv) : (s.bootLinks env).anchor = s.anchor :=
  (State.anchor_with_spareLanes _ _).trans (by simp)

@[simp] theorem State.bootDies_anchor (s : State) (env : BootEnv) (levels : List (Nat × Nat)) : (s.bootDies env levels).anchor =
    s.anchor := by simp [State.bootDies]

@[simp] theorem State.mapSpare_anchor (s : State) (env : BootEnv) (st : Nat) : (s.mapSpare env st).anchor = s.anchor := by
  unfold State.mapSpare
  split <;> simp

@[simp] theorem State.bootMemory_anchor (s : State) (env : BootEnv) : (s.bootMemory env).anchor = s.anchor := by simp [State.bootMemory]

@[simp] theorem State.bootCells_anchor (s : State) (env : BootEnv) : (s.bootCells env).anchor = s.anchor := by simp [State.bootCells]

@[simp] theorem State.bootEnd_anchor (s : State) (env : BootEnv) : (s.bootEnd env).anchor = s.anchor := by
  simp only [State.bootEnd, State.setWclat_anchor]
  exact (State.anchor_with_admRng _ _).trans (by simp)

@[simp] theorem State.retrain_anchor (s : State) (link : Nat) : (s.retrain link).anchor = s.anchor := by simp [State.retrain]

@[simp] theorem State.retrained_anchor (s : State) (link : Nat) (repaired : Bool) (left : Nat) :
    (s.retrained link repaired left).anchor = s.anchor := by
  unfold State.retrained
  refine anchor_of_ite rfl (anchor_of_ite ((State.noticeDev_anchor _ _ _ _).trans rfl) ?_)
  exact (forEach_anchor (fun c t => by simp) _ _).trans rfl

/-! ### Cadence -/

@[simp] theorem State.cadNotice_anchor (s : State) (code detail : Nat) : (s.cadNotice code detail).anchor = s.anchor := by
  simp [State.cadNotice]

@[simp] theorem State.acquire_anchor (s : State) (i : Nat) : (s.acquire i).anchor = s.anchor := (rfl)

@[simp] theorem State.applySet_anchor (s : State) : (s.applySet).anchor = s.anchor := by
  unfold State.applySet
  split <;> simp

@[simp] theorem State.adoptPeriod_anchor (s : State) (ns : Nat) : (s.adoptPeriod ns).anchor = s.anchor := by simp [State.adoptPeriod]

@[simp] theorem State.countAdopt_anchor (s : State) : (s.countAdopt).anchor = s.anchor := by
  unfold State.countAdopt
  split <;> simp

@[simp] theorem State.drift_anchor (s : State) (d : Nat) : (s.drift d).anchor = s.anchor := by simp [State.drift]

@[simp] theorem State.boundaryAt_anchor (s : State) (t d : Nat) : (s.boundaryAt t d).anchor = s.anchor := by simp [State.boundaryAt]

@[simp] theorem State.noteEdge_anchor (s : State) (src : Nat) (mean : Bool) : (s.noteEdge src mean).anchor = s.anchor := by
  simp [State.noteEdge]

@[simp] theorem State.steer_anchor (s : State) : (s.steer).anchor = s.anchor := (rfl)

@[simp] theorem State.lock_anchor (s : State) (src d : Nat) (l : List Nat) : (s.lock src d l).anchor = s.anchor := by simp [State.lock]

@[simp] theorem State.acceptEdge_anchor (s : State) (src d : Nat) : (s.acceptEdge src d).anchor = s.anchor := by
  simp only [State.acceptEdge]
  split <;> simp

@[simp] theorem State.cadEdge_anchor (s : State) (src d : Nat) : (s.cadEdge src d).anchor = s.anchor := by
  simp only [State.cadEdge]
  (repeat' split) <;> simp

@[simp] theorem State.flywheel_anchor (s : State) (d : Nat) : (s.flywheel d).anchor = s.anchor := by simp [State.flywheel]

@[simp] theorem State.cadenceSet_anchor (s : State) (c : Caller) (pkt : Packet) : (s.cadenceSet c pkt).anchor = s.anchor := by
  simp [State.cadenceSet]

/-! ### Queues -/

@[simp] theorem State.queueEcc_anchor (s : State) (p k : Nat) (a3 : EccOutcome) : (s.queueEcc p k a3).anchor = s.anchor := by
  unfold State.queueEcc
  split <;> simp

@[simp] theorem State.headFill_anchor (s : State) (p k : Nat) (ecc : EccOutcome) : (s.headFill p k ecc).anchor = s.anchor := by
  unfold State.headFill
  (repeat' split) <;> simp

@[simp] theorem State.consumeWrite_anchor (s : State) (p k seq : Nat) : (s.consumeWrite p k seq).anchor = s.anchor := by
  simp [State.consumeWrite]

@[simp] theorem State.flushWrite_anchor (s : State) (p v : Nat) : (s.flushWrite p v).anchor = s.anchor := by simp [State.flushWrite]

/-! ### Ports -/

@[simp] theorem State.windowByte_anchor (s : State) (p off : Nat) (b : Byte) : (s.windowByte p off b).anchor = s.anchor := by
  simp [State.windowByte]

@[simp] theorem State.windowWrite_anchor (s : State) (p off : Nat) (l : List Byte) : (s.windowWrite p off l).anchor = s.anchor := by
  simp [State.windowWrite]

@[simp] theorem State.refusePacket_anchor (s : State) (p : Nat) (pkt : Packet) (status : Nat) : (s.refusePacket p pkt status).anchor =
    s.anchor := by simp [State.refusePacket]

@[simp] theorem State.takePacket_anchor (s : State) (p : Nat) (pkt : Packet) : (s.takePacket p pkt).anchor = s.anchor := by
  simp [State.takePacket]

@[simp] theorem State.setHead_anchor (s : State) (p pos : Nat) : (s.setHead p pos).anchor = s.anchor := (rfl)

@[simp] theorem State.takeAll_anchor (s : State) (p n : Nat) : (s.takeAll p n).anchor = s.anchor := by
  induction n generalizing s with
  | zero => rfl
  | succ n ih =>
    unfold State.takeAll
    simp [ih]

@[simp] theorem State.post_anchor (s : State) (p tail : Nat) : (s.post p tail).anchor = s.anchor := by simp [State.post]

@[simp] theorem State.stopQueues_anchor (s : State) (p : Nat) : (s.stopQueues p).anchor = s.anchor := (rfl)

@[simp] theorem State.dropObjects_anchor (s : State) (p : Nat) : (s.dropObjects p).anchor = s.anchor := by simp [State.dropObjects]

@[simp] theorem State.dropRequests_anchor (s : State) (p : Nat) : (s.dropRequests p).anchor = s.anchor := by
  simp only [State.dropRequests, State.anchor_ite, State.forceRelease_anchor, ite_self]
  refine Eq.trans (b := State.anchor (forEach _ _ _)) rfl ?_
  simp

@[simp] theorem State.dropShared_anchor (s : State) (p : Nat) : (s.dropShared p).anchor = s.anchor := by simp [State.dropShared]

@[simp] theorem State.dropMail_anchor (s : State) (p : Nat) : (s.dropMail p).anchor = s.anchor := by simp [State.dropMail]

@[simp] theorem State.orphanOps_anchor (s : State) (p : Nat) : (s.orphanOps p).anchor = s.anchor := by simp [State.orphanOps]

@[simp] theorem State.portGone_anchor (s : State) (p : Nat) : (s.portGone p).anchor = s.anchor := by simp [State.portGone]

@[simp] theorem State.portDown_anchor (s : State) (p : Nat) (cause : DownCause) : (s.portDown p cause).anchor = s.anchor := by
  simp [State.portDown]

@[simp] theorem State.portReset_anchor (s : State) (p : Nat) : (s.portReset p).anchor = s.anchor := (rfl)

@[simp] theorem State.bringUp_anchor (s : State) (p speed width : Nat) : (s.bringUp p speed width).anchor = s.anchor := by
  simp [State.bringUp]

@[simp] theorem State.linkUp_anchor (s : State) (p speed width : Nat) : (s.linkUp p speed width).anchor = s.anchor := by simp [State.linkUp]

@[simp] theorem State.enterStill_anchor (s : State) : (s.enterStill).anchor = s.anchor := by simp [State.enterStill]

@[simp] theorem State.stillIf_anchor (s : State) : (s.stillIf).anchor = s.anchor := by simp [State.stillIf]

@[simp] theorem State.powerState_anchor (s : State) (p : Nat) (d3 : Bool) : (s.powerState p d3).anchor = s.anchor := by
  simp [State.powerState]

/-! ### Serve -/

@[simp] theorem State.popCommand_anchor (s : State) (p : Nat) (e : CmdEntry) : (s.popCommand p e).anchor = s.anchor := by
  simp [State.popCommand]

/-! ### Registers -/

@[simp] theorem State.msixWrite_anchor (s : State) (p off size v : Nat) : (s.msixWrite p off size v).anchor = s.anchor := by
  simp [State.msixWrite]

@[simp] theorem State.stageByte_anchor (s : State) (w m off : Nat) (b : Byte) : (s.stageByte w m off b).anchor = s.anchor := by
  simp [State.stageByte]

@[simp] theorem State.bar2Write_anchor (s : State) (w off : Nat) (l : List Byte) : (s.bar2Write w off l).anchor = s.anchor := by
  simp [State.bar2Write]

@[simp] theorem State.plainWrite_anchor (s : State) (h : Hit) (v be : Nat) : (s.plainWrite h v be).anchor = s.anchor := (rfl)

@[simp] theorem State.keyWrite_anchor (s : State) (w off v be : Nat) : (s.keyWrite w off v be).anchor = s.anchor := by
  unfold State.keyWrite
  split <;> simp

@[simp] theorem State.cellWrite_anchor (s : State) (w : Nat) (h : Hit) (v be : Nat) : (s.cellWrite w h v be).anchor = s.anchor := by
  unfold State.cellWrite
  split <;> simp

@[simp] theorem State.insideWrite_anchor (s : State) (w : Nat) (h : Hit) (v be : Nat) : (s.insideWrite w h v be).anchor = s.anchor := by
  unfold State.insideWrite
  (repeat' split) <;> simp

@[simp] theorem State.ownWrite_anchor (s : State) (p : Nat) (h : Hit) (v be : Nat) : (s.ownWrite p h v be).anchor = s.anchor := by
  unfold State.ownWrite
  split <;> simp

@[simp] theorem State.hostWrite_anchor (s : State) (p off size v : Nat) : (s.hostWrite p off size v).anchor = s.anchor := by
  unfold State.hostWrite
  (repeat' split) <;> simp

@[simp] theorem State.regWrite_anchor (s : State) (w off size v : Nat) : (s.regWrite w off size v).anchor = s.anchor := by
  unfold State.regWrite
  (repeat' split) <;> simp

@[simp] theorem State.readClears_anchor (s : State) (h : Hit) (be : Nat) : (s.readClears h be).anchor = s.anchor := by
  simp [State.readClears]

@[simp] theorem State.readEffect_anchor (s : State) (w : Nat) (h : Hit) (off size : Nat) :
    (s.readEffect w h off size).2.anchor = s.anchor := by
  simp only [State.readEffect]
  (repeat' split) <;> simp

@[simp] theorem State.hostRead_anchor (s : State) (p off size : Nat) : (s.hostRead p off size).2.anchor = s.anchor := by
  simp only [State.hostRead]
  (repeat' split) <;> simp

@[simp] theorem State.regRead_anchor (s : State) (w off size : Nat) : (s.regRead w off size).anchor = s.anchor := by
  simp only [State.regRead]
  (repeat' split) <;> simp

end Sys2Proof.Machine
end

section
/-!
DEFINITION. What each command may do to the anchored part: keep it, burn fuses (R467), sample the straps (R378, R475, R518) or raise the
minimum svn (R482). O3 to O7 read this off; with them O1 and O2, the step.
-/
open Sys2Proof
namespace Sys2Proof.Machine

/-! ### Fuses that burn (R467) -/

/-- What a burn may do to the anchored part: burned words keep their value, revoked slots stay revoked, and everything but the fuses
stands. -/
structure Anchor.Burns (a b : Anchor) : Prop where
  pending : b.pending = a.pending
  straps : b.straps = a.straps
  smbA : b.smbA = a.smbA
  minSvn : b.minSvn = a.minSvn
  fuses : ∀ k, SMap.get 0 a.fuses k ≠ 0 → SMap.get 0 b.fuses k = SMap.get 0 a.fuses k
  revoked : ∀ i, a.revoked.testBit i = true → b.revoked.testBit i = true

theorem Anchor.Burns.refl (a : Anchor) : a.Burns a := ⟨rfl, rfl, rfl, rfl, fun _ _ => rfl, fun _ h => h⟩

theorem Anchor.Burns.of_eq {a b : Anchor} (h : b = a) : a.Burns b := h ▸ .refl a

theorem Anchor.Burns.trans {a b c : Anchor} (h : a.Burns b) (h' : b.Burns c) : a.Burns c where
  pending := h'.pending.trans h.pending
  straps := h'.straps.trans h.straps
  smbA := h'.smbA.trans h.smbA
  minSvn := h'.minSvn.trans h.minSvn
  fuses := fun k hk => (h'.fuses k (h.fuses k hk ▸ hk)).trans (h.fuses k hk)
  revoked := fun i hi => h'.revoked i (h.revoked i hi)

theorem Anchor.Burns.after {a b c : Anchor} (h : b = a) (h' : b.Burns c) : a.Burns c := h ▸ h'

theorem forEach_burns {β : Type} {f : β → State → State} (h : ∀ b (t : State), t.anchor.Burns (f b t).anchor) (l : List β) (s : State) :
    s.anchor.Burns (forEach l f s).anchor := by
  induction l generalizing s with
  | nil => exact .refl _
  | cons b r ih => exact (h b s).trans (ih (f b s))

/-- A word burns only while it reads 0: a write to a burned word is a violation, which changes no fuse. -/
theorem State.burnWord_burns (s : State) (i w v : Nat) : s.anchor.Burns (s.burnWord i w v).anchor := by
  unfold State.burnWord
  split
  · exact .of_eq (by simp)
  · rename_i hblank
    split
    · exact .refl _
    · refine ⟨rfl, rfl, rfl, rfl, fun k hk => ?_, fun _ h => h⟩
      have hother : k ≠ i * 8 + w := fun hkw => hblank (.inr (hkw ▸ hk))
      exact SMap.get_put_other _ _ _ _ hother

theorem State.burnRevoke_burns (s : State) (i : Nat) : s.anchor.Burns (s.burnRevoke i).anchor := by
  unfold State.burnRevoke
  split
  · exact .of_eq (by simp)
  · refine ⟨rfl, rfl, rfl, rfl, fun _ _ => rfl, fun j hj => ?_⟩
    exact (Nat.testBit_or ..).trans (by simp [show s.key.revoked.testBit j = true from hj])

theorem State.burnRecord_burns (s : State) (l : List Byte) : s.anchor.Burns (s.burnRecord l).anchor :=
  (forEach_burns (fun i t => forEach_burns (fun w u => u.burnWord_burns i w _) _ t) _ s).trans
    (forEach_burns (fun i t => t.burnRevoke_burns i) _ _)

theorem State.takeRecord_burns (s : State) (l : List Byte) (smbus : Bool) : s.anchor.Burns (s.takeRecord l smbus).2.anchor := by
  unfold State.takeRecord
  split
  · exact (Anchor.Burns.of_eq (s.storeRecord_anchor l)).trans (State.burnRecord_burns _ l)
  · exact .of_eq (by simp)

theorem State.recordFragment_burns (s : State) (l : List Byte) (last : Bool) : s.anchor.Burns (s.recordFragment l last).anchor := by
  cases last
  · exact .of_eq (by simp [State.recordFragment])
  · have hfrags : (s.modMgmt fun m => { m with frags := [] }).anchor = s.anchor := by simp
    have htaken := State.takeRecord_burns (s.modMgmt fun m => { m with frags := [] }) (s.mgmt.frags ++ l) true
    exact .after hfrags (htaken.trans (.of_eq (State.mctpAnswer_anchor ..)))

theorem State.fwRecord_burns (s : State) (c : Caller) (src n : Nat) : s.anchor.Burns (s.fwRecord c src n).anchor := by
  unfold State.fwRecord State.startOp
  split
  · exact .of_eq (by simp)
  · split
    · exact .of_eq (by simp)
    · rename_i i _
      have hopen : (s.openOp i c 0xA0 noSpan n .none).anchor = s.anchor := by simp
      exact .after hopen ((State.takeRecord_burns _ _ false).trans (.of_eq (State.endOp_anchor ..)))

theorem State.fwUpdate_burns (s : State) (c : Caller) (pkt : Packet) : s.anchor.Burns (s.fwUpdate c pkt).anchor := by
  simp only [State.fwUpdate]
  split
  · exact .of_eq (by simp)
  · split
    · exact .of_eq (by simp)
    · split
      · exact State.fwRecord_burns ..
      · refine .of_eq ?_
        (repeat' split) <;> simp

/-- Of the rows of the opcode table only FW_UPDATE can burn a fuse. -/
theorem State.command_burns (op : Nat) (c : Caller) (pkt : Packet) (s : State) : s.anchor.Burns (State.command op c pkt s).anchor := by
  unfold State.command
  split
  case h_29 => exact s.fwUpdate_burns c pkt
  all_goals exact .of_eq (by simp)

theorem State.serveFor_burns {body : Caller → Packet → State → State} (h : ∀ c k (t : State), t.anchor.Burns (body c k t).anchor) (s : State)
    (c : Caller) (pkt : Packet) : s.anchor.Burns (s.serveFor c pkt body).anchor := by
  unfold State.serveFor
  split
  · exact .of_eq (by simp)
  · exact h c pkt s

theorem State.serve_burns {body : Caller → Packet → State → State} (h : ∀ c k (t : State), t.anchor.Burns (body c k t).anchor) (s : State)
    (opcode p : Nat) (pkt : Packet) : s.anchor.Burns (s.serve opcode p pkt body).anchor := by
  unfold State.serve
  split
  · exact State.serveFor_burns h ..
  · exact .refl _

theorem State.dispatch_burns (s : State) (ecc : EccOutcome) : s.anchor.Burns (s.dispatch ecc).anchor := by
  unfold State.dispatch
  split
  · exact .refl _
  · rename_i p e _
    split
    · exact .refl _
    · have htaken : ((s.popCommand p e).queueEcc p 0 ecc).anchor = s.anchor := by simp
      simp only []
      split
      · exact .of_eq (by simp)
      · exact .after htaken (State.serveFor_burns (State.command_burns _) ..)

/-! ### The boot raises the minimum svn (R482) -/

/-- The anchored part with the minimum svn `n`. -/
def Anchor.withSvn (a : Anchor) (n : Nat) : Anchor := { a with minSvn := n }

/-- Nothing but the minimum svn changes, and it does not fall. -/
def Anchor.Raises (a b : Anchor) : Prop := ∃ n, a.minSvn ≤ n ∧ b = a.withSvn n

theorem Anchor.Raises.of_eq {a b : Anchor} (h : b = a) : a.Raises b := ⟨a.minSvn, le_rfl, h⟩

theorem Anchor.Raises.after {a b c : Anchor} (h : b = a) (h' : b.Raises c) : a.Raises c := h ▸ h'

theorem State.modKey_svn_anchor (s : State) (n svn : Nat) :
    (s.modKey fun k => { k with attempts := n, minSvn := svn }).anchor = s.anchor.withSvn svn := (rfl)

theorem State.bootService_raises (s : State) (env : BootEnv) (img : Nat) : s.anchor.Raises (s.bootService env img).anchor := by
  refine ⟨max s.key.minSvn (s.fwFound env img).svn, le_max_left _ _, ?_⟩
  simp only [State.bootService, State.anchor_ite, State.noticeDev_anchor, ite_self, State.bootEnd_anchor, State.wr_anchor,
    State.modKey_svn_anchor]

/-- Stage 5 onwards: nothing but the last stage touches what is anchored. -/
theorem State.bootCells_raises (s : State) (env : BootEnv) (img : Nat) :
    s.anchor.Raises (if ((s.bootMemory env).bootCells env).activeCells = 0 then (((s.bootMemory env).bootCells env).enterSafe 7).bootEnd env
      else ((s.bootMemory env).bootCells env).bootService env img).anchor := by
  have hcells : ((s.bootMemory env).bootCells env).anchor = s.anchor := by simp
  revert hcells
  generalize (s.bootMemory env).bootCells env = t
  intro hcells
  split
  · exact .of_eq (by simp [hcells])
  · exact .after hcells (State.bootService_raises ..)

/-- The definition of `bootOn` is opened as a whole, and the cause as a function of its own: else the kernel evaluates the cause on the
state after stage 4. -/
theorem State.bootOn_raises (s : State) (env : BootEnv) (img : Nat) : s.anchor.Raises (s.bootOn env img).anchor := by
  obtain ⟨boot, hboot⟩ : ∃ f, f = State.bootOn := ⟨_, rfl⟩
  obtain ⟨cause, hcause⟩ : ∃ g, g = State.heldCause := ⟨_, rfl⟩
  rw [← hboot]
  delta State.bootOn at hboot
  rw [← hcause] at hboot
  subst hboot
  have hdies : ((s.bootLinks env).bootDies env (s.fwFound env img).levels).anchor = s.anchor := by simp
  refine .after hdies ?_
  simp only []
  split
  · exact .of_eq (by simp)
  · exact .of_eq (by simp)
  · split
    · exact .of_eq (by simp)
    · split
      · exact .of_eq (by simp)
      · exact State.bootCells_raises _ env img

theorem State.boot_raises (s : State) (env : BootEnv) : s.anchor.Raises (s.boot env).anchor := by
  simp only [State.boot]
  split
  · exact .of_eq rfl
  · have hshow : (((s.bootKeystone env).modPwr fun x => { x with wdogAt := some s.now }).showFw env).anchor =
        s.anchor := by simp
    refine .after hshow ?_
    split
    · exact .of_eq (by simp)
    · split
      · exact .after (by simp) (State.bootOn_raises ..)
      · exact .of_eq (by simp)

/-! ### A cold reset samples the straps (R378, R475, R518) -/

/-- The anchored part with the straps sampled. -/
def Anchor.sampled (a : Anchor) (lanes smbA : BitVec 2) : Anchor := { a with straps := lanes, smbA := smbA }

theorem State.coldReset_anchor (s : State) (lanes smbA : BitVec 2) : (s.coldReset lanes smbA).anchor = s.anchor.sampled lanes smbA := by
  have hcut : (forEach s.flash.ops (fun o t => t.markCut o) s).anchor = s.anchor := by simp
  rw [← hcut]
  simp only [State.coldReset, State.loadFuses_anchor]
  rfl

theorem State.powerUp_anchor (s : State) (lanes smbA : BitVec 2) (charged : Bool) :
    (s.powerUp lanes smbA charged).anchor = s.anchor.sampled lanes smbA := by
  simp [State.powerUp, State.coldReset_anchor]

/-! ### What a command may do to the anchored part -/

/-- How a command may move the anchored part: it keeps it, it burns fuses, it is a cold reset and samples the straps, or it is a boot and
raises the minimum svn. -/
inductive Anchor.Moves (c : Instr) (a : Anchor) : Anchor → Prop
  | keeps : Moves c a a
  | burns {b : Anchor} (h : a.Burns b) : Moves c a b
  | samples (lanes smbA : BitVec 2) (h : Instr.samplesStraps c = true) : Moves c a (a.sampled lanes smbA)
  | raises (env : BootEnv) (h : c = .boot env) (n : Nat) (hn : a.minSvn ≤ n) : Moves c a (a.withSvn n)

/-- The command answers a next state, and moves the anchored part in one of these ways. -/
def Out.Moves (c : Instr) (s : State) (o : Out) : Prop := ∃ t, o = .next t ∧ Anchor.Moves c s.anchor t.anchor

theorem Out.Moves.keep {c : Instr} {s t : State} (h : t.anchor = s.anchor) : Out.Moves c s (.next t) :=
  ⟨t, rfl, h ▸ .keeps⟩

theorem Out.Moves.burn {c : Instr} {s t : State} (h : s.anchor.Burns t.anchor) : Out.Moves c s (.next t) := ⟨t, rfl, .burns h⟩

theorem Out.Moves.ite {c : Instr} {s : State} {p : Prop} [Decidable p] {a b : Out} (ha : Out.Moves c s a) (hb : Out.Moves c s b) :
    Out.Moves c s (if p then a else b) := by
  split <;> assumption

/-! ### The commands that look before they act -/

theorem execMbxHoldExpiry_moves (m : MbxId) (s : State) : Out.Moves (.mbxHoldExpiry m) s (execMbxHoldExpiry m s) :=
  .ite (.keep (by simp)) (.keep rfl)

theorem execPing_moves (p : PortId) (s : State) : Out.Moves (.ping p) s (execPing p s) := by
  unfold execPing
  split <;> exact .keep (by simp)

theorem execState_moves (p : PortId) (s : State) : Out.Moves (.state p) s (execState p s) := by
  unfold execState
  split <;> exact .keep (by simp)

theorem execUnknownMessageType_moves (p : PortId) (s : State) : Out.Moves (.unknownMessageType p) s (execUnknownMessageType p s) := by
  unfold execUnknownMessageType
  split
  · exact .ite (.keep rfl) (.keep (by simp))
  · exact .keep rfl

theorem execPacedRelease_moves (i : Fin 4096) (s : State) : Out.Moves (.pacedRelease i) s (execPacedRelease i s) := by
  simp only [execPacedRelease]
  (repeat' split) <;> exact .keep (by simp)

theorem execBranch_moves (n : CellId) (h off : Nat) (s : State) : Out.Moves (.branch n h off) s (execBranch n h off s) := by
  refine .keep (State.issue_anchor (fun t => ?_) s n)
  split <;> simp

theorem execMove_moves (n : CellId) (c : MoveCmd) (s : State) : Out.Moves (.move n c) s (execMove n c s) := by
  unfold execMove
  split
  · exact .keep (by simp)
  · exact .ite (.keep (by simp)) (.keep rfl)

theorem execPoolScrubRead_moves (n : CellId) (ecc : EccOutcome) (s : State) :
    Out.Moves (.poolScrubRead n ecc) s (execPoolScrubRead n ecc s) := by
  refine .ite (.keep rfl) (.ite (.keep (by simp)) ?_)
  cases ecc <;> exact .keep (by simp)

theorem execMoveComplete_moves (n : Fin 57) (e : ReadsEnd) (s : State) : Out.Moves (.moveComplete n e) s (execMoveComplete n e s) := by
  simp only [execMoveComplete]
  (repeat' split) <;> exact .keep (by simp)

theorem execFetchLegComplete_moves (leg ns : Nat) (poisoned : Bool) (s : State) :
    Out.Moves (.fetchLegComplete leg ns poisoned) s (execFetchLegComplete leg ns poisoned s) := by
  unfold execFetchLegComplete
  split
  · exact .keep rfl
  · exact .ite (.keep (by simp)) (.keep rfl)

theorem execFlitCrcFail_moves (n : CellId) (dir : Fin 5) (s : State) : Out.Moves (.flitCrcFail n dir) s (execFlitCrcFail n dir s) := by
  have hcount : ∀ m, ({ (s.bump Fld.mshLinkRetry_count).wr Fld.mshStatus_linkRetry 1 with meshRetry := m } : State).anchor = s.anchor :=
    fun m => (State.anchor_with_meshRetry ..).trans (by simp)
  refine .ite (.keep (hcount _)) (.keep ?_)
  simp only [State.requestReset_anchor, State.keyFault_anchor, State.wr_anchor, hcount]

theorem execWaitNotification_moves (r : WaitRef) (s : State) : Out.Moves (.waitNotification r) s (execWaitNotification r s) := by
  unfold execWaitNotification
  split
  · exact .keep rfl
  · exact .ite (.keep (by simp)) (.keep rfl)

theorem execWaiterRegistrationRetry_moves (r : WaitRef) (s : State) :
    Out.Moves (.waiterRegistrationRetry r) s (execWaiterRegistrationRetry r s) := by
  unfold execWaiterRegistrationRetry
  split
  · exact .keep rfl
  · exact .ite (.keep (by simp)) (.keep rfl)

theorem execT3CompletionTimeout_moves (leg : Nat) (s : State) : Out.Moves (.t3CompletionTimeout leg) s (execT3CompletionTimeout leg s) := by
  unfold execT3CompletionTimeout
  split <;> exact .keep (by simp)

theorem execAdmWaitExpiry_moves (p : PortId) (tag : BitVec 16) (s : State) :
    Out.Moves (.admWaitExpiry p tag) s (execAdmWaitExpiry p tag s) := by
  unfold execAdmWaitExpiry
  split
  · exact .ite (.keep (by simp)) (.keep rfl)
  · exact .keep rfl

theorem exec_moves (c : Instr) (s : State) : Out.Moves c s (exec c s) := by
  cases c
  case fwUpdate p k => exact .burn (State.serve_burns (fun c k t => t.fwUpdate_burns c k) s 0xA0 p k)
  case commandDispatch ecc => exact .burn (s.dispatch_burns ecc)
  case keystoneRecord l last => exact .burn (s.recordFragment_burns l last)
  case powerUpStart a b q => exact ⟨_, rfl, s.powerUp_anchor a b q ▸ .samples a b rfl⟩
  case coldReset a b => exact .ite (.keep rfl) ⟨_, rfl, s.coldReset_anchor a b ▸ .samples a b rfl⟩
  case boot env =>
    obtain ⟨n, hn, h⟩ := s.boot_raises env
    exact ⟨_, rfl, h ▸ .raises env rfl n hn⟩
  case mbxHoldExpiry m => exact execMbxHoldExpiry_moves m s
  case ping p => exact execPing_moves p s
  case state p => exact execState_moves p s
  case unknownMessageType p => exact execUnknownMessageType_moves p s
  case pacedRelease i => exact execPacedRelease_moves i s
  case branch n h off => exact execBranch_moves n h off s
  case move n c => exact execMove_moves n c s
  case poolScrubRead n ecc => exact execPoolScrubRead_moves n ecc s
  case moveComplete n e => exact execMoveComplete_moves n e s
  case fetchLegComplete leg ns poisoned => exact execFetchLegComplete_moves leg ns poisoned s
  case waitNotification r => exact execWaitNotification_moves r s
  case waiterRegistrationRetry r => exact execWaiterRegistrationRetry_moves r s
  case t3CompletionTimeout leg => exact execT3CompletionTimeout_moves leg s
  case admWaitExpiry p tag => exact execAdmWaitExpiry_moves p tag s
  case badAccess p write => exact .ite (.keep (by simp)) (.keep rfl)
  case keyRegisterWrite w off v => exact .ite (.keep rfl) (.keep (by simp))
  case pcieConfigRequest p => exact .ite (.keep (by simp)) (.keep rfl)
  case poisonedWrite p => exact .ite (.keep (by simp)) (.keep rfl)
  case flushApply p k => exact .ite (.keep (by simp)) (.keep rfl)
  case headFill p k ecc => exact .ite (.keep rfl) (.keep (by simp))
  case coalesceWindowExpiry p k => exact .ite (.keep (by simp)) (.keep rfl)
  case flitCrcFail n dir => exact execFlitCrcFail_moves n dir s
  case labMissFill sp i layer line bad => exact .ite (.keep rfl) (.ite (.keep (by simp)) (.keep (by simp)))
  case parkLimitExpiry i => exact .ite (.keep (by simp)) (.keep rfl)
  case epochReadbackTimeout die again => exact .ite (.keep rfl) (.ite (.keep (by simp)) (.keep (by simp)))
  case periodTimeout d => exact .ite (.keep rfl) (.keep (by simp))
  case flywheelBoundary d => exact .ite (.keep (by simp)) (.keep rfl)
  case holdoverEntry => exact .ite (.keep (by simp)) (.keep rfl)
  case acquireTimeout => exact .ite (.keep (by simp)) (.keep rfl)
  case holdoverExpiry => exact .ite (.keep (by simp)) (.keep rfl)
  case gustEntry => exact .ite (.keep (by simp)) (.keep rfl)
  case gustCreditSpent => exact .ite (.keep (by simp)) (.keep rfl)
  case lullEntry => exact .ite (.keep (by simp)) (.keep rfl)
  case lullWake => exact .ite (.keep (by simp)) (.keep rfl)
  case stewardFault core => exact .ite (.keep (by simp)) (.keep rfl)
  all_goals exact .keep (by simp)

/-! ### The statements -/

theorem moves_of_exec {c : Instr} {s t : State} (h : exec c s = .next t) : Anchor.Moves c s.anchor t.anchor := by
  obtain ⟨u, hu, hmoves⟩ := exec_moves c s
  rw [hu] at h
  cases h
  exact hmoves

/-- Settles O3: every command answers a next state, in one of the ways of `Anchor.Moves`. -/
theorem everyCommandCompletes : Obligations.EveryCommandCompletes := fun c s => by
  obtain ⟨t, ht, _⟩ := exec_moves c s
  exact ⟨t, ht⟩

theorem Anchor.Moves.pending_eq {c : Instr} {a b : Anchor} (h : Anchor.Moves c a b) : b.pending = a.pending := by
  cases h with
  | keeps => rfl
  | burns hb => exact hb.pending
  | samples _ _ _ => rfl
  | raises _ _ _ _ => rfl

/-- Settles O4: none of the ways in which a command moves the anchored part changes the queue. -/
theorem commandsKeepTheQueue : Obligations.CommandsKeepTheQueue := fun _ _ _ h => (moves_of_exec h).pending_eq

/-- The straps after a command that is no cold reset. -/
theorem Anchor.Moves.straps_eq {c : Instr} {a b : Anchor} (h : Anchor.Moves c a b) (hc : Instr.samplesStraps c = false) :
    b.straps = a.straps ∧ b.smbA = a.smbA := by
  cases h with
  | keeps => exact ⟨rfl, rfl⟩
  | burns hb => exact ⟨hb.straps, hb.smbA⟩
  | samples _ _ hs => simp [hs] at hc
  | raises _ _ _ _ => exact ⟨rfl, rfl⟩

theorem straps_of_sampled {s t : State} {a b : BitVec 2} (h : t.anchor = s.anchor.sampled a b) : t.straps = a ∧ t.smbA = b :=
  ⟨congrArg Anchor.straps h, congrArg Anchor.smbA h⟩

/-- Settles O5: only a cold reset and a power-up sample, and both sample the straps they are given. -/
theorem strapsChangeOnlyAtColdReset : Obligations.StrapsChangeOnlyAtColdReset := by
  refine ⟨fun c s t h hc => (moves_of_exec h).straps_eq hc, fun a b s t hseat h => ?_, fun a b q s t h => ?_⟩
  · have hreset : exec (.coldReset a b) s = .next (s.coldReset a b) := by simp [exec, execColdReset, hseat]
    rw [hreset] at h
    cases h
    exact straps_of_sampled (s.coldReset_anchor a b)
  · have hup : exec (.powerUpStart a b q) s = .next (s.powerUp a b q) := (rfl)
    rw [hup] at h
    cases h
    exact straps_of_sampled (s.powerUp_anchor a b q)

theorem Anchor.Moves.fuses_kept {c : Instr} {a b : Anchor} (h : Anchor.Moves c a b) :
    (∀ k, SMap.get 0 a.fuses k ≠ 0 → SMap.get 0 b.fuses k = SMap.get 0 a.fuses k) ∧
      ∀ i, a.revoked.testBit i = true → b.revoked.testBit i = true := by
  cases h with
  | keeps => exact ⟨fun _ _ => rfl, fun _ hi => hi⟩
  | burns hb => exact ⟨hb.fuses, hb.revoked⟩
  | samples _ _ _ => exact ⟨fun _ _ => rfl, fun _ hi => hi⟩
  | raises _ _ _ _ => exact ⟨fun _ _ => rfl, fun _ hi => hi⟩

/-- Settles O6: a burn keeps burned words and revoked slots, and nothing else touches the fuses. -/
theorem burnedFusesNeverChange : Obligations.BurnedFusesNeverChange := fun _ _ _ h => (moves_of_exec h).fuses_kept

theorem Anchor.Moves.minSvn_rises {c : Instr} {a b : Anchor} (h : Anchor.Moves c a b) :
    a.minSvn ≤ b.minSvn ∧ ((∀ e, c ≠ .boot e) → b.minSvn = a.minSvn) := by
  cases h with
  | keeps => exact ⟨le_rfl, fun _ => rfl⟩
  | burns hb => exact ⟨hb.minSvn.ge, fun _ => hb.minSvn⟩
  | samples _ _ _ => exact ⟨le_rfl, fun _ => rfl⟩
  | raises env hboot n hn => exact ⟨hn, fun hc => absurd hboot (hc env)⟩

/-- Settles O7: only a boot moves the minimum svn, and raises it. -/
theorem minimumSvnOnlyRises : Obligations.MinimumSvnOnlyRises := fun _ _ _ h => (moves_of_exec h).minSvn_rises

/-! ### Steps (log entries 1 and 2) -/

/-- Settles O1: the step of a queue with a command in front is that command, by definition. -/
theorem stepRunsTheFrontCommand : Obligations.StepRunsTheFrontCommand := fun _ _ _ => rfl

theorem tick_of_stopped {s : State} (h : s.running = false) : s.tick = s.after 10 := by
  have hrun : (s.after 10).running = false := h
  simp [State.tick, hrun]

/-- Settles O2: a step on an empty queue is a tick, and a tick outside service is 10 ns. -/
theorem emptyQueueStepTicks : Obligations.EmptyQueueStepTicks := fun s hs =>
  ⟨by unfold step; rw [hs], tick_of_stopped⟩

end Sys2Proof.Machine
end

section
/-!
DEFINITION. The rows of the opcode table as steward firmware serves them (R395, R402), the commands on long operations (R405 to R410), and
the FINAL reply (R397, R399). They settle O10 to O13 and O23.
-/
open Sys2Proof
namespace Sys2Proof.Machine

/-! ### The rows of the opcode table (R395, R402) -/

/-- A row serves its packet as COMMAND_DISPATCH does: with the meaning that the table of `State.command` gives to its opcode. -/
theorem exec_of_asPacket {i : Instr} {op : Nat} {p : PortId} {pkt : Packet} (h : Instr.asPacket i = some (op, p, pkt)) (s : State) :
    exec i s = .next (s.serve op p pkt (State.command op)) := by
  unfold Instr.asPacket at h
  split at h <;> cases h <;> rfl

/-- A packet whose header is refused gets its FINAL reply. -/
theorem serve_refused {s : State} {op : Nat} {p : PortId} {k : Packet} {st : Nat} (body : Caller → Packet → State → State)
    (hserves : s.serves p = true) (hstatus : s.headerStatus p (k.withOpcode op) = some st) :
    s.serve op p k body = s.fin (s.asker op p k) st := by
  rcases serve_cases s op p k body with ⟨hno, _⟩ | ⟨st', _, hst, hfin⟩ | ⟨hacc, _⟩
  · simp [hserves] at hno
  · cases hst.symm.trans hstatus
    exact hfin
  · simp [hacc.2] at hstatus

/-- Settles O10: a row whose header is refused ends with that status. -/
theorem refusedHeadersAreAnswered : Obligations.RefusedHeadersAreAnswered := fun _ _ _ _ s _ hrow hserves hstatus =>
  (exec_of_asPacket hrow s).trans (next_of_eq (serve_refused _ hserves hstatus))

/-- Settles O11: an accepted packet gets the meaning of its row. -/
theorem acceptedCommandsDoWhatDispatchDoes : Obligations.AcceptedCommandsDoWhatDispatchDoes := by
  intro i op p pkt s hrow hacc
  exact (exec_of_asPacket hrow s).trans (next_of_eq (serve_accepted _ hacc))

/-- Settles O13: the table gives ECHO its own body, and GET_INFO the information record of the port. -/
theorem echoAndGetInfoAnswer : Obligations.EchoAndGetInfoAnswer := fun _ _ _ =>
  ⟨fun hacc => next_of_eq (serve_accepted _ hacc), fun hacc => next_of_eq (serve_accepted _ hacc)⟩

/-! ### The commands on long operations (R405, R408 to R410) -/

/-- The packet names a live operation whose handle holds, and its port may act on it (R408). -/
structure OpNamed (s : State) (p : PortId) (pkt : Packet) (query : Bool) : Prop where
  live : (s.op (pkt.target % 64)).live = true
  gen : (s.op (pkt.target % 64)).gen = pkt.target / 64
  may : s.mayOp p (s.op (pkt.target % 64)) query = true

/-- An accepted packet acts on the operation that it names. -/
theorem withOp_named {s : State} {p : PortId} {pkt : Packet} {query : Bool} (h : OpNamed s p pkt query) (op : Nat) (f : Nat → Op → State) :
    s.withOp (s.asker op p pkt) (pkt.withOpcode op) query f = f (pkt.target % 64) (s.op (pkt.target % 64)) :=
  if_pos ⟨h.live, h.gen, h.may⟩

theorem opStatus_named {s : State} {p : PortId} {pkt : Packet} (h : OpNamed s p pkt true) (op : Nat) :
    s.opStatus (s.asker op p pkt) (pkt.withOpcode op) = s.final (s.asker op p pkt) 0x00 0 (s.opRecord (s.op (pkt.target % 64))) :=
  withOp_named h op _

/-- A running operation that can be suspended is; a training job first finishes its step (R409). -/
theorem opSuspend_running {s : State} {p : PortId} {pkt : Packet} (h : OpNamed s p pkt false) (op : Nat)
    (hjob : (s.op (pkt.target % 64)).job.stoppable = true) (hst : (s.op (pkt.target % 64)).st = 0) :
    s.opSuspend (s.asker op p pkt) (pkt.withOpcode op) =
      (s.modOp (pkt.target % 64) fun o => { o with
        st := 1, job := match o.job with | .train j => .train { j with finishing := true } | j => j }).fin (s.asker op p pkt) 0x00 := by
  rw [State.opSuspend, withOp_named h, if_neg (by simp [hjob, hst]), if_neg (by simp [hst])]
  rfl

/-- A suspended flash or firmware job runs again, and the jobs go on (R410). -/
theorem opResume_suspended {s : State} {p : PortId} {pkt : Packet} (h : OpNamed s p pkt false) (op : Nat)
    (hst : (s.op (pkt.target % 64)).st = 1) (hload : ∀ j, (s.op (pkt.target % 64)).job ≠ .load j)
    (htrain : ∀ j, (s.op (pkt.target % 64)).job ≠ .train j) :
    s.opResume (s.asker op p pkt) (pkt.withOpcode op) =
      ((s.modOp (pkt.target % 64) fun o => { o with st := 0 }).fin (s.asker op p pkt) 0x00).runJobs := by
  rw [State.opResume, withOp_named h, if_neg (by simp [hst]), if_neg (by simp [hst])]
  split
  · exact absurd ‹_› (hload _)
  · exact absurd ‹_› (htrain _)
  · rfl

/-- A training job that is aborted ends with 0x0F, and its own reply follows the FINAL of the job (R409). -/
theorem opAbort_training {s : State} {p : PortId} {pkt : Packet} (h : OpNamed s p pkt false) (op : Nat) {j : TrainJob}
    (hst : (s.op (pkt.target % 64)).st ≤ 1) (hjob : (s.op (pkt.target % 64)).job = .train j) :
    s.opAbort (s.asker op p pkt) (pkt.withOpcode op) =
      ((((s.modOp (pkt.target % 64) fun o => { o with st := 2, abort := some (s.asker op p pkt) }).trainEnd (pkt.target % 64) j 0x0F).modOp
        (pkt.target % 64) fun o => { o with abort := none }).fin (s.asker op p pkt) 0x00) := by
  have hstop : ¬((!(s.op (pkt.target % 64)).job.stoppable) = true ∨ (s.op (pkt.target % 64)).st = 2) := by
    simp [hjob, Job.stoppable]
    omega
  refine (if_neg fun hdead => by simp [h.live] at hdead).trans ((withOp_named h op _).trans ((if_neg hstop).trans ?_))
  simp only [hjob]

/-- Settles O23: an accepted packet that names its operation passes the refusals that its hypotheses rule out. -/
theorem operationCommandsAct : Obligations.OperationCommandsAct := by
  intro p pkt s i o hlive hgen
  refine ⟨fun hacc hmay => ?_, fun hacc hmay hjob hst => ?_, fun hacc hmay hst hload htrain => ?_, fun j hacc hmay hst hjob => ?_⟩
  · exact next_of_eq ((serve_accepted _ hacc).trans (opStatus_named ⟨hlive, hgen, hmay⟩ _))
  · exact next_of_eq ((serve_accepted _ hacc).trans (opSuspend_running ⟨hlive, hgen, hmay⟩ _ hjob hst))
  · exact next_of_eq ((serve_accepted _ hacc).trans (opResume_suspended ⟨hlive, hgen, hmay⟩ _ hst hload htrain))
  · exact next_of_eq ((serve_accepted _ hacc).trans (opAbort_training ⟨hlive, hgen, hmay⟩ _ hst hjob))

/-! ### Entries of a queue (R429, R435, R444) -/

/-- The queue holds an entry with this sequence number, this priority and these bytes. -/
def Queue.Holds (q : Queue) (seq prio : Nat) (bytes : List Byte) : Prop := ∃ e ∈ q.entries, e.seq = seq ∧ e.prio = prio ∧ e.bytes = bytes

theorem onlyIf_keeps {β : Type} {g : State → β} {f : State → State} (h : ∀ t, g (f t) = g t) (b : Bool) (s : State) :
    g (onlyIf b f s) = g s := by
  cases b
  · rfl
  · exact h s

theorem release_queue (s : State) (p n k : Nat) : (s.release p n).queue p k = s.queue p k := by simp [State.release, State.queue]

theorem fire_queue (s : State) (p v k : Nat) : (s.fire p v).queue p k = s.queue p k := by
  rw [State.fire]
  split
  · rfl
  · simp only [State.queue, State.modPort_port_same]
    split <;> rfl

/-- A signal changes the time of the last signal, and no entry. -/
theorem signalQueue_entries (s : State) (p k : Nat) : ((s.signalQueue p k).queue p k).entries = (s.queue p k).entries := by
  rw [State.signalQueue, State.modQueue_queue_same, fire_queue]
  rfl

theorem readable_entries (s : State) (p k : Nat) : ((s.readable p k).queue p k).entries = (s.queue p k).entries := by
  unfold State.readable
  split
  · exact signalQueue_entries s p k
  · split
    · split
      · rw [State.modQueue_queue_same]
        rfl
      · exact signalQueue_entries s p k
    · exact signalQueue_entries s p k
  · rfl

/-- What the marks and the signal of a crossing leave alone, the crossing leaves alone. -/
theorem crossed_keeps {β : Type} {g : State → β} {p k : Nat}
    (hup : ∀ t : State, g ((t.wr Fld.queStatus_wmHiSeen 1 p k).bump Fld.queXcnt_up p k) = g t)
    (hdown : ∀ t : State, g ((t.wr Fld.queStatus_wmLoSeen 1 p k).bump Fld.queXcnt_down p k) = g t)
    (hsignal : ∀ t : State, g (t.signalQueue p k) = g t) (s : State) (a b : Nat) : g (s.crossed p k a b) = g s :=
  (onlyIf_keeps hsignal _ _).trans ((onlyIf_keeps hdown _ _).trans (onlyIf_keeps hup _ s))

theorem queue_of_ports {s t : State} (h : t.ports = s.ports) (p k : Nat) : t.queue p k = s.queue p k := by
  simp only [State.queue, State.port, h]

theorem marked_queue (s : State) (f g : FieldRef) (p k j : Nat) : ((s.wr f 1 p j).bump g p j).queue p k = s.queue p k :=
  queue_of_ports ((State.bump_ports ..).trans (State.wr_ports ..)) p k

theorem crossed_entries (s : State) (p k a b : Nat) : ((s.crossed p k a b).queue p k).entries = (s.queue p k).entries :=
  crossed_keeps (g := fun t => (t.queue p k).entries) (fun t => congrArg Queue.entries (marked_queue t ..))
    (fun t => congrArg Queue.entries (marked_queue t ..)) (fun t => signalQueue_entries t p k) s a b

theorem place_holds (q : Queue) (i : Nat) (e : Entry) : (q.place i e).Holds e.seq e.prio e.bytes :=
  ⟨{ e with signalled := true }, by simp [Queue.place, Queue.entries], rfl, rfl, rfl⟩

/-- The first waiting entry is still held after the head has had its turn: it entered it, or it waits. -/
theorem fillHead_holds {s : State} {p k : Nat} {e : Entry} (hfirst : (s.queue p k).firstOut = some e) (hmem : e ∈ (s.queue p k).entries) :
    ((s.fillHead p k).queue p k).Holds e.seq e.prio e.bytes := by
  simp only [State.fillHead, hfirst]
  split
  · exact ⟨e, hmem, rfl, rfl, rfl⟩
  · rename_i i v _
    have hplaced : ∀ q : Queue, q.Holds e.seq e.prio e.bytes →
        ((if e.signalled then s.modQueue p k fun _ => q else (s.modQueue p k fun _ => q).readable p k).queue p k).Holds e.seq e.prio e.bytes := by
      intro q hq
      split
      · rwa [State.modQueue_queue_same]
      · rwa [Queue.Holds, readable_entries, State.modQueue_queue_same]
    cases v
    · exact hplaced _ (place_holds ..)
    · exact hplaced _ (place_holds ..)

/-- A packet that is enqueued at a port that is up, on a queue that is not full, is held under the next sequence number. -/
theorem enqueue_holds {s : State} {p k : Nat} (hup : s.portUp p = true) (hroom : s.queueFull p k = false) (prio : Nat) (b : List Byte)
    (share : Option (Nat × Nat)) (lines : Nat) (refusal : Bool) :
    ((s.enqueue p k prio b share lines refusal).queue p k).Holds (s.queue p k).nextSeq prio b := by
  rw [State.enqueue, if_neg (by simp [hup, hroom])]
  extract_lets q e n s₁ s₂
  have hmem : e ∈ (s₂.queue p k).entries := by
    rw [crossed_entries, State.modQueue_queue_same]
    simp [Queue.entries]
  split
  · exact fillHead_holds ‹_› hmem
  · exact ⟨e, hmem, rfl, rfl, rfl⟩

/-! ### What posting a packet leaves alone -/

theorem crossed_rd {s : State} {p k : Nat} {f : FieldRef} {n i : Nat} (hs : f.reg.key n i ≠ Reg.queStatus.key p k)
    (hx : f.reg.key n i ≠ Reg.queXcnt.key p k) (a b : Nat) : (s.crossed p k a b).rd f n i = s.rd f n i := by
  have hsignal : ∀ t : State, (t.signalQueue p k).rd f n i = t.rd f n i := fun t => by
    rw [State.signalQueue, State.modQueue_rd, State.fire]
    split <;> rfl
  exact crossed_keeps (g := fun t => t.rd f n i) (fun t => (State.rd_wr_other _ hx).trans (State.rd_wr_other t hs))
    (fun t => (State.rd_wr_other _ hx).trans (State.rd_wr_other t hs)) hsignal s a b

theorem fillHead_regs (s : State) (p k : Nat) : (s.fillHead p k).regs = s.regs := by
  have hfire : ∀ (t : State) v, (t.fire p v).regs = t.regs := fun t v => by
    rw [State.fire]
    split <;> rfl
  have hsignal : ∀ t : State, (t.signalQueue p k).regs = t.regs := fun t => hfire t (k - 1)
  have hreadable : ∀ t : State, (t.readable p k).regs = t.regs := fun t => by
    unfold State.readable
    (repeat' split) <;> simp [hsignal]
  simp only [State.fillHead]
  (repeat' split) <;> simp [hreadable]

theorem enqueue_rd {s : State} {p k : Nat} {f : FieldRef} {n i : Nat} (hs : f.reg.key n i ≠ Reg.queStatus.key p k)
    (hx : f.reg.key n i ≠ Reg.queXcnt.key p k) (prio : Nat) (b : List Byte) (share : Option (Nat × Nat)) (lines : Nat) (refusal : Bool) :
    (s.enqueue p k prio b share lines refusal).rd f n i = s.rd f n i := by
  have hregs : ∀ t : State, (t.fillHead p k).rd f n i = t.rd f n i := fun t => by
    simp only [State.rd, State.reg, fillHead_regs]
  rw [State.enqueue]
  split
  · rfl
  · dsimp only
    split
    · rw [hregs, crossed_rd hs hx]
      rfl
    · rw [crossed_rd hs hx]
      rfl

/-! ### The FINAL reply (R394, R397, R399) -/

/-- The state in which a FINAL reply is posted: the outstanding entry is free, and the reply space that the reply does not use. -/
def State.settledFor (s : State) (c : Caller) (body : List Byte) : State :=
  (s.busy.wr Fld.hptCmdOut_count (s.rd Fld.hptCmdOut_count c.port - 1) c.port).release c.port (c.lines - cdiv (16 + body.length) 64)

theorem final_eq_reply (s : State) (c : Caller) (st code : Nat) (body : List Byte) :
    s.final c st code body = (s.settledFor c body).reply c.port c.prio 3 st c.tag code body := (rfl)

theorem hptCmdOut_key_ne (p k : Nat) : Reg.hptCmdOut.key p 0 ≠ Reg.queStatus.key p k ∧ Reg.hptCmdOut.key p 0 ≠ Reg.queXcnt.key p k := by
  simp only [Reg.key, Reg.place]
  omega

/-- Registers other than the outstanding count read as before. -/
theorem settledFor_rd {s : State} {c : Caller} {f : FieldRef} {n i : Nat} (h : f.reg.key n i ≠ Reg.hptCmdOut.key c.port 0)
    (body : List Byte) : (s.settledFor c body).rd f n i = s.rd f n i := State.rd_wr_other s.busy h

theorem settledFor_stamp (s : State) (c : Caller) (body : List Byte) : (s.settledFor c body).stamp = s.stamp := by
  have hnow : (s.settledFor c body).rd Fld.cadNow_period = s.rd Fld.cadNow_period :=
    settledFor_rd (by simp only [Reg.key, Reg.place, Fld.cadNow_period]; omega) body
  have hns : (s.settledFor c body).rd Fld.cadPeriod_measNs = s.rd Fld.cadPeriod_measNs :=
    settledFor_rd (by simp only [Reg.key, Reg.place, Fld.cadPeriod_measNs]; omega) body
  simp only [State.stamp, State.periods, State.phase, State.periodNs, hnow, hns]
  rfl

theorem settledFor_portUp (s : State) (c : Caller) (body : List Byte) : (s.settledFor c body).portUp c.port = s.portUp c.port := by
  have hlink : (s.settledFor c body).rd Fld.hptStatus_linkUp c.port = s.rd Fld.hptStatus_linkUp c.port :=
    settledFor_rd (by simp only [Reg.key, Reg.place, Fld.hptStatus_linkUp]; omega) body
  simp only [State.portUp, State.flag, hlink]
  rfl

theorem settledFor_queue (s : State) (c : Caller) (body : List Byte) (k : Nat) : (s.settledFor c body).queue c.port k = s.queue c.port k :=
  release_queue ..

/-- Settles O12: the FINAL is enqueued once its outstanding entry is free; posting it changes no count, and the queue holds it. -/
theorem finalReplyIsPosted : Obligations.FinalReplyIsPosted := by
  intro s c st code body hup hroom
  rw [final_eq_reply]
  refine ⟨?_, ?_⟩
  · obtain ⟨hstatus, hcount⟩ := hptCmdOut_key_ne c.port 1
    refine (enqueue_rd (f := Fld.hptCmdOut_count) hstatus hcount ..).trans ?_
    refine (State.rd_wr_same s.busy Fld.hptCmdOut_count _ c.port 0 (by decide) (by decide)).trans (Nat.mod_eq_of_lt ?_)
    have hwidth : s.rd Fld.hptCmdOut_count c.port < 2 ^ 11 := nbits_lt _ 10 0
    exact lt_of_le_of_lt (Nat.sub_le ..) hwidth
  · have hup' : (s.settledFor c body).portUp c.port = true := (settledFor_portUp ..).trans hup
    have hroom' : (s.settledFor c body).queueFull c.port 1 = false := by
      rw [State.queueFull, settledFor_queue]
      exact hroom
    have hheld := enqueue_holds hup' hroom' c.prio (replyBytes 3 st c.tag code (s.settledFor c body).stamp body) none
      (cdiv (replyBytes 3 st c.tag code (s.settledFor c body).stamp body).length 64) false
    rw [settledFor_queue, settledFor_stamp] at hheld
    rw [State.reply, settledFor_stamp]
    exact hheld

end Sys2Proof.Machine
end

section
/-!
DEFINITION. Host ports: the command window, accesses that are not aligned, reads with an effect, posts and dispatch, and ports that go down
and come up (R377 to R395, R414 to R416). They settle O26 to O28, O30 and O32.
-/
open Sys2Proof
namespace Sys2Proof.Machine

/-! ### The command window (R388, R389) -/

/-- What the window holds has no part in which of its bytes are posted. -/
theorem posted_withWin (s : State) (p off : Nat) (w : SMap Byte) :
    (s.modPort p fun h => { h with win := w }).posted p off = s.posted p off := by
  rw [State.posted, State.fromHead, State.modPort_port_same]
  rfl

/-- Bytes that are not posted are written one after the other. -/
theorem windowBytes_unposted (s : State) (p off : Nat) (l : List Byte) (k : Nat) (w : SMap Byte) (hlen : off + k + l.length ≤ 2 ^ 20)
    (hfree : ∀ i < l.length, s.posted p (off + k + i) = false) :
    forEach (l.zipIdx k) (fun e t => t.windowByte p (off + e.2) e.1) (s.modPort p fun h => { h with win := w }) =
      s.modPort p fun h => { h with win := writeBytes 0 w (off + k) l } := by
  induction l generalizing k w with
  | nil => rfl
  | cons b r ih =>
    have hfirst : (s.modPort p fun h => { h with win := w }).windowByte p (off + k) b =
        s.modPort p fun h => { h with win := SMap.put 0 w (off + k) b } := by
      have hin : ¬State.ringBytes ≤ off + k := by
        simp only [List.length_cons] at hlen
        simp only [State.ringBytes]
        omega
      rw [State.windowByte, if_neg hin, posted_withWin, if_neg (by simpa using hfree 0 (by simp)), State.modPort_modPort]
    refine (congrArg _ hfirst).trans ((ih (k + 1) _ ?_ fun i hi => ?_).trans ?_)
    · simp only [List.length_cons] at hlen
      omega
    · have := hfree (i + 1) (by simpa using hi)
      rwa [show off + k + (i + 1) = off + (k + 1) + i by omega] at this
    · rw [← Nat.add_assoc]
      rfl

theorem windowWrite_unposted {s : State} {p off : Nat} {l : List Byte} (hopen : s.barOpen p = true) (hlen : off + l.length ≤ 2 ^ 20)
    (hne : l ≠ []) (hfree : ∀ i < l.length, s.posted p (off + i) = false) :
    s.windowWrite p off l = s.modPort p fun h => { h with win := writeBytes 0 h.win off l } := by
  obtain ⟨b, r, rfl⟩ := List.exists_cons_of_ne_nil hne
  have hin : ¬State.ringBytes ≤ off := by
    simp only [List.length_cons] at hlen
    simp only [State.ringBytes]
    omega
  have hfirst : s.windowByte p off b = s.modPort p fun h => { h with win := SMap.put 0 (s.port p).win off b } := by
    rw [State.windowByte, if_neg hin, if_neg (by simpa using hfree 0 (by simp))]
    rfl
  rw [State.windowWrite, if_pos hopen]
  refine (congrArg _ hfirst).trans ((windowBytes_unposted s p off r 1 _ ?_ fun i hi => ?_).trans rfl)
  · simp only [List.length_cons] at hlen
    omega
  · have := hfree (i + 1) (by simpa using hi)
    rwa [show off + (i + 1) = off + 1 + i by omega] at this

/-- Settles O26: a write that meets no posted byte is the write of its bytes in order; a posted byte only sets win_overrun. -/
theorem commandWindowTakesBytes : Obligations.CommandWindowTakesBytes := by
  intro p off l s hopen
  refine ⟨fun hne hlen hfree => next_of_eq (windowWrite_unposted hopen hlen hne hfree), fun b hl hoff hposted => ?_⟩
  subst hl
  refine next_of_eq ((if_pos hopen).trans ?_)
  exact (if_neg (Nat.not_le.mpr hoff)).trans (if_pos hposted)

/-! ### Accesses that are not aligned (R383) -/

theorem hostWrite_unaligned {off size : Nat} (h : aligned off size = false) (s : State) (p v : Nat) :
    s.hostWrite p off size v = s.wr Fld.hptStatus_badAccess 1 p := by
  simp [State.hostWrite, h]

theorem hostRead_unaligned {off size : Nat} (h : aligned off size = false) (s : State) (p : Nat) :
    s.hostRead p off size = (0, s.wr Fld.hptStatus_badAccess 1 p) := by
  simp [State.hostRead, h]

/-- An aligned write to a register of the port's own blocks reaches it. -/
theorem hostWrite_own {p off size : Nat} {h : Hit} (ha : aligned off size = true) (hm : State.inMsix off = false)
    (hk : inKeystone off = false) (hr : regAt p off = some h) (hv : State.inViews off = false) (hw : State.hostWrites h.reg = true)
    (s : State) (v : Nat) : s.hostWrite p off size v = s.ownWrite p h (placed off size v) (byteMask off size) := by
  simp [State.hostWrite, ha, hm, hk, hr, hv, hw]

/-- A read of BAR0 through the port's open window returns what the host's read gives. -/
theorem regRead_host {p : PortId} {off : Nat} {s : State} (hopen : s.barOpen p = true) (hoff : off < 2 ^ 24) (size : Nat) :
    s.regRead (portIdent p) off size = (s.hostRead p off size).2.deliver (portIdent p) (s.hostRead p off size).1 := by
  rw [State.regRead, if_pos (isPort_portIdent p), portIdent_sub_one, if_neg (by simp [hopen]), if_neg (Nat.not_le.mpr hoff)]

/-- Settles O28: through an open BAR an access that is not aligned only sets bad_access, and an aligned write reaches its register. -/
theorem otherAccessesAreFlagged : Obligations.OtherAccessesAreFlagged := by
  intro p s hopen
  refine ⟨if_pos hopen, if_pos hopen, fun w off size v meets hw hoff => ⟨fun hbad => ⟨?_, ?_⟩, fun ha h hr hm hk hv hown => ?_⟩⟩
  · rw [exec_registerWrite, hw, regWrite_host hopen hoff, hostWrite_unaligned hbad]
  · rw [exec_readClear, hw, regRead_host hopen hoff, hostRead_unaligned hbad]
  · rw [exec_registerWrite, hw, regWrite_host hopen hoff, hostWrite_own ha hm hk hr hv hown]

/-! ### Reads with an effect (R199, R382) -/

theorem regAt_flcDone : regAt 4 0x80068 = some ⟨.flcDone, 4, 0⟩ := by decide

theorem regAt_cadNow (p : PortId) : regAt p 0x60018 = some ⟨.cadNow, p, 0⟩ := by
  revert p
  decide

/-- The 8-byte read of FLC_DONE takes the oldest completion from the list. -/
theorem readEffect_flcDone {s : State} {d : Completion} {r : List Completion} (hdone : s.flash.done = d :: r) (w n i : Nat) :
    (s.readEffect w ⟨.flcDone, n, i⟩ 0x80068 8).2 = s.modFlash fun x => { x with done := r } := by
  have hbit : (byteMask 0x80068 8).testBit 63 = true := by decide
  simp only [State.readEffect, hbit, if_true, State.popDone, hdone]

/-- Every bit of CAD_NOW reads. -/
theorem readHit_cadNow (s : State) (n i : Nat) : s.readHit ⟨.cadNow, n, i⟩ = s.cadNow % 2 ^ 64 := by
  have hmask : fieldMask Reg.cadNow.fields (· != .wo) = 2 ^ 64 - 1 := by decide
  refine Eq.trans ?_ (Nat.and_two_pow_sub_one_eq_mod _ 64)
  rw [← hmask]
  rfl

/-- A host's 4-byte read of the low half of CAD_NOW returns it, and latches the high half for its port. -/
theorem hostRead_cadNow (s : State) (p : PortId) : s.hostRead p 0x60018 4 =
    (s.cadNow % 2 ^ 32, s.modPort p fun x => { x with cadLatch := some (s.cadNow / 2 ^ 32) }) := by
  have hlow : (s.readHit ⟨.cadNow, p, 0⟩ &&& byteMask 0x60018 4) >>> 0 = s.cadNow % 2 ^ 32 := by
    rw [readHit_cadNow, show byteMask 0x60018 4 = 2 ^ 32 - 1 by decide, Nat.and_two_pow_sub_one_eq_mod, Nat.shiftRight_zero]
    exact Nat.mod_mod_of_dvd _ (by decide)
  have hread : s.hostRead p 0x60018 4 = s.readEffect (portIdent p) ⟨.cadNow, p, 0⟩ 0x60018 4 := by
    rw [State.hostRead, if_neg (by decide), if_neg (by decide), if_neg (by decide), if_neg (by simp [State.withheld, State.inViews]),
      regAt_cadNow]
  rw [hread, ← hlow]
  simp only [State.readEffect, isPort_portIdent, portIdent_sub_one]
  rfl

/-- Settles O30: FLC_DONE from inside, and the low half of CAD_NOW by a host, whose answer comes beside its latch. -/
theorem readsWithSideEffects : Obligations.ReadsWithSideEffects := by
  refine fun s => ⟨fun w d r hw hdone => ?_, fun w p hw hopen => ?_⟩
  · refine next_of_eq ((regRead_inside hw (by decide) (by decide) regAt_flcDone (.inr (by decide)) s).trans ?_)
    exact readEffect_flcDone hdone ..
  · refine next_of_eq ?_
    rw [hw, regRead_host hopen (by decide), hostRead_cadNow, State.deliver, if_pos (isPort_portIdent p), portIdent_sub_one,
      State.modPort_modPort]

/-! ### Posts (R390) -/

/-- A tail that the post takes: a multiple of 8, at or past the last accepted tail, and at most a window past the head. -/
def PostOk (s : State) (p t : Nat) : Prop :=
  t % 8 = 0 ∧ s.fromHead p (s.port p).lastTail ≤ s.fromHead p t ∧ s.fromHead p t ≤ 2 ^ 20

theorem postOk_iff (s : State) (p t : Nat) :
    PostOk s p t ↔ ¬(t % 8 ≠ 0 ∨ s.fromHead p t < s.fromHead p (s.port p).lastTail ∨ State.ringBytes < s.fromHead p t) := by
  simp only [PostOk, State.ringBytes]
  omega

theorem post_taken {s : State} {p tail : Nat} (hopen : s.barOpen p = true) (h : PostOk s p (tail % 2 ^ 21)) :
    s.post p tail = (s.modPort p fun x => { x with lastTail := tail % 2 ^ 21 }).takeAll p 65536 := by
  rw [State.post, if_neg (by simp [hopen])]
  exact if_neg ((postOk_iff s p _).mp h)

theorem post_refused {s : State} {p tail : Nat} (hopen : s.barOpen p = true) (h : ¬PostOk s p (tail % 2 ^ 21)) :
    s.post p tail = s.wr Fld.hptStatus_postBad 1 p := by
  rw [State.post, if_neg (by simp [hopen])]
  exact if_pos (not_not.mp fun hno => h ((postOk_iff s p _).mpr hno))

/-! ### COMMAND_DISPATCH (R395, R431) -/

/-- The command that is next leaves its queue; what the read of its entry met decides how it is served. -/
theorem dispatch_next {s : State} {p : Nat} {e : CmdEntry} (hnext : s.nextCommand = some (p, e)) (hserves : s.serves p = true)
    (ecc : EccOutcome) : s.dispatch ecc = match ecc with
      | .uncorrectable _ _ => ((s.popCommand p e).queueEcc p 0 ecc).fin (callerOf p e.pkt e.stamp) 0x52
      | _ => ((s.popCommand p e).queueEcc p 0 ecc).serveFor (callerOf p e.pkt e.stamp) e.pkt (State.command e.pkt.opcode) := by
  unfold State.dispatch
  rw [hnext]
  exact if_neg (by simp [hserves])

/-! ### Configuration requests and poisoned writes (R377, R414, R501) -/

theorem execPcieConfigRequest_up {s : State} {p : PortId} (hup : s.portUp p = true) :
    exec (.pcieConfigRequest p) s = .next
      (s.modPort p fun h => { h with crsAnswer := h.crs, idAnswer := if h.crs then none else some s.pcieId }) := if_pos hup

/-- Settles O27: posts, dispatch, configuration requests and poisoned writes, each by its condition. -/
theorem portCommandsReachTheirQueue : Obligations.PortCommandsReachTheirQueue := by
  refine ⟨fun p tail s hopen => ⟨fun hok => ?_, fun hbad => ?_⟩, fun p e s hnext hserves => ⟨?_, ?_, fun a b => ?_⟩,
    fun p s hup => ⟨fun h id hport hid => ⟨fun hcrs => ?_, fun hcrs => ?_⟩, fun hrun => ?_⟩⟩
  · exact next_of_eq (post_taken hopen hok)
  · exact next_of_eq (post_refused hopen hbad)
  · exact next_of_eq (dispatch_next hnext hserves .clean)
  · exact next_of_eq (dispatch_next hnext hserves .corrected)
  · exact next_of_eq (dispatch_next hnext hserves (.uncorrectable a b))
  · subst hport
    rw [execPcieConfigRequest_up hup]
    refine next_of_eq ?_
    rw [State.modPort, State.modPort, hcrs]
    rfl
  · subst hport hid
    rw [execPcieConfigRequest_up hup]
    refine next_of_eq ?_
    rw [State.modPort, State.modPort, hcrs]
    rfl
  · refine (if_pos ?_).trans (next_of_eq (if_pos hup))
    simp [State.barOpen, hrun, hup]

/-! ### A port goes down (R415) -/

/-- A present port whose link has trained, outside a reset and STILL, comes up (R416). -/
theorem linkUp_trained {s : State} {p speed width : Nat} (hpres : s.portPresent p = true) (hdown : s.portUp p = false)
    (hreset : s.key.inReset = none) (hseat : s.pwr.seatOpen = false) (hstill : s.still = false) (hspeed : 1 ≤ speed ∧ speed ≤ 5)
    (hwidth : 2 ≤ width ∧ width ≤ 4) : s.linkUp p speed width = s.bringUp p speed width :=
  if_pos (by simp [hpres, hdown, hreset, hseat, hstill, hspeed, hwidth])

/-- Settles O32: the teardown of a port that was up, and the bring-up of one that was down. -/
theorem portsGoDownAndComeUp : Obligations.PortsGoDownAndComeUp := by
  refine fun p s => ⟨fun hup hlull c => ⟨fun hrun => ?_, fun hrun => ?_⟩, fun speed width hpres hdown hreset hseat hstill h1 h5 h2 h4 => ?_,
    fun hup hd3 => ?_, fun hpres hd3 hstill => ?_⟩
  · refine next_of_eq ((if_pos hup).trans ?_)
    rw [State.portGone, if_neg (by simp [hrun])]
    simp only [hlull, Bool.false_eq_true, if_false]
  · refine next_of_eq ((if_pos hup).trans ?_)
    rw [State.portGone, if_pos (by simp [hrun])]
    rfl
  · refine next_of_eq ((linkUp_trained hpres hdown hreset hseat hstill ⟨h1, h5⟩ ⟨h2, h4⟩).trans ?_)
    simp only [State.bringUp, State.portReset, State.running, State.wr_key, State.modPort_key, State.modMbx_key]
  · have hpres : s.portPresent p = true := by
      simp only [State.portUp, Bool.and_eq_true] at hup
      exact hup.1
    refine next_of_eq ((if_neg (by simp [hpres, hd3])).trans ?_)
    exact (if_pos rfl).trans (if_pos hup)
  · refine next_of_eq ((if_neg (by simp [hpres, hd3])).trans ?_)
    exact (if_neg Bool.false_ne_true).trans (if_neg (by simp [hstill]))

end Sys2Proof.Machine
end

section
/-!
DEFINITION. Mailboxes, management messages and queues (R418 to R445). They settle O33 to O37.
-/
open Sys2Proof
namespace Sys2Proof.Machine

/-! ### Sends and takes (R420, R421) -/

/-- The mailbox has a receiver, and its senders allow `w`. -/
def Mailable (s : State) (w m : Nat) : Prop := s.receiver m ≠ 0 ∧ s.mayMail w m = true

/-- The lock of the mailbox is free, or held by `w`. -/
def LockFreeFor (s : State) (w m : Nat) : Prop := s.lockOwner m = 0 ∨ s.lockOwner m = w

theorem mailable_iff (s : State) (w m : Nat) : Mailable s w m ↔ ¬(s.receiver m = 0 || !s.mayMail w m) = true := by
  simp [Mailable]

theorem lockFreeFor_iff (s : State) (w m : Nat) :
    LockFreeFor s w m ↔ ¬(decide (s.lockOwner m ≠ 0) && decide (s.lockOwner m ≠ w)) = true := by
  simp [LockFreeFor]
  tauto

theorem mail_delivered {s : State} {w m : Nat} (hmay : Mailable s w m) (hempty : (s.box m).full = false) (hfree : LockFreeFor s w m) :
    s.mail w m = (s.modBox m fun b => { b with full := true, msg := s.mailOf w m, sender := w, orphan := false }).ring (s.receiver m) m
      false := by
  rw [State.mail, if_neg ((mailable_iff s w m).mp hmay), if_neg (by simp [hempty]), if_neg ((lockFreeFor_iff s w m).mp hfree)]

theorem mail_denied {s : State} {w m : Nat} (h : ¬Mailable s w m) : s.mail w m = s.mbxError w 2 :=
  if_pos (not_not.mp fun hno => h ((mailable_iff s w m).mpr hno))

theorem mail_full {s : State} {w m : Nat} (hmay : Mailable s w m) (hfull : (s.box m).full = true) : s.mail w m = s.mbxError w 0 := by
  rw [State.mail, if_neg ((mailable_iff s w m).mp hmay), if_pos hfull]

theorem mail_locked {s : State} {w m : Nat} (hmay : Mailable s w m) (hempty : (s.box m).full = false) (h : ¬LockFreeFor s w m) :
    s.mail w m = s.mbxError w 1 := by
  rw [State.mail, if_neg ((mailable_iff s w m).mp hmay), if_neg (by simp [hempty]),
    if_pos (not_not.mp fun hno => h ((lockFreeFor_iff s w m).mpr hno))]

/-- A take by the receiver of a full mailbox empties it, and answers that waited go out. -/
theorem take_full {s : State} {w m : Nat} (hw : s.receiver m = w) (hfull : (s.box m).full = true) :
    s.take w m = (s.empty m 1).sendOwed := by
  rw [State.take, if_neg (not_not.mpr hw), if_pos hfull]

/-- Settles O33: the send and the take, condition by condition. -/
theorem mailboxSendAndTake : Obligations.MailboxSendAndTake := fun _ _ _ =>
  ⟨fun hmay hempty hfree => next_of_eq (mail_delivered hmay hempty hfree), fun hno => next_of_eq (mail_denied hno),
    fun hmay hfull => next_of_eq (mail_full hmay hfull), fun hmay hempty hno => next_of_eq (mail_locked hmay hempty hno),
    fun hother => next_of_eq (if_pos hother), fun hw hfull => next_of_eq (take_full hw hfull)⟩

/-! ### Locks (R424 to R426) -/

/-- With no answer waiting, none goes out. -/
theorem sendOwed_nothing {s : State} (h : s.mbx.owed = []) : s.sendOwed = s := by
  rw [State.sendOwed, h]
  rfl

theorem lockRead_free {s : State} {w m : Nat} (h : s.lockOwner m = 0) :
    s.lockRead w m = (0, (s.wr Fld.mbxLock_owner w 0 m).modBox m fun b => { b with since := s.cadNow }) := if_pos h

theorem lockRead_value {s : State} {w m : Nat} (h : s.lockOwner m ≠ 0) :
    s.lockRead w m = (if s.lockOwner m = w then 0 else s.lockOwner m, s) := by
  rw [State.lockRead]
  simp only [if_neg h]
  split <;> rfl

theorem lockWrite_owner {s : State} {w m v : Nat} (h : s.lockOwner m = w ∧ v = w) :
    s.lockWrite w m v = (s.wr Fld.mbxLock_owner 0 0 m).sendOwed := if_pos (by simpa using h)

theorem lockWrite_bad {s : State} {w m v : Nat} (h : ¬(s.lockOwner m = w ∧ v = w)) : s.lockWrite w m v = s.mbxError w 4 :=
  if_neg (by simpa using h)

/-- The lock of mailbox `m` freed, the break counted and logged, before answers that waited go out. -/
def State.lockBroken (s : State) (m cause : Nat) : State :=
  (s.wr Fld.mbxLock_owner 0 0 m).logFirst Fld.mbxBreakCnt_count .mbxBreakLog
    (m * 2 ^ 48 + s.lockOwner m * 2 ^ 40 + cause % 256 * 2 ^ 32 + (s.wr Fld.mbxLock_owner 0 0 m).stamp16)

theorem lockBroken_mbx (s : State) (m cause : Nat) : (s.lockBroken m cause).mbx = s.mbx := by
  rw [State.lockBroken, State.logFirst, State.bump_mbx]
  split <;> simp only [State.setReg_mbx, State.wr_mbx]

theorem breakLock_held {s : State} {m : Nat} (h : s.lockOwner m ≠ 0) (cause : Nat) : s.breakLock m cause = (s.lockBroken m cause).sendOwed :=
  if_neg h

theorem breakLock_free {s : State} {m : Nat} (h : s.lockOwner m = 0) (cause : Nat) : s.breakLock m cause = s := if_pos h

/-- A hold that has lasted its periods is a break with cause 3 at the moment at which it expires. -/
theorem execMbxHoldExpiry_due {s : State} {m : MbxId} (hheld : s.lockOwner m ≠ 0) (hmax : s.rd Fld.mbxCfg_holdMax 0 m ≠ 0)
    (hdue : ((s.box m).since + 1 + s.rd Fld.mbxCfg_holdMax 0 m * 65536) / 65536 ≤ s.periods) :
    exec (.mbxHoldExpiry m) s = .next
      (((s.atCadence ((s.box m).since + 1 + s.rd Fld.mbxCfg_holdMax 0 m * 65536)).lockBroken m 3).sendOwed) := by
  have hlater : (s.atCadence ((s.box m).since + 1 + s.rd Fld.mbxCfg_holdMax 0 m * 65536)).lockOwner m ≠ 0 := hheld
  refine (if_pos ⟨hmax, hheld⟩).trans (next_of_eq ?_)
  exact (if_neg (Nat.not_lt.mpr hdue)).trans (breakLock_held hlater 3)

/-! ### Masks (R427) -/

/-- A conditional effect for each element is the effect for each element that meets the condition. -/
theorem forEach_filter {β : Type} (c : β → Bool) (f : β → State → State) (l : List β) (s : State) :
    forEach (l.filter c) f s = forEach l (fun b t => if c b then f b t else t) s := by
  induction l generalizing s with
  | nil => rfl
  | cons b r ih =>
    cases hb : c b
    · rw [List.filter_cons_of_neg (by simp [hb]), ih]
      simp [forEach, hb]
    · rw [List.filter_cons_of_pos hb]
      refine (ih _).trans ?_
      simp [forEach, hb]

/-- A mask write fires the vectors that it uncovers, in ascending order. -/
theorem maskWrite_eq (s : State) (p mask : Nat) : s.maskWrite p mask =
    forEach ((List.range 32).filter fun i => (s.rd Fld.mbxDbMask_mask p).testBit i && !mask.testBit i &&
        (s.rd Fld.mbxDb_bits p ||| s.rd Fld.mbxTaken_bits p).testBit i)
      (fun i t => t.fire p (17 + i)) (s.wr Fld.mbxDbMask_mask mask p) := (forEach_filter _ _ _ _).symm

/-- Settles O34: reads, writes, breaks and expiries of a lock by who holds it, and the mask write by what it uncovers. -/
theorem mailboxLocks : Obligations.MailboxLocks := by
  refine fun w m s => ⟨⟨fun hfree => ?_, fun hheld => ?_, fun v => ⟨fun hown => ⟨fun howed => ?_, ?_⟩, fun hbad => ?_⟩⟩,
    ⟨fun hheld => ⟨fun cause => ⟨fun howed => ?_, ?_⟩, fun hmax hdue => execMbxHoldExpiry_due hheld hmax hdue⟩,
      fun hfree => ⟨fun cause => ?_, ?_⟩⟩, fun p mask => ⟨?_, fun hcovered => ?_⟩⟩
  · exact next_of_eq (by rw [lockRead_free hfree])
  · exact next_of_eq (by rw [lockRead_value hheld])
  · exact next_of_eq ((lockWrite_owner hown).trans (sendOwed_nothing howed))
  · exact next_of_eq (lockWrite_owner hown)
  · exact next_of_eq (lockWrite_bad hbad)
  · exact next_of_eq ((breakLock_held hheld cause).trans (sendOwed_nothing ((congrArg MbxSys.owed (lockBroken_mbx s m cause)).trans howed)))
  · exact next_of_eq (breakLock_held hheld cause)
  · exact next_of_eq (breakLock_free hfree cause)
  · exact if_neg fun h => h.2 hfree
  · exact next_of_eq (maskWrite_eq ..)
  · refine next_of_eq ((maskWrite_eq ..).trans ?_)
    rw [List.filter_eq_nil_iff.mpr fun i hi hfires => ?_]
    · rfl
    · simp only [Bool.and_eq_true, Bool.not_eq_true'] at hfires
      obtain ⟨⟨hold, hnew⟩, hset⟩ := hfires
      simp [hcovered i (List.mem_range.mp hi) hold hnew] at hset

/-! ### Management messages (R428) -/

theorem execPing_taken {s : State} {p : PortId} {l : List Byte} (h : s.mgmtMessage p = some (0x01, l)) :
    exec (.ping p) s = .next (s.mgmtReply p (leBytes 1 0x81 ++ l.drop 1)) := by
  change execPing p s = _
  rw [execPing, h]
  rfl

theorem execState_taken {s : State} {p : PortId} {l : List Byte} (h : s.mgmtMessage p = some (0x02, l)) :
    exec (.state p) s = .next (s.mgmtReply p (leBytes 1 0x82 ++ leBytes 1 (s.rd Fld.pwrStatus_state) ++
      leBytes 1 (s.rd Fld.hptStatus_ready p) ++ leBytes 1 s.activeCells ++ leBytes 2 s.hottestC ++ leBytes 2 0 ++ leBytes 8 s.cadNow)) := by
  change execState p s = _
  rw [execState, h]
  rfl

theorem execUnknownMessageType_taken {s : State} {p : PortId} {t : Nat} {l : List Byte} (h : s.mgmtMessage p = some (t, l)) (h1 : t ≠ 0x01)
    (h2 : t ≠ 0x02) : exec (.unknownMessageType p) s = .next (s.mgmtReply p (leBytes 1 0xFF ++ leBytes 1 t)) := by
  change execUnknownMessageType p s = _
  rw [execUnknownMessageType, h]
  exact if_neg (by simp [h1, h2])

/-! ### Answers (R428; log entry 31) -/

/-- The mailbox of port `p` can take an answer of steward core 0. -/
def CanAnswer (s : State) (p : Nat) : Prop :=
  (s.box p).full = false ∧ (s.lockOwner p = 0 ∨ s.lockOwner p = 0x10) ∧ s.receiver p ≠ 0 ∧ s.mayMail 0x10 p = true

theorem canAnswer_iff (s : State) (p : Nat) : CanAnswer s p ↔
    ¬((s.box p).full || (s.lockOwner p ≠ 0 && s.lockOwner p ≠ 0x10) || s.receiver p = 0 || !s.mayMail 0x10 p) = true := by
  simp only [CanAnswer, Bool.or_eq_true, Bool.and_eq_true, decide_eq_true_eq, Bool.not_eq_true', not_or, not_and, Bool.not_eq_false,
    Bool.not_eq_true]
  tauto

/-- The payload of an answer in the staging buffer of steward core 0. -/
def State.staged (s : State) (p : Nat) (a : List Byte) : State :=
  s.modMbx fun x => { x with staging := SMap.put [] x.staging (0x10 * 32 + p) (slice (List.replicate 8 0 ++ a) 0 64) }

theorem answer_sent {s : State} {p : Nat} (h : CanAnswer s p) (a : List Byte) : s.answer p a = (s.staged p a).mail 0x10 p := by
  rw [State.answer, State.trySend, if_neg ((canAnswer_iff s p).mp h)]
  rfl

theorem answer_kept {s : State} {p : Nat} (h : ¬CanAnswer s p) (a : List Byte) :
    s.answer p a = s.modMbx fun x => { x with owed := x.owed ++ [{ port := p, payload := a, since := s.cadNow }] } := by
  rw [State.answer, State.trySend, if_pos (not_not.mp fun hno => h ((canAnswer_iff s p).mpr hno))]

theorem length_slice (l : List Byte) (off n : Nat) : (slice l off n).length = n := by
  simp [slice]

theorem slice_of_length {l : List Byte} {n : Nat} (h : l.length = n) : slice l 0 n = l := by
  subst h
  simp [slice]

/-- The staging buffer then holds the payload, filled up with zeros. -/
theorem staged_staging {a : List Byte} (ha : a.length ≤ 56) (s : State) (p : Nat) :
    ((s.staged p a).staging 0x10 p).drop 8 = a ++ List.replicate (56 - a.length) 0 := by
  have hbuf : (s.staged p a).staging 0x10 p = slice (List.replicate 8 0 ++ a) 0 64 := by
    simp only [State.staging, State.staged, State.modMbx, SMap.get_put_same]
    exact slice_of_length (length_slice ..)
  have htake : (List.replicate 8 (0 : Byte) ++ a).take 64 = List.replicate 8 0 ++ a := List.take_of_length_le (by simp; omega)
  rw [hbuf, slice, List.drop_zero, htake]
  simp [List.drop_append]

theorem fire_box (s : State) (p v m : Nat) : (s.fire p v).box m = s.box m := by
  rw [State.fire]
  split
  · rfl
  · exact State.modPort_box ..

/-- A doorbell or taken bit that is set changes no mailbox. -/
theorem ring_box (s : State) (w m k : Nat) (taken : Bool) : (s.ring w m taken).box k = s.box k := by
  unfold State.ring
  split
  · generalize (if taken then Fld.mbxTaken_bits else Fld.mbxDb_bits) = f
    have hset : (s.setBit f m (w - 1)).box k = s.box k := State.wr_box ..
    dsimp only
    split
    · rw [fire_box, hset]
    · exact hset
  · split <;> rfl

/-- An answer that can be sent stands in the mailbox as steward core 0's message. -/
theorem answer_box {s : State} {p : Nat} (h : CanAnswer s p) {a : List Byte} (ha : a.length ≤ 56) : (s.answer p a).box p =
    { s.box p with full := true, sender := 0x10, orphan := false,
                   msg := leBytes 1 0x10 ++ leBytes 1 p ++ leBytes 6 s.stamp ++ a ++ List.replicate (56 - a.length) 0 } := by
  rw [answer_sent h]
  obtain ⟨hempty, hfree, hmay⟩ := h
  have hmsg : (s.staged p a).mailOf 0x10 p =
      leBytes 1 0x10 ++ leBytes 1 p ++ leBytes 6 s.stamp ++ a ++ List.replicate (56 - a.length) 0 := by
    rw [State.mailOf, staged_staging ha, List.append_assoc _ a]
    rfl
  have hsent := mail_delivered (s := s.staged p a) (w := 0x10) (m := p) hmay hempty hfree
  rw [hsent, ring_box, State.modBox_box_same, hmsg]
  rfl

/-- Settles O35: a waiting message is taken and answered by its type; an answer goes out where it can, else it is kept; kept answers are
dropped after 16 periods. -/
theorem managementMessagesAreAnswered : Obligations.ManagementMessagesAreAnswered := by
  refine ⟨fun p s t l hmsg => ⟨fun ht => ?_, fun ht => ?_, fun h1 h2 => execUnknownMessageType_taken hmsg h1 h2⟩,
    fun p s a => ⟨fun hcan ha => answer_box hcan ha, fun hno => answer_kept hno a⟩, fun p s => rfl⟩
  · exact execPing_taken (ht ▸ hmsg)
  · exact execState_taken (ht ▸ hmsg)

/-! ### Queue rows (R437, R438, R443) -/

theorem consume_found {s : State} {p k seq i : Nat} {e : Entry} (h : (s.queue p k).head.find? (fun e => e.2.seq == seq) = some (i, e)) :
    s.consume p k seq = ((s.modQueue p k fun q => { q with head := q.head.filter fun x => !(x.1 == i) }).dropEntry p e).crossed p k
      (s.queue p k).level ((s.queue p k).level - 1) := by
  rw [State.consume, h]

theorem consume_stale {s : State} {p k seq : Nat} (h : (s.queue p k).head.find? (fun e => e.2.seq == seq) = none) :
    s.consume p k seq = s.wr Fld.queStatus_stale 1 p k := by
  rw [State.consume, h]

theorem flushWrite_queue {s : State} {p v k : Nat} (hv : nbits v 4 0 = k) (hk : 1 ≤ k ∧ k ≤ 17) :
    s.flushWrite p v = s.wr Fld.queStatus_flushing 1 p k := by
  subst hv
  exact if_pos hk

/-- Settles O36: the consume by whether its number is in the head, the flush at its boundary, and neither on queue 0. -/
theorem queuesAreConsumedAndFlushed : Obligations.QueuesAreConsumedAndFlushed := by
  refine fun p k s => ⟨fun hk seq => ⟨fun i e hfind => ?_, fun hnone => ?_⟩, fun v hv hk => ?_, fun hk hflag => ?_, fun hk seq v => ⟨?_, fun hv => ?_⟩⟩
  · exact next_of_eq ((if_neg hk).trans (consume_found hfind))
  · exact next_of_eq ((if_neg hk).trans (consume_stale hnone))
  · exact next_of_eq (flushWrite_queue hv ⟨Nat.one_le_iff_ne_zero.mpr hk, Nat.le_of_lt_succ k.isLt⟩)
  · exact if_pos ⟨hk, hflag⟩
  · exact next_of_eq (if_pos hk)
  · exact next_of_eq (if_neg (by omega))

/-! ### The head and the coalescing window (R435, R444) -/

theorem fillHead_room {s : State} {p k i : Nat} {e : Entry} {v : Option Entry} (hfirst : (s.queue p k).firstOut = some e)
    (hroom : (s.queue p k).room e = some (i, v)) : s.fillHead p k =
      (let t := s.modQueue p k fun q =>
        (match (generalizing := false) v with | some v => (q.giveBack i v).place i e | none => q.place i e)
       if e.signalled then t else t.readable p k) := by
  simp only [State.fillHead, hfirst, hroom]
  rfl

/-- With room for the first waiting entry, what its read met is counted, and mended, before it moves. -/
theorem headFill_room {s : State} {p k : Nat} {e : Entry} (hfirst : (s.queue p k).firstOut = some e)
    (hroom : ((s.queue p k).room e).isSome) (ecc : EccOutcome) : s.headFill p k ecc =
      (match ecc with
       | .uncorrectable _ _ => (s.queueEcc p k ecc).modQueue p k fun q =>
          { q with outside := q.outside.map fun (x : Entry) => if x.seq == e.seq then State.rebuilt x else x }
       | _ => s.queueEcc p k ecc).fillHead p k := by
  rw [State.headFill, hfirst]
  refine (if_neg (by simpa [Option.isSome_iff_ne_none] using hroom)).trans ?_
  cases ecc <;> rfl

/-- Settles O37: with room for the first waiting entry the head fills, after what its read met; a window that closes signals once. -/
theorem headFillsAndWindowsClose : Obligations.HeadFillsAndWindowsClose := by
  refine fun p k s e hk => ⟨fun hfirst i v hroom => ?_, fun hcoal => if_pos ⟨hk, hcoal⟩⟩
  have hsome : ((s.queue p k).room e).isSome := by simp [hroom]
  have hfill : ∀ ecc, exec (.headFill p k ecc) s = .next (s.headFill p k ecc) := fun ecc => if_neg hk
  refine ⟨?_, ?_, fun a b => ?_⟩
  · exact (hfill _).trans (next_of_eq ((headFill_room hfirst hsome .clean).trans (fillHead_room hfirst hroom)))
  · exact (hfill _).trans (next_of_eq (headFill_room hfirst hsome .corrected))
  · exact (hfill _).trans (next_of_eq (headFill_room hfirst hsome (.uncorrectable a b)))

end Sys2Proof.Machine
end

section
/-!
DEFINITION. Sags, LULL, the watchdog and the resets (R450 to R464, R471 to R476, R491, R499, R509, R512). They settle O57 and O58.
-/
open Sys2Proof
namespace Sys2Proof.Machine

/-! ### Sags, the seat and the bank (R462 to R464, R509, R512) -/

theorem requestReset_first {s : State} (h : s.key.inReset = none) (c : ResetCause) :
    s.requestReset c = (s.aerAll .uncorrectableInternal).modKey fun k => { k with inReset := some c, running := false } :=
  if_neg (by simp [h])

theorem sagWarn_first {s : State} (h : s.flag Fld.pwrStatus_sagClamp = false) (mv : Nat) : s.sagWarn mv =
    (let t := (s.leaveGust.wr Fld.flcStatus_sagHold 1).fireAll 49
     let t := (t.noticeDev 0x20 noSpan mv).noteFw 3 mv
     let t := (t.wr Fld.pwrStatus_sagClamp 1).modPwr fun x => { x with clamp := true, limPend := false }
     ((t.changeClock 40).bump Fld.pwrSagCnt_count).capacityLossAll) :=
  if_neg (by simp [h])

theorem sagClear_over {s : State} {mv : Nat} (hclamp : s.flag Fld.pwrStatus_sagClamp = true) (hseat : s.pwr.seatOpen = false)
    (hmv : s.rd Fld.keySag_warn * 100 + 200 < mv) : s.sagClear mv =
    (((((s.wr Fld.pwrStatus_sagClamp 0).modPwr fun x => { x with limPend := true }).endHold).noticeDev 0x21 noSpan mv).applyIdle) :=
  if_neg (by simpa [hclamp, hseat] using hmv)

/-- Outside a sag a charged bank lets the flash go on (R222). -/
theorem endHold_charged {s : State} (hclamp : s.flag Fld.pwrStatus_sagClamp = false) (hbank : s.pwr.bankOk = true) :
    s.endHold = ((s.wr Fld.flcStatus_sagHold 0).flashRelease).runJobs :=
  if_neg (by simp [hclamp, hbank])

/-! ### LULL (R450, R451) -/

theorem writeTable_regs (s : State) (d : Nat) : (s.writeTable d).regs = s.regs := by
  unfold State.writeTable
  split <;> rfl

/-- Saving the read counts leaves the map of the cells. -/
theorem saveReads_cellSpan (s : State) (n : Nat) : s.saveReads.cellSpan n = s.cellSpan n := by
  simp only [State.cellSpan, State.rd, State.reg, State.saveReads, writeTable_regs]

theorem enterLull_eq (s : State) : s.enterLull =
    ((forEach ((List.range 56).filter fun n => s.cellSpan n != 0xF)
      (fun n (t : State) => (t.wipeCellBut n fun off => 0x400 ≤ off && off < 0x800).modCell n fun c => { c with progs := (t.cell n).progs })
      s.saveReads).wr Fld.pwrStatus_state 1).modPwr fun x => { x with wdogAt := none } := by
  simp only [State.enterLull, saveReads_cellSpan]

theorem forEach_keeps {β γ : Type} {g : State → γ} {f : β → State → State} (h : ∀ b t, g (f b t) = g t) (l : List β) (s : State) :
    g (forEach l f s) = g s := by
  induction l generalizing s with
  | nil => rfl
  | cons b r ih => exact (ih (f b s)).trans (h b s)

/-- The state field of PWR_STATUS is no part of the map of the cells. -/
theorem wr_pwrState_cellSpan (s : State) (v n : Nat) : (s.wr Fld.pwrStatus_state v).cellSpan n = s.cellSpan n :=
  State.rd_wr_other s (by simp only [Fld.celId_span, Fld.pwrStatus_state, Reg.key, Reg.place]; omega)

theorem wakeUp_eq (s : State) : s.wakeUp =
    (((forEach ((List.range 56).filter fun n => s.cellSpan n != 0xF) (fun n (t : State) => t.wr Fld.poolStatus_initBusy 0 n)
        (s.wr Fld.pwrStatus_state 0)).modPwr fun x => { x with wdogAt := some (s.now + 50000) }).after 1200000).modPwr fun x =>
      { x with busyAt := s.now + 1200000 } := by
  have hnow : (forEach ((List.range 56).filter fun n => s.cellSpan n != 0xF) (fun n (t : State) => t.wr Fld.poolStatus_initBusy 0 n)
      (s.wr Fld.pwrStatus_state 0)).now = s.now := forEach_keeps (g := State.now) (fun _ _ => State.wr_now ..) _ _
  simp only [State.wakeUp, State.initDone, wr_pwrState_cellSpan, State.busy, State.after, State.modPwr_now, hnow]

/-- Settles O57: each event under its own condition; the map of the cells is the same before and after the counts are saved, and the state
changes. -/
theorem sagsAndSleepTakeEffect : Obligations.SagsAndSleepTakeEffect := by
  refine fun s mv => ⟨fun hclamp => next_of_eq (sagWarn_first hclamp mv), fun hclamp hseat hmv => next_of_eq (sagClear_over hclamp hseat hmv),
    fun hreset => next_of_eq (requestReset_first hreset .sag), rfl, fun hclamp => next_of_eq (endHold_charged hclamp rfl),
    fun hmay => ?_, fun hlull => ?_⟩
  · exact (if_pos hmay).trans (next_of_eq (enterLull_eq _))
  · exact (if_pos hlull).trans (next_of_eq (wakeUp_eq s))

/-! ### The watchdog (R471, R491) -/

theorem feed_counted {s : State} {w v : Nat} (hw : isSteward w = true) (hnew : s.pwr.fed ≠ some v) : s.feed w v =
    (s.wr Fld.pwrWdogFeed_progress v).modPwr fun x => { x with fed := some v, wdogAt := x.wdogAt.map fun _ => s.now } :=
  (if_pos hw).trans (if_neg hnew)

theorem feed_repeated {s : State} {w v : Nat} (hw : isSteward w = true) (hold : s.pwr.fed = some v) :
    s.feed w v = s.wr Fld.pwrWdogFeed_progress v := (if_pos hw).trans (if_pos hold)

theorem feed_other {s : State} {w v : Nat} (hw : isSteward w = false) : s.feed w v = s.hostDeny w := if_neg (by simp [hw])

theorem wdogExpire_armed {s : State} {a : Nat} (harmed : s.pwr.wdogAt = some a) (hreset : s.key.inReset = none) : s.wdogExpire =
    (let t := s.atTime (a + s.rd Fld.keyWdog_timeout * 1000000)
     (((t.fresh 3).2.keyFault 0x09 (0x10 + (t.fresh 3).1) 0).modKey fun k => { k with wdogLast := true }).requestReset .watchdog) := by
  rw [State.wdogExpire, harmed]
  exact if_neg (by simp [hreset])

/-! ### Resets (R475, R476, R509) -/

/-- After the hold the reset that keystone may release leaves the state of a module reset with its cause. -/
theorem moduleReset_released {s : State} {c d : ResetCause}
    (hheld : (((s.requestReset c).cutAll).after 1100000).key.inReset = some d)
    (hmay : (((s.requestReset c).cutAll).after 1100000).mayRelease d = true) : s.moduleReset c =
    (((((((s.requestReset c).cutAll).after 1100000).afterReset false).keepFences (((s.requestReset c).cutAll).after 1100000)).modKey
      fun k => { k with cause := causeCode d }).loadFuses) := by
  simp only [State.moduleReset, hheld, if_pos hmay]

/-- Settles O58. -/
theorem fatalFaultsAndResets : Obligations.FatalFaultsAndResets := by
  refine fun s => ⟨fun w v => ⟨fun hw hnew => next_of_eq (feed_counted hw hnew), fun hw hold => next_of_eq (feed_repeated hw hold),
    fun hw => next_of_eq (feed_other hw)⟩, fun a harmed hreset => next_of_eq (wdogExpire_armed harmed hreset), rfl,
    fun core hrun => if_pos hrun, fun c d hheld hmay => next_of_eq (moduleReset_released hheld hmay), fun a b => ⟨fun hseat => ?_, fun q => rfl⟩⟩
  exact if_neg (by simp [hseat])

end Sys2Proof.Machine
end

section
/-!
DEFINITION. Keystone, the boot, the management endpoint and JTAG (R465 to R473, R478 to R492, R519). They settle O25, O31, O59 and O60.
-/
open Sys2Proof
namespace Sys2Proof.Machine

/-! ### FW_UPDATE (R469, R492; log entry 53) -/

/-- An image whose source, length and header pass opens the update of the image that is not active, and the jobs go on. -/
theorem fwUpdate_image {s : State} {c : Caller} {pkt : Packet} {i : Nat} (hfree : s.freeOp = some i) (hdies : s.diesIn ≠ [])
    (hsrc : s.jobObjStatus c.port (pkt.fld 0 4) (pkt.fld 4 4) false = none) (hmagic : s.objRead (pkt.fld 0 4) 0 8 ≠ recordMagic)
    (hmin : fwHeader ≤ pkt.fld 4 4) (hmax : pkt.fld 4 4 ≤ fwBytes)
    (hheader : s.fwHeaderOk (s.objRead (pkt.fld 0 4) 0 fwHeader) = true)
    (hlen : pkt.fld 4 4 = fwHeader + FwHdr.payload (s.objRead (pkt.fld 0 4) 0 fwHeader)) : s.fwUpdate c pkt =
    (s.openOp i c 0xA0 noSpan (pkt.fld 4 4) (.fw ⟨pkt.fld 0 4, pkt.fld 4 4, 1 - s.key.active, 0⟩)).runJobs := by
  have hsize : ¬(pkt.fld 4 4 < fwHeader ∨ fwBytes < pkt.fld 4 4) := by omega
  rw [State.fwUpdate]
  simp only [hsrc]
  rw [if_neg (by simpa using hdies), if_neg (by simpa using hmagic), if_neg hsize, if_neg (by simp [hheader]), if_neg (not_not.mpr hlen)]
  exact startOp_free hfree ..

/-- A source that begins with the record's magic and holds a whole record opens an operation that ends with keystone's verdict. -/
theorem fwUpdate_record {s : State} {c : Caller} {pkt : Packet} {i : Nat} (hfree : s.freeOp = some i) (hdies : s.diesIn ≠ [])
    (hsrc : s.jobObjStatus c.port (pkt.fld 0 4) (pkt.fld 4 4) false = none) (hmagic : s.objRead (pkt.fld 0 4) 0 8 = recordMagic)
    (hlen : recordBytes ≤ pkt.fld 4 4) : s.fwUpdate c pkt =
    (let t := s.openOp i c 0xA0 noSpan (pkt.fld 4 4) .none
     let r := t.takeRecord (t.objRead (pkt.fld 0 4) 0 recordBytes) false
     r.2.endOp i (if r.1 then 0x00 else 0x54) []) := by
  rw [State.fwUpdate]
  simp only [hsrc]
  rw [if_neg (by simpa using hdies), if_pos (by simp [hmagic]), State.fwRecord, if_neg (Nat.not_lt.mpr hlen)]
  exact startOp_free hfree ..

/-- Settles O25: an accepted FW_UPDATE passes the refusals that its hypotheses rule out. -/
theorem firmwareUpdateBegins : Obligations.FirmwareUpdateBegins := by
  refine fun p pkt s i hfree hacc hdies hsrc => ⟨fun hmagic hmin hmax hheader hlen => ?_, fun hmagic hlen => ?_⟩
  · exact next_of_eq ((serve_accepted _ hacc).trans
      (fwUpdate_image (pkt := pkt.withOpcode 0xA0) hfree hdies hsrc hmagic hmin hmax hheader hlen))
  · exact next_of_eq ((serve_accepted _ hacc).trans (fwUpdate_record (pkt := pkt.withOpcode 0xA0) hfree hdies hsrc hmagic hlen))

/-! ### The keystone block (R465) -/

/-- No field that keystone may write before the lock lies outside the 64 bits of its register. -/
theorem rwlMask_lt (r : Reg) : fieldMask r.fields (· == .rwl) < 2 ^ 64 := by
  cases r <;> decide

theorem rwlMask_whole (r : Reg) : fieldMask r.fields (· == .rwl) &&& (2 ^ 64 - 1) = fieldMask r.fields (· == .rwl) := by
  rw [Nat.and_two_pow_sub_one_eq_mod, Nat.mod_eq_of_lt (rwlMask_lt r)]

/-- What a violation at `off` by `w` leaves, with the entry that the logs take. -/
theorem keyViol_eq {off : Nat} (hoff : off < 2 ^ 24) (w : Ident) (s : State) : s.keyViol w.toNat off =
    (let e := off * 2 ^ 40 + w.toNat * 2 ^ 32 + s.stamp16
     let viol : State := (if s.rd Fld.keyViolCnt_count = 0 then s.setReg .keyViolLog 0 0 (BitVec.ofNat 64 e) else s).bump Fld.keyViolCnt_count
     ((viol.setReg .keyViolLast 0 0 (BitVec.ofNat 64 e)).wr Fld.keyStatus_viol 1).hostDeny w.toNat) := by
  simp only [State.keyViol, State.logFirst, Nat.mod_eq_of_lt hoff, Nat.mod_eq_of_lt (show w.toNat < 256 from w.isLt)]

/-- A write to the keystone block by a party that is not a host with a closed BAR. -/
theorem exec_keyRegisterWrite {w : Ident} {off : Nat} {s : State} (hk : inKeystone off = true) (hoff : off < 2 ^ 24)
    (hopen : isPort w.toNat = true → s.barOpen (w.toNat - 1) = true) (v : Word) :
    exec (.keyRegisterWrite w off v) s = .next (s.keyWrite w.toNat off v.toNat (2 ^ 64 - 1)) := by
  refine if_neg ?_
  rw [hk, decide_eq_false (Nat.not_le.mpr hoff)]
  cases hp : isPort w.toNat with
  | false => simp
  | true => simp [hopen hp]

theorem not_isPort_of_isKeystone {w : Nat} (h : isKeystone w = true) : isPort w = false := by
  simp only [isKeystone, beq_iff_eq] at h
  simp [isPort, h]

section
variable {s : State} {w off : Nat} {h : Hit} (hr : regAt 4 off = some h)
include hr

theorem keyWrite_other (hw : isKeystone w = false) (v be : Nat) : s.keyWrite w off v be = s.keyViol w off := by
  rw [State.keyWrite, hr]
  exact if_pos (by simp [hw])

/-- A fuse word that is set, and the revoke word, take no write (R7). -/
theorem keyWrite_burned (hw : isKeystone w = true) (hslot : h.reg = .keySlot ∨ h.reg = .keySlotRev) (hset : s.reg h.reg h.n h.i ≠ 0)
    (v be : Nat) : s.keyWrite w off v be = s.keyViol w off := by
  have hword : ¬((s.reg h.reg h.n h.i).toNat = 0 ∧ v &&& be &&& h.reg.mask = 0) := fun hzero => hset (BitVec.eq_of_toNat_eq hzero.1)
  rw [State.keyWrite, hr]
  exact (if_neg (by simp [hw])).trans ((if_pos (by simpa using hslot)).trans (if_neg hword))

/-- Outside the slots a write by keystone is told by the register's RWL fields. -/
theorem keyWrite_plain (hw : isKeystone w = true) (hslot : h.reg ≠ .keySlot) (hrev : h.reg ≠ .keySlotRev) (v : Nat) :
    s.keyWrite w off v (2 ^ 64 - 1) =
      if fieldMask h.reg.fields (· == .rwl) ≠ 0 then
        (if s.flag Fld.keyLock_lock then s.keyViol w off
         else s.setReg h.reg h.n h.i (BitVec.ofNat 64 (blend (s.reg h.reg h.n h.i).toNat v (fieldMask h.reg.fields (· == .rwl)))))
      else s.plainWrite h v (2 ^ 64 - 1) := by
  rw [State.keyWrite, hr]
  refine (if_neg (by simp [hw])).trans ((if_neg (by simp [hslot, hrev])).trans ?_)
  simp only [rwlMask_whole, bne_iff_ne]

end

/-- Settles O31: every write that is not keystone's is a violation; keystone's meets the burned words, the lock and the access codes. -/
theorem keystoneBlockIsKeystones : Obligations.KeystoneBlockIsKeystones := by
  intro w off v h s hk hoff hr
  refine ⟨fun hw hopen => ?_, fun hw => ⟨fun hslot hset => ?_, fun hslot hrev hrwl => ⟨fun hlock => ?_, fun hlock => ?_⟩, fun hslot hrev hrwl => ?_⟩⟩
  · rw [exec_keyRegisterWrite hk hoff hopen, keyWrite_other hr hw, keyViol_eq hoff]
  all_goals
    have hopen : isPort w.toNat = true → s.barOpen (w.toNat - 1) = true := fun hp => by simp [not_isPort_of_isKeystone hw] at hp
    rw [exec_keyRegisterWrite hk hoff hopen]
  · rw [keyWrite_burned hr hw hslot hset, keyViol_eq hoff]
  · rw [keyWrite_plain hr hw hslot hrev, if_pos hrwl, if_pos hlock, keyViol_eq hoff]
  · rw [keyWrite_plain hr hw hslot hrev, if_pos hrwl, if_neg (by simp [hlock])]
  · rw [keyWrite_plain hr hw hslot hrev, if_neg (not_not.mpr hrwl)]

/-! ### The boot (R478, R482) -/

/-- The state after stage 0, in which the firmware is chosen: keystone's part is done, and the watchdog is armed (R491; log entry 23). -/
def State.stageOne (s : State) (e : BootEnv) : State := ((s.bootKeystone e).modPwr fun x => { x with wdogAt := some s.now }).showFw e

theorem boot_recovery {s : State} {e : BootEnv} (hwaits : s.awaitsBoot = true) (hchoice : (s.stageOne e).fwChoice e = none) : s.boot e =
    (((((s.stageOne e).after (min 900 e.ms * 1000000)).wr Fld.keyBoot_bootMs (min 900 e.ms)).recovery 1).bootEnd e) := by
  refine (if_neg (by simp [hwaits])).trans ?_
  change (match (s.stageOne e).fwChoice e with | none => _ | some img => _) = _
  rw [hchoice]
  rfl

theorem boot_chosen {s : State} {e : BootEnv} {img : Nat} (hwaits : s.awaitsBoot = true) (hchoice : (s.stageOne e).fwChoice e = some img) :
    s.boot e = if e.boots then ((((s.stageOne e).startFw e img).after (min 900 e.ms * 1000000)).wr Fld.keyBoot_bootMs (min 900 e.ms)).bootOn e img
      else ((s.stageOne e).startFw e img).wr Fld.keyBoot_stage 2 := by
  refine (if_neg (by simp [hwaits])).trans ?_
  change (match (s.stageOne e).fwChoice e with | none => _ | some img => _) = _
  rw [hchoice]
  rfl

/-! ### Trestle links (R486) -/

/-- Settles O59: the boot by the firmware that is chosen and whether it completes; a link retrains, and is repaired or faults its row. -/
theorem bootBringsService : Obligations.BootBringsService := by
  refine fun s => ⟨fun e hwaits => ⟨fun hchoice => ?_, fun img hchoice => ⟨fun hstuck => ?_, fun hboots => ?_⟩⟩, fun l hrun hidle => ?_,
    fun l n hbusy => ⟨?_, ?_⟩⟩
  · exact next_of_eq (boot_recovery hwaits hchoice)
  · exact next_of_eq ((boot_chosen hwaits hchoice).trans (if_neg (by simp [hstuck])))
  · exact next_of_eq ((boot_chosen hwaits hchoice).trans (if_pos hboots))
  · exact next_of_eq (if_pos (by rw [hrun, hidle]; rfl))
  · exact next_of_eq ((if_neg (by rw [hbusy]; exact Bool.false_ne_true)).trans (if_pos rfl))
  · exact next_of_eq ((if_neg (by rw [hbusy]; exact Bool.false_ne_true)).trans (if_neg Bool.false_ne_true))

/-! ### The management endpoint and JTAG (R473, R519; log entries 26 and 27) -/

/-- In STILL only sensor 59 is reported. -/
theorem thermalAnswer_still {s : State} (h : s.rd Fld.pwrStatus_state = 2) : s.thermalAnswer =
    ((List.range 64).flatMap fun i => if i = 59 then s.regBytes 4 .pwrTemp i else leBytes 4 0) ++ leBytes 16 0 := by
  have hstill : s.still = true := by simp [State.still, h]
  have hsensor : ∀ i : Nat, (if s.still && i != 59 then leBytes 4 0 else s.regBytes 4 .pwrTemp i) =
      if i = 59 then s.regBytes 4 .pwrTemp i else leBytes 4 0 := fun i => by
    by_cases hi : i = 59 <;> simp [hstill, hi]
  rw [State.thermalAnswer, funext hsensor, if_pos hstill]

/-- Outside STILL every sensor is, and the two summary registers. -/
theorem thermalAnswer_awake {s : State} (h : s.rd Fld.pwrStatus_state ≠ 2) : s.thermalAnswer =
    ((List.range 64).flatMap fun i => s.regBytes 4 .pwrTemp i) ++ (s.regBytes 8 .pwrTherm ++ s.regBytes 8 .pwrThermBad) := by
  have hstill : s.still = false := by simp [State.still, h]
  simp only [State.thermalAnswer, hstill, Bool.false_and, Bool.false_eq_true, if_false]

/-- The last fragment of an accepted record: keystone stores it and burns its fuses, and the answer says so (R469). -/
theorem recordFragment_accepted {s : State} {l : List Byte}
    (h : (s.modMgmt fun m => { m with frags := [] }).recordOk (s.mgmt.frags ++ l) true = true) : s.recordFragment l true =
    (((s.modMgmt fun m => { m with frags := [] }).storeRecord (s.mgmt.frags ++ l)).burnRecord (s.mgmt.frags ++ l)).modMgmt fun m =>
      { m with answer := [0x00] } := by
  simp only [State.recordFragment, State.takeRecord, if_true, h, State.mctpAnswer]

/-- The last fragment of a rejected record sets record_bad, and the answer says so. -/
theorem recordFragment_rejected {s : State} {l : List Byte}
    (h : (s.modMgmt fun m => { m with frags := [] }).recordOk (s.mgmt.frags ++ l) true = false) : s.recordFragment l true =
    ((s.modMgmt fun m => { m with frags := [] }).wr Fld.keyStatus_recordBad 1).modMgmt fun m => { m with answer := [0x01] } := by
  simp only [State.recordFragment, State.takeRecord, if_true, h, Bool.false_eq_true, if_false, State.mctpAnswer]

/-- Settles O60: each command of the endpoint and each JTAG instruction is one change of what the endpoint holds; a record's last fragment goes
to keystone first. -/
theorem managementBusAndJtagAnswer : Obligations.ManagementBusAndJtagAnswer := by
  refine fun s => ⟨⟨fun op eid hop h0 hff => ?_, fun op eid hbad => next_of_eq (if_pos hbad), rfl, fun t ht => ?_, fun t hff h0 h7f => ?_, rfl, rfl,
    fun b hb => ?_, rfl, fun hawake => ?_, fun hstill => ?_, rfl, rfl⟩, fun l => rfl, fun l => ⟨fun hok => ?_, fun hbad => ?_⟩, fun tdi => rfl, rfl,
    fun pins load => rfl, fun shift pins => rfl⟩
  · have hgood : ¬(1 < op ∨ eid = 0 ∨ eid = 0xFF) := by
      simp only [h0, hff, or_false]
      omega
    exact next_of_eq (if_neg hgood)
  · exact next_of_eq (congrArg s.mctpAnswer (if_pos ht))
  · exact next_of_eq (congrArg s.mctpAnswer (if_neg fun ht => ht.elim hff fun ht => ht.elim h0 h7f))
  · exact next_of_eq (congrArg s.mctpAnswer (if_neg hb))
  · exact next_of_eq (congrArg s.mctpAnswer (thermalAnswer_awake hawake))
  · exact next_of_eq (congrArg s.mctpAnswer (thermalAnswer_still hstill))
  · exact next_of_eq (recordFragment_accepted hok)
  · exact next_of_eq (recordFragment_rejected hbad)

end Sys2Proof.Machine
end
